-- ==== Sys2Proof/Word.lean ====
section
/-! DEFINITION. The word types of the Garelo Z9 (00_scope R13, 03_region R95, 12_group_vector R74). -/

namespace Sys2Proof

/-- One byte of memory. -/
abbrev Byte := BitVec 8

/-- A 64-bit scalar register, predicate mask, address or special register (R13). -/
abbrev Word := BitVec 64

/-- A 1,024-bit vector register (R74). -/
abbrev VReg := BitVec 1024

/-- The 96-bit encoding of one instruction (R25). -/
abbrev Slot96 := BitVec 96

end Sys2Proof
end

