-- ==== Sys2Proof/Syntax.lean ====
section
/-! DEFINITION. The instructions of the Garelo Z9 and the events of its agents: one constructor of
`Instr` for each row of spec/opcode_table.json. Operand types say what the encoding says (01_lines R37 to R49). -/

namespace Sys2Proof

/-- x0 to x15 (R13). -/
abbrev XReg := Fin 16
/-- p0 to p7 (R13). -/
abbrev PReg := Fin 8
/-- e0 to e3 (R13). -/
abbrev EReg := Fin 4
/-- A window index v0 to v63 (R43). -/
abbrev VIdx := Fin 64
/-- t0 to t3 (R323). -/
abbrev TileNo := Fin 4

/-- GN and GP of every instruction (R37, R38). -/
structure Guard where
  neg : Bool
  p   : PReg
deriving DecidableEq, Repr

/-- The second source: x[XB] with IS = 0 or IMM48 with IS = 1 (R39). -/
inductive Src where
  | reg (x : XReg)
  | imm (v : BitVec 48)
deriving DecidableEq, Repr

/-- SEXT source widths (R47). -/
inductive SextW where
  | b1 | b2 | b4
deriving DecidableEq, Repr

/-- CMP conditions (R47). -/
inductive CmpCond where
  | eq | ne | lt | ge | ltu | geu
deriving DecidableEq, Repr

/-- PANY forms (R47). -/
inductive AnyKind where
  | any | all | none
deriving DecidableEq, Repr

/-- LD and LDN widths (R47). -/
inductive LdW where
  | b1 | b2 | b4 | b8 | s1 | s2 | s4
deriving DecidableEq, Repr

/-- ST widths (R47). -/
inductive StW where
  | b1 | b2 | b4 | b8
deriving DecidableEq, Repr

/-- ORD of atomics and FENCE (R46). -/
inductive Ord where
  | none | acq | rel | ar
deriving DecidableEq, Repr

/-- SCP of atomics, FENCE and barriers (R46). -/
inductive Scope where
  | grp | core | clu | dev | pod
deriving DecidableEq, Repr

/-- MOD of an atomic or FENCE (R46). -/
structure Order where
  ord : Ord
  scp : Scope
deriving DecidableEq, Repr

/-- The PE form of an atomic other than ACAS (R278). -/
inductive ADest where
  | res (xd : XReg)
  | drop
deriving DecidableEq, Repr

/-- BR conditions with their tested register (R47, R287). -/
inductive BrTest where
  | always
  | z (x : XReg)
  | nz (x : XReg)
  | neg (x : XReg)
  | nneg (x : XReg)
deriving DecidableEq, Repr

/-- AN of format B (R41). -/
inductive Annul where
  | none | an | at_
deriving DecidableEq, Repr

/-- Event field 0 or 4 to 7 of SEND, SPNR and VPUT (R179, R227, R240). -/
abbrev EvSel := Option EReg

/-- EV and WT of an asynchronous or waiting command (R337, R375). -/
inductive Done where
  | async (e : EReg)
  | wait
deriving DecidableEq, Repr

/-- TY codes that name a type (R44). -/
inductive Ty where
  | f32 | bf16 | f16 | i32 | i16 | u32 | u16 | f8e4 | f8e5 | f4
deriving DecidableEq, Repr

/-- RM codes (R43, R75). -/
inductive Rm where
  | rne | rtz | rdn | rup
deriving DecidableEq, Repr

/-- VCMP conditions (R314). -/
inductive VCond where
  | eq | lt | le | un
deriving DecidableEq, Repr

/-- VRED operations (R319). -/
inductive VRedOp where
  | add | min | max
deriving DecidableEq, Repr

/-- Shift amount of VSHL, VSHR, VSAR (R313). -/
inductive VShift where
  | reg (vb : VIdx)
  | imm (n : Fin 32)
deriving DecidableEq, Repr

/-- VSHUF modes (R317). -/
inductive Shuf where
  | zipl | ziph | even | odd
  | rot (k : Fin 128)
deriving DecidableEq, Repr

/-- TLOAD and TSTORE formats (R337). -/
inductive TFmt where
  | f32 | bf16 | f16
deriving DecidableEq, Repr

/-- K codes of MMA and MCNT (R337, R358). -/
inductive KCode where
  | k32 | k64 | k128
deriving DecidableEq, Repr

/-- CPYR operations (R382). -/
inductive CpyrOp where
  | addF32 | addBf16 | addI32 | maxF32 | minF32
deriving DecidableEq, Repr

/-- Fields every copy-port command has: BN with BAR, FS, EV with WT (R375). -/
structure CopyOpts where
  done : Done
  bar  : Option (BitVec 17)
  full : Bool
deriving DecidableEq, Repr

/-- TLBI reach (R415). -/
inductive Reach where
  | core | clu | dev
deriving DecidableEq, Repr

/-- TLBI mode (R415). -/
inductive TlbiMode where
  | page (xa : XReg)
  | ctx
  | all
deriving DecidableEq, Repr

/-- Accesses that a permission is asked for (R404, R415). -/
inductive Perm where
  | read | write | atomic | fetch
deriving DecidableEq, Repr

/-- Status codes (R151). -/
inductive Status where
  | ok | fault | killed | full | blocked | nochan | quota | dead | unarmed | denied | linkdown | aborted
deriving DecidableEq, Repr

/-- Memory operations of the atomic instructions (R279). -/
inductive AtomOp where
  | add | and | or | xor | min | max | minu | maxu | swap | cas | fadd
deriving DecidableEq, Repr

/-- Barrier operations as a home bank applies them (R388, R394 to R396). -/
inductive BarOp where
  | init (scp : Scope) (exp : Word)
  | arr
  | exp (d : Word)
  | wait (p : Bool)
  | test (p : Bool)
  /-- the party check of a BIND, with the scope and length it binds -/
  | bind (scp : Scope) (len : BitVec 64)
  | sub (n : Nat)
deriving DecidableEq, Repr

/-- What a packet asks of its destination (SUB and AUX of R424, R425). -/
inductive PSub where
  | plain
  | atom (op : AtomOp) (n : Nat) (want : Bool) (ord : Ord)
  | cpyr (op : CpyrOp)
  | lde (clear : Bool)
  | stf
  | empt
  | feq
  | bar (op : BarOp) (gname : Nat)
deriving DecidableEq, Repr

/-- Packet kinds (R425). -/
inductive PKind where
  | rd | wr | at_ | fe | bar | put | msg | spn | kill | kack | rsp | rty
  /-- a KIND that is not listed: discarded at its destination (R424) -/
  | other (code : Nat)
deriving DecidableEq, Repr

/-- A Huivo packet (R424). `clean` is false when a header bit that must be zero is not. `esc`: it came by VC 3, which the link
tells and no field of the header does (R421). -/
structure Packet where
  kind   : PKind
  dst    : Nat
  src    : Nat
  tag    : Nat
  cls    : Nat
  sub    : PSub
  addr   : Nat
  bytes  : Nat
  hnd    : Nat
  seq    : Nat
  status : Status
  aux    : Nat
  data   : List Byte
  clean  : Bool
  esc    : Bool := false
deriving DecidableEq, Repr

/-- One flit of a link block: null, the header of a packet with its payload flits still to come, or payload (R424, R429). -/
inductive Flit where
  | null
  | header (p : Packet)
  | payload
deriving DecidableEq, Repr

/-- A link block and its trailer (R429, R430). -/
structure LinkBlock where
  /-- The CRC is correct. -/
  good  : Bool
  /-- Lanes that gave an uncorrectable codeword in the block. -/
  lost  : BitVec 8
  /-- Symbols that the FEC of each lane corrected in the block, lane 0 first. -/
  fixed : List Nat
  seq   : Nat
  flits : List Flit
  nak   : Bool
  ack   : Nat
  cv    : Nat
  cr    : Nat
deriving DecidableEq, Repr

/-- A Farrier request of 128 bytes (R457). `clean`: its zero fields are zero. `buf`: the host buffer that
A12 and A13 name, where the interface's DMA can reach it (R459). -/
structure Req where
  code  : Nat
  reqId : Nat
  ctx   : Nat
  args  : List Word
  clean : Bool
  buf   : Option (List Byte)
deriving DecidableEq, Repr

/-- Operations of an incoming RoCEv2 packet (R175, R178); `cnp` is a congestion notification, and `fatal` a local or remote fatal
error (R177). -/
inductive RdmaOp where
  | send | write | read | cas | fetchAdd | other | nakInvalid | nakAccess | ack | cnp | fatal
deriving DecidableEq, Repr

/-- An incoming RoCEv2 packet at a queue pair (R176). -/
structure RdmaPkt where
  qp   : Nat
  op   : RdmaOp
  key  : Nat
  va   : Nat
  len  : Nat
  data : List Byte
  a    : Word
  b    : Word
  /-- Immediate data of SEND or WRITE with immediate. -/
  imm  : Option (BitVec 32)
  /-- UDP destination port, and an ECN mark (R175). -/
  udp  : Nat
  ecn  : Bool
deriving DecidableEq, Repr

/-- A protected word of R477 that a soft error strikes. -/
inductive SoftWord where
  | mem (pa : Nat)
  | acc (core tile : Nat) (entry : Nat)
  | vreg (group idx word : Nat)
  | ctxState (ctx : Nat)
  /-- a correctable error, corrected in flight, in data of a context (R114) -/
  | corrected (ctx : Nat)
deriving DecidableEq, Repr

/-- Which pending access a home performs (R115). -/
inductive HomeAccess where
  | store (id : Nat)
  | ldn (core slot : Nat) (x : XReg)
  | engineWord (core cmd word : Nat)
deriving DecidableEq, Repr

/-- The result of a lane training, as masks of trained lanes (R431). -/
structure Lanes where
  tx : BitVec 8
  rx : BitVec 8
deriving DecidableEq, Repr

/-- Why a lane is lost: its receiver loses signal or codeword alignment, its FEC corrects more than 65,536 symbols in 1 ms, or it
gives an uncorrectable codeword in 4 blocks in a row (R432). -/
inductive LaneLoss where
  | signal | corrected | uncorrectable
deriving DecidableEq, Repr

/-- A lane that is lost, and why (R432). -/
structure LostLane where
  lane : Nat
  why  : LaneLoss
deriving DecidableEq, Repr

/-- The instructions (rows that threads issue, R47) and the events (rows of the other agents), in the
order of spec/opcode_table.json. -/
inductive Instr where
  | issuePosition (core : Nat)
  -- integer and bit instructions (R267)
  | add (g : Guard) (xd xa : XReg) (b : Src)
  | sub (g : Guard) (xd xa : XReg) (b : Src)
  | mul (g : Guard) (xd xa : XReg) (b : Src)
  | mulh (g : Guard) (u : Bool) (xd xa : XReg) (b : Src)
  | div (g : Guard) (u : Bool) (xd xa : XReg) (b : Src)
  | rem (g : Guard) (u : Bool) (xd xa : XReg) (b : Src)
  | and (g : Guard) (xd xa : XReg) (b : Src)
  | or (g : Guard) (xd xa : XReg) (b : Src)
  | xor (g : Guard) (xd xa : XReg) (b : Src)
  | andn (g : Guard) (xd xa : XReg) (b : Src)
  | orn (g : Guard) (xd xa : XReg) (b : Src)
  | shl (g : Guard) (xd xa : XReg) (b : Src)
  | shr (g : Guard) (xd xa : XReg) (b : Src)
  | sar (g : Guard) (xd xa : XReg) (b : Src)
  | rol (g : Guard) (xd xa : XReg) (b : Src)
  | min (g : Guard) (u : Bool) (xd xa : XReg) (b : Src)
  | max (g : Guard) (u : Bool) (xd xa : XReg) (b : Src)
  | clz (g : Guard) (xd xa : XReg)
  | ctz (g : Guard) (xd xa : XReg)
  | popc (g : Guard) (xd xa : XReg)
  | bext (g : Guard) (xd xa : XReg) (b : Src)
  | bins (g : Guard) (xd xa : XReg) (b : Src)
  | sext (g : Guard) (w : SextW) (xd xa : XReg)
  | mov (g : Guard) (xd : XReg) (b : Src)
  | li (g : Guard) (xd : XReg) (v : Word)
  | sel (g : Guard) (xd : XReg) (pn : PReg) (neg : Bool) (xa : XReg) (b : Src)
  | cmp (g : Guard) (c : CmpCond) (pd pe : PReg) (xa : XReg) (b : Src)
  | tstb (g : Guard) (pd pe : PReg) (xa : XReg) (b : Src)
  -- predicate instructions (R272)
  | pand (g : Guard) (pd pa pb : PReg)
  | por (g : Guard) (pd pa pb : PReg)
  | pxor (g : Guard) (pd pa pb : PReg)
  | pandn (g : Guard) (pd pa pb : PReg)
  | pnot (g : Guard) (pd pa : PReg)
  | pmovPtox (g : Guard) (xd : XReg) (pa : PReg)
  | pmovXtop (g : Guard) (pd : PReg) (xa : XReg)
  | pany (g : Guard) (k : AnyKind) (pd pe pa : PReg) (b : Src)
  | pcnt (g : Guard) (xd : XReg) (pa : PReg) (b : Src)
  -- memory instructions (R274)
  | ld (g : Guard) (w : LdW) (xd xa : XReg) (off : BitVec 48)
  | st (g : Guard) (w : StW) (xa xb : XReg) (off : BitVec 48)
  | ldn (g : Guard) (w : LdW) (xd xa : XReg) (off : BitVec 48)
  | lde (g : Guard) (xd xa : XReg) (off : BitVec 48)
  | ldeC (g : Guard) (xd xa : XReg) (off : BitVec 48)
  | stf (g : Guard) (xa xb : XReg) (off : BitVec 48)
  | empt (g : Guard) (xa : XReg) (off : BitVec 48)
  | feq (g : Guard) (pd pe : PReg) (xa : XReg) (off : BitVec 48)
  -- atomics (R278)
  | aadd (g : Guard) (w8 : Bool) (o : Order) (d : ADest) (xa xb : XReg) (off : BitVec 48)
  | aand (g : Guard) (w8 : Bool) (o : Order) (d : ADest) (xa xb : XReg) (off : BitVec 48)
  | aor (g : Guard) (w8 : Bool) (o : Order) (d : ADest) (xa xb : XReg) (off : BitVec 48)
  | axor (g : Guard) (w8 : Bool) (o : Order) (d : ADest) (xa xb : XReg) (off : BitVec 48)
  | amin (g : Guard) (w8 u : Bool) (o : Order) (d : ADest) (xa xb : XReg) (off : BitVec 48)
  | amax (g : Guard) (w8 u : Bool) (o : Order) (d : ADest) (xa xb : XReg) (off : BitVec 48)
  | aswap (g : Guard) (w8 : Bool) (o : Order) (d : ADest) (xa xb : XReg) (off : BitVec 48)
  | acas (g : Guard) (w8 : Bool) (o : Order) (xd : XReg) (pd pe : PReg) (xa xb : XReg) (off : BitVec 48)
  | afadd (g : Guard) (o : Order) (d : ADest) (xa xb : XReg) (off : BitVec 48)
  -- control flow, traps, system (R287, R296 to R303)
  | br (g : Guard) (t : BrTest) (an : Annul) (loff : BitVec 42) (ts : Fin 5)
  | brx (g : Guard) (an : Annul) (xa : XReg)
  | call (g : Guard) (an : Annul) (loff : BitVec 42) (ts : Fin 5)
  | callx (g : Guard) (an : Annul) (xa : XReg)
  | trap (g : Guard) (b : Src)
  | eret (g : Guard)
  | nop (g : Guard)
  | srd (g : Guard) (xd : XReg) (n : BitVec 12)
  | swr (g : Guard) (n : BitVec 12) (xa : XReg)
  | ts (g : Guard) (xd : XReg)
  | cyc (g : Guard) (xd : XReg)
  | tpost (g : Guard) (xd : XReg) (pd pe : PReg) (xa : XReg) (b : Src)
  | fence (g : Guard) (o : Order)
  | wswin (g : Guard) (xd : XReg) (b : Src)
  -- thread life (R240)
  | spawn (g : Guard) (xd : XReg) (pd pe : PReg) (xa : XReg) (b : Src)
  | spawnLoose (g : Guard) (xd : XReg) (pd pe : PReg) (xa : XReg) (b : Src)
  | spnr (g : Guard) (xa xb : XReg) (ev : EvSel)
  | join (g : Guard) (xd : XReg) (pd pe : PReg) (xa : XReg)
  | exit (g : Guard)
  | yield (g : Guard) (b : Src)
  | prio (g : Guard) (xd : XReg) (pd pe : PReg) (xa : XReg) (b : Src)
  | slot (g : Guard) (xd : XReg) (pd pe : PReg) (b : Src)
  | migr (g : Guard) (xd : XReg) (pd pe : PReg) (xa : XReg)
  | semw (g : Guard) (k : EReg) (b : Src)
  | sema (g : Guard) (xd : XReg) (pd pe : PReg) (k : EReg) (xa : XReg) (b : Src)
  | chanInstall (g : Guard) (xd : XReg) (pd pe : PReg) (xa : XReg) (b : Src)
  | chanBlock (g : Guard) (xd : XReg) (pd pe : PReg) (b : Src)
  | chanUnblock (g : Guard) (xd : XReg) (pd pe : PReg) (b : Src)
  | chanRemove (g : Guard) (xd : XReg) (pd pe : PReg) (b : Src)
  | chanQuery (g : Guard) (xd : XReg) (pd pe : PReg) (b : Src)
  -- names and puts (R226, R227)
  | gname (g : Guard) (xd : XReg)
  | gnameRank (g : Guard) (xd : XReg) (pd pe : PReg) (b : Src)
  | varm (g : Guard) (vd : VIdx) (count : Byte)
  | vput (g : Guard) (va : VIdx) (xa : XReg) (idx : Fin 64) (ev : EvSel)
  -- queues (R179)
  | send (g : Guard) (size : Fin 4) (prio : Fin 4) (ev : EvSel) (xa xb : XReg)
  | recv (g : Guard) (xd : XReg) (pd pe : PReg) (xa : XReg) (b : Src)
  | recvTry (g : Guard) (xd : XReg) (pd pe : PReg) (xa : XReg) (b : Src)
  | enq (g : Guard) (xd : XReg) (pd pe : PReg) (xa : XReg)
  | mboxOpen (g : Guard) (xd : XReg) (pd pe : PReg) (xa : XReg) (b : Src)
  | mboxClose (g : Guard) (xd : XReg) (pd pe : PReg) (b : Src)
  | mboxQuery (g : Guard) (xd : XReg) (pd pe : PReg) (b : Src)
  -- kernels (R202)
  | wid (g : Guard) (xd : XReg) (sel : Fin 17)
  | trig (g : Guard)
  | kwait (g : Guard) (pd pe : PReg)
  | klnch (g : Guard) (xd : XReg) (pd pe : PReg) (xa : XReg)
  -- barriers (R393)
  | binit (g : Guard) (scp : Scope) (xa : XReg) (b : Src)
  | barr (g : Guard) (xd xa : XReg)
  | bexp (g : Guard) (xd xa : XReg) (b : Src)
  | bwait (g : Guard) (xa : XReg) (b : Src)
  | btest (g : Guard) (pd pe : PReg) (xa : XReg) (b : Src)
  | bind (g : Guard) (scp : Scope) (xd : XReg) (pd pe : PReg) (xa : XReg) (b : Src)
  | unbind (g : Guard) (xd : XReg) (pd pe : PReg) (b : Src)
  -- vector instructions (R310)
  | vadd (g : Guard) (ty : Ty) (rm : Rm) (vd va vb : VIdx)
  | vsub (g : Guard) (ty : Ty) (rm : Rm) (vd va vb : VIdx)
  | vmul (g : Guard) (ty : Ty) (rm : Rm) (vd va vb : VIdx)
  | vfma (g : Guard) (ty : Ty) (rm : Rm) (vd va vb vc : VIdx)
  | vfms (g : Guard) (ty : Ty) (rm : Rm) (vd va vb vc : VIdx)
  | vmin (g : Guard) (ty : Ty) (vd va vb : VIdx)
  | vmax (g : Guard) (ty : Ty) (vd va vb : VIdx)
  | vabs (g : Guard) (ty : Ty) (vd va : VIdx)
  | vneg (g : Guard) (ty : Ty) (vd va : VIdx)
  | vrcp (g : Guard) (ty : Ty) (rm : Rm) (vd va : VIdx)
  | vrsq (g : Guard) (ty : Ty) (rm : Rm) (vd va : VIdx)
  | vexp2 (g : Guard) (ty : Ty) (rm : Rm) (vd va : VIdx)
  | vlog2 (g : Guard) (ty : Ty) (rm : Rm) (vd va : VIdx)
  | vcmp (g : Guard) (c : VCond) (ty : Ty) (pd pe : PReg) (va vb : VIdx)
  | vsel (g : Guard) (ty : Ty) (vd : VIdx) (pn : PReg) (neg : Bool) (va vb : VIdx)
  | vmov (g : Guard) (ty : Ty) (vd va : VIdx)
  | vbcst (g : Guard) (ty : Ty) (vd : VIdx) (xa : XReg)
  | vextr (g : Guard) (ty : Ty) (xd : XReg) (va : VIdx) (k : Fin 64)
  | vcvt (g : Guard) (dt st : Ty) (ns : Bool) (rm : Rm) (vd va : VIdx) (part : Fin 8)
  | vred (g : Guard) (op : VRedOp) (ty : Ty) (rm : Rm) (vd va : VIdx)
  | vperm (g : Guard) (ty : Ty) (vd va vb vc : VIdx)
  | vshuf (g : Guard) (ty : Ty) (vd va vb : VIdx) (m : Shuf)
  | vand (g : Guard) (ty : Ty) (vd va vb : VIdx)
  | vor (g : Guard) (ty : Ty) (vd va vb : VIdx)
  | vxor (g : Guard) (ty : Ty) (vd va vb : VIdx)
  | vshl (g : Guard) (ty : Ty) (vd va : VIdx) (sh : VShift)
  | vshr (g : Guard) (ty : Ty) (vd va : VIdx) (sh : VShift)
  | vsar (g : Guard) (ty : Ty) (vd va : VIdx) (sh : VShift)
  | viadd (g : Guard) (ty : Ty) (vd va vb : VIdx)
  | vimul (g : Guard) (ty : Ty) (vd va vb : VIdx)
  | vidx (g : Guard) (ty : Ty) (vd : VIdx) (xa : XReg) (step : BitVec 32)
  | vins (g : Guard) (ty : Ty) (vd : VIdx) (xa : XReg) (k : Fin 64)
  | vld (g : Guard) (ty : Ty) (vd : VIdx) (xa : XReg) (off : BitVec 32)
  | vst (g : Guard) (ty : Ty) (va : VIdx) (xa : XReg) (off : BitVec 32)
  | vldg (g : Guard) (ty : Ty) (vd vb : VIdx) (xa : XReg) (sh : Fin 4)
  | vsts (g : Guard) (ty : Ty) (va vb : VIdx) (xa : XReg) (sh : Fin 4)
  | vclass (g : Guard) (ty : Ty) (vd : VIdx) (pd pe : PReg) (va : VIdx) (mask : BitVec 10)
  -- tiles (R337)
  | topen (g : Guard) (t : TileNo) (w : Fin 16)
  | tclose (g : Guard) (t : TileNo)
  | tzero (g : Guard) (t : TileNo) (cb nbm : Fin 16)
  | tload (g : Guard) (f : TFmt) (d : Done) (t : TileNo) (xa xb : XReg) (cb nbm : Fin 16) (rmaj : Bool)
  | tstore (g : Guard) (f : TFmt) (d : Done) (t : TileNo) (xa xb : XReg) (cb nbm : Fin 16) (rmaj : Bool)
  | tread (g : Guard) (t : TileNo) (vi : VIdx) (xb xc : XReg) (row : Bool)
  | twrite (g : Guard) (t : TileNo) (vi : VIdx) (xb xc : XReg) (row : Bool)
  | midx (g : Guard) (t : TileNo) (vi : VIdx) (xa xb : XReg)
  | mma (g : Guard) (d : Done) (t : TileNo) (xb xc : XReg) (k : KCode) (cb : Fin 16) (nbm : Fin 4)
  | mres (g : Guard) (w : Bool) (t : TileNo)
  | tsave (g : Guard) (d : Done) (t : TileNo) (xa : XReg)
  | trest (g : Guard) (d : Done) (t : TileNo) (xa : XReg)
  | tqry (g : Guard) (xa : XReg) (t : TileNo)
  -- counting (R358)
  | mcnt (g : Guard) (d : Done) (bk : Bool) (t : TileNo) (xb xc : XReg) (k : KCode) (nbm : Fin 8)
  | mmrg (g : Guard) (d : Done)
  | mdrn (g : Guard) (d : Done) (bk : Bool) (t : TileNo) (cb : Fin 16) (nbm : Fin 8)
  | mclr (g : Guard) (d : Done) (bk : Bool)
  | mdep (g : Guard) (xa : XReg) (bk : Bool)
  -- copies (R375)
  | cpy (g : Guard) (o : CopyOpts) (xa xb xc : XReg)
  | cpy2 (g : Guard) (o : CopyOpts) (xa xb xc : XReg)
  | cpym (g : Guard) (o : CopyOpts) (xa xb xc : XReg) (msk : BitVec 8)
  | cpyw (g : Guard) (o : CopyOpts) (xa xb xc : XReg)
  | fill (g : Guard) (o : CopyOpts) (xa xb xc : XReg)
  | cpyr (g : Guard) (op : CpyrOp) (o : CopyOpts) (xa xb xc : XReg)
  | portq (g : Guard) (xa : XReg)
  -- privileged page instructions (R415)
  | tlbi (g : Guard) (r : Reach) (m : TlbiMode)
  | probe (g : Guard) (acc : Perm) (xd : XReg) (pd pe : PReg) (xa : XReg)
  -- memory events
  | loadReply (core slot : Nat)
  | ldnReply (core slot : Nat) (x : XReg)
  | storeAcknowledged (id : Nat)
  | writeCombiningIdleDrain (core line : Nat)
  | refreshWindowEnd (bank : Nat)
  | vbankPowerDown (core bank : Nat)
  | vbankWakeEnd (core bank : Nat)
  -- engine events
  | commandStart (core cmd : Nat)
  | commandComplete (core cmd : Nat)
  | passStop (core cmd folded : Nat) (status : Status) (va : Nat)
  -- puts, messages, spawns, posts
  | putArrival (id : Nat)
  | putReply (id : Nat)
  | putResend (id : Nat)
  | messageArrival (id : Nat)
  | sendReply (id : Nat)
  | mailboxReservationLapse (core idx : Nat)
  | senderRetry (id : Nat)
  | spawnMessage (id : Nat)
  | spnrAnswer (id : Nat)
  | semaDelivery (core slot : Nat)
  | postDelivery (core slot : Nat)
  | taskQueueRestore (core : Nat)
  | outriderPeriod
  | outriderCommand (core : Nat)
  | migrationArrival (core slot : Nat)
  | forwardingEntryFree (core idx : Nat)
  -- the Starter
  | launchWindowWrite (iface off : Nat) (bytes : List Byte)
  | takeLaunchRecord
  | groupPlace
  | placementFairnessTimeout (serial : Nat)
  | pendingPlacement (serial : Nat)
  -- eviction and restore
  | evictionDecision (core : Nat)
  | evictionCommit (core : Nat)
  | imageComplete (core : Nat)
  | spillToSaveArea (key : Nat)
  | restore (isGroup : Bool) (key : Nat)
  | looseRestoreTimeout (key : Nat)
  -- barriers
  | barrierOperation (core slot : Nat)
  | barrierWake (core slot : Nat)
  | bwaitTableRetry (core slot : Nat)
  -- pages
  | pageWalk (cluster idx : Nat)
  | missQueueRetry (core slot : Nat)
  | shootdownAck (core : Nat)
  | moveSubblockCopied (ctx page : Nat)
  | holdQueueRetry (id : Nat)
  | bandwidthRefill
  | bwcfgWrite (cls : Nat) (v : Word)
  -- host writes and RDMA
  | kickWrite (iface pos : Nat)
  | rheadWrite (iface pos : Nat) (v : Word)
  | rdmaWorkRequest (iface pos qp : Nat) (bytes : List Byte)
  | rdmaPacketReceived (p : RdmaPkt)
  | boundReceiveSend (qp : Nat) (bytes : List Byte)
  -- kill and reset
  | watchdogExpiry (ctx : Nat)
  | killDiscardEnd (ctx router : Nat)
  | purgeDoneReport (ctx unit : Nat)
  | purgeConfirmed (ctx : Nat)
  | zeroingDone (ctx : Nat)
  | functionLevelReset (iface : Nat)
  | pcieLinkDown
  | moduleReset
  -- requests of R458
  | ctxOpen (iface : Nat) (r : Req)
  | ctxClose (iface : Nat) (r : Req)
  | ctxKill (iface : Nat) (r : Req)
  | lqCreate (iface : Nat) (r : Req)
  | lqPause (iface : Nat) (r : Req)
  | lqResume (iface : Nat) (r : Req)
  | lqDelete (iface : Nat) (r : Req)
  | map (iface : Nat) (r : Req)
  | unmap (iface : Nat) (r : Req)
  | protect (iface : Nat) (r : Req)
  | move (iface : Nat) (r : Req)
  | wrAlloc (iface : Nat) (r : Req)
  | wrSeal (iface : Nat) (r : Req)
  | wrUnseal (iface : Nat) (r : Req)
  | wrFree (iface : Nat) (r : Req)
  | rangeSet (iface : Nat) (r : Req)
  | pdAlloc (iface : Nat) (r : Req)
  | pdFree (iface : Nat) (r : Req)
  | mrReg (iface : Nat) (r : Req)
  | mrDereg (iface : Nat) (r : Req)
  | qpCreate (iface : Nat) (r : Req)
  | qpModify (iface : Nat) (r : Req)
  | qpDestroy (iface : Nat) (r : Req)
  | qpBind (iface : Nat) (r : Req)
  | ringRead (iface : Nat) (r : Req)
  | ringRelease (iface : Nat) (r : Req)
  | budgetSet (iface : Nat) (r : Req)
  | gangStop (iface : Nat) (r : Req)
  | gangRelease (iface : Nat) (r : Req)
  | stopRead (iface : Nat) (r : Req)
  | groupMove (iface : Nat) (r : Req)
  | quote (iface : Nat) (r : Req)
  | extend (iface : Nat) (r : Req)
  | ownRelease (iface : Nat) (r : Req)
  | ownRecover (iface : Nat) (r : Req)
  | ownInstall (iface : Nat) (r : Req)
  | imgWrite (iface : Nat) (r : Req)
  | imgSelect (iface : Nat) (r : Req)
  -- the Farrier's own events
  | rqtailWrite (iface : Nat) (v : Word) (slots : List Req)
  | rpheadWrite (iface : Nat) (v : Word)
  | farrierTakeRequest (iface : Nat)
  | heartbeat
  | heartbeatTimeout
  | imgctlGo (window : List Byte)
  -- link control
  | hvpodWrite (v : Word)
  | hvctlEn (port : Nat) (en : Bool)
  | hvctlRst (port : Nat)
  | hvctlWiden (port : Nat)
  | trainingEnd (port : Nat) (l : Lanes)
  | trainingTimeout (port : Nat)
  | peerSignalLost (port : Nat)
  | laneLost (port : Nat) (tx : Bool) (lane : LostLane)
  | lmap (port : Nat) (mask working : BitVec 8) (next : Option Nat)
  | lack (port : Nat) (mask : BitVec 8)
  | linkBlock (port : Nat) (b : LinkBlock)
  | trailerTimeout (port : Nat)
  -- packets
  | packetForward (idx : Nat)
  | rd (p : Packet)
  | wr (p : Packet)
  | at_ (p : Packet)
  | fe (p : Packet)
  | bar (p : Packet)
  | put (p : Packet)
  | msg (p : Packet)
  | spn (p : Packet)
  | killPacket (p : Packet)
  | kack (p : Packet)
  | rsp (p : Packet)
  | rty (p : Packet)
  | packetTimerExpiry (seq : Nat)
  -- Ethernet ports
  | ethernetEnable (q : Nat) (aui : Bool)
  | ethernetDisable (q : Nat)
  | ethernetAgreement (q : Nat)
  | ethernetTrained (q : Nat) (fast : Bool)
  | ethernetNegTimeout (q : Nat)
  | ethernetRetry (q : Nat)
  | ethernetFault (q : Nat)
  | ethernetFaultClear (q : Nat)
  | ethernetFaultTimeout (q : Nat)
  -- power
  | curbDivision (die : Nat)
  | fdutyUpdate (die : Nat)
  | curbdieWrite (die : Nat) (v : Word)
  | cpwrFreqWrite (core : Nat) (v : Word)
  | cpwrWake (core : Nat)
  | droopTrip (core mv : Nat)
  | droopPauseEnd (core : Nat)
  | droopHalvingEnd (core : Nat)
  | phaseLoss (die : Nat)
  | coreIdle (core : Nat)
  | coreRetention (core : Nat)
  | coreGated (core : Nat)
  | coreWakeEvent (core : Nat)
  | inrushGrant (cluster : Nat)
  | rampEnd (core : Nat)
  -- late rows of the table
  | peerSignalDetected (port : Nat)
  | softError (w : SoftWord)
  | bufferZeroed (id : Nat)
  | accessAtHome (a : HomeAccess)
  | frequencyRampEnd (core : Nat)
  | rocev2Retransmission (qp : Nat)
deriving DecidableEq, Repr

end Sys2Proof
end

