-- ==== Sys2Proof/Config.lean ====
section
/-! DEFINITION. What the implementation or the manual leaves open: uninterpreted constants. Each is
applied to plain data held in State (mostly the counter `tick`), and no proof can see its value. -/

namespace Sys2Proof.Config

/-- Reference time, in ns, that passes in a core cycle the agenda says nothing about (log 6). -/
opaque elapsedNs : Nat → Nat

/-- Which free frame the Farrier takes, as an index among the frames of the wanted size (R458, log 9). -/
opaque frameChoice : Nat → Nat

/-- A work request of these bytes is a receive request: the spec gives no layout of a work request (R176, R178, log 27). -/
opaque isReceive : List Byte → Bool

/-- The buffer that a receive request names: key and virtual address (R176, log 27). -/
opaque receiveBuffer : List Byte → Nat × Nat

/-- The destination of a failed command holds a mix of old and new values: whether the byte at an address, or an entry of
the tile, keeps its old value, by command (R347, R369, log 10). -/
opaque keptOld : Nat → Nat → Bool

/-- A byte that a failing read of a command brought, by command and address (R347, R369, log 10). -/
opaque failedByte : Nat → Nat → Byte

/-- The bits of a marked accumulator entry that a command read, by command and entry (R347, R477, log 10). -/
opaque failedEntry : Nat → Nat → BitVec 32

/-- Status code and B address that a REMOP reports for a pass restored from a TSAVE image: the image holds neither
(R335, R345, log 22). -/
opaque stopLost : Nat → BitVec 56

/-- sr.taddr of an ECC trap on a vector register or tile entry, which has no address: the manual gives no value
(R114, R477, log 15). -/
opaque eccNoAddr : Nat → BitVec 64

/-- Bytes of another chip's memory read by an agent that is no thread, by tick and address (log 17). -/
opaque remoteByte : Nat → Nat → Byte

/-- Mesh messages a core has sent and received by the instant of a gang stop: the manual does not say how many
messages an access takes (R153, log 18). -/
opaque meshSent : Nat → BitVec 32
/-- As `meshSent`, for messages received (R153, log 18). -/
opaque meshRecv : Nat → BitVec 32

/-- Bytes a journal record takes: the manual gives the ring's size and not the records' (R452, log 30). -/
opaque journalBytes : Nat → Nat

/-- Time, in ns, that the check of an image in the window takes: the manual gives none (R462, log 28). -/
opaque checkNs : Nat → Nat

/-- A boot flash slot cannot be read: the manual gives the result a code and no cause (R462, R463, log 28). -/
opaque flashBad : Nat → Bool

/-- Serial number the Starter gives the n-th launch it makes: the manual gives no rule (R205, log 7). -/
opaque serialSalt : Nat → Nat

/-- SHAKE256 with 64 bytes of output, a published standard the manual only names (R24, R461, log 11). -/
opaque shake256 : List Byte → List Byte

/-- ML-DSA-65 verification: key, message, signature (R24, R460, R464, log 11). -/
opaque mldsaVerify : List Byte → List Byte → List Byte → Bool

/-- ML-DSA-65 signature by the device identity key over a message (R465, log 11). -/
opaque mldsaSign : List Byte → List Byte

/-- The maker key and the boot ROM digest fixed in the part, and the device identity (R460, R461, R465, log 11). -/
opaque makerKey : List Byte
/-- Digest of the boot ROM (R461, log 11). -/
opaque romDigest : List Byte
/-- SHAKE256 of the device identity public key (R465, log 11). -/
opaque deviceIdentity : List Byte

/-- The SUB byte of a packet's header for an operation: the spec places the operation there and gives no codes (R424; log 13). -/
opaque subByte : PSub → Byte

end Sys2Proof.Config
end

