-- ==== Sys2Proof/Machine/Tab.lean ====
section
/-! DEFINITION. Sparse tables: association lists with strictly rising keys. Slots, cores, groups and every
other numbered object of State are held in one; a key that is absent reads as a default. -/

namespace Sys2Proof.Machine

/-- A sparse table from numbers to `α`, keys strictly rising. -/
abbrev Tab (α : Type) := List (Nat × α)

/-- The entry at `k`. -/
def Tab.get? {α : Type} : Tab α → Nat → Option α
  | [], _ => none
  | (j, a) :: t, k => if j = k then some a else Tab.get? t k

/-- The entry at `k`, or `d`. -/
def Tab.getD {α : Type} (t : Tab α) (k : Nat) (d : α) : α := (Tab.get? t k).getD d

/-- `t` with `a` at `k`. -/
def Tab.set {α : Type} : Tab α → Nat → α → Tab α
  | [], k, a => [(k, a)]
  | (j, b) :: t, k, a =>
    if k < j then (k, a) :: (j, b) :: t
    else if j = k then (k, a) :: t
    else (j, b) :: Tab.set t k a

/-- `t` with no entry at `k`. -/
def Tab.erase {α : Type} : Tab α → Nat → Tab α
  | [], _ => []
  | (j, b) :: t, k => if j = k then t else (j, b) :: Tab.erase t k

/-- `t` with `f` applied at `k`, starting from `d`. -/
def Tab.modify {α : Type} (t : Tab α) (k : Nat) (d : α) (f : α → α) : Tab α := Tab.set t k (f (Tab.getD t k d))

/-- The keys, rising. -/
def Tab.keys {α : Type} (t : Tab α) : List Nat := t.map (·.1)

/-- The entries in key order. -/
def Tab.vals {α : Type} (t : Tab α) : List α := t.map (·.2)

/-- `f` applied to every entry. -/
def Tab.mapVals {α : Type} (t : Tab α) (f : Nat → α → α) : Tab α := t.map fun e => (e.1, f e.1 e.2)

/-- The entries `f` keeps. -/
def Tab.keep {α : Type} (t : Tab α) (f : Nat → α → Bool) : Tab α := t.filter fun e => f e.1 e.2

/-- The first entry `f` accepts. -/
def Tab.find {α : Type} (t : Tab α) (f : Nat → α → Bool) : Option (Nat × α) := t.find? fun e => f e.1 e.2

/-- Keys strictly rising. -/
def Tab.wf {α : Type} : Tab α → Bool
  | [] => true
  | [_] => true
  | a :: b :: t => decide (a.1 < b.1) && Tab.wf (b :: t)

/-- The lowest number below `n` that is no key. -/
def Tab.lowestFree {α : Type} (t : Tab α) (n : Nat) : Option Nat :=
  (List.range n).find? fun i => (Tab.get? t i).isNone

end Sys2Proof.Machine
end

