-- ==== Sys2Proof/Machine/State.lean ====
section
/-! DEFINITION. The state of one Garelo Z9 module as plain data, its reasons to stop, and the state after
reset. Every field's rule of spec/ stands in its docstring; INVENTORY.md lists them with their reset values. -/

namespace Sys2Proof.Machine

/-- A thread slot of the device: core and slot (R11). -/
structure Tid where
  core : Nat
  slot : Nat
deriving DecidableEq, Repr

/-- A resolved byte address: the chip that holds it and the device physical address there (R95, R97), with the
bandwidth class of the PTE that translated it, absent for a local-window access (R206). -/
structure Target where
  chip : Nat
  pa   : Nat
  bwc  : Option Nat
  loc  : Bool
deriving DecidableEq, Repr

/-- Trap causes (R290). -/
inductive Cause where
  | ill | line | btm | pair | priv | align | page | prot | addr | range | wsw | ecc | remote | remop | depth
  | scale | tile | win | bound | evovf | bpend | putnack | mbox | quota | fmt | trapi | post | kill | watch | break_
deriving DecidableEq, Repr

/-! ### Threads (R13, R257, R283, R293, R303) -/

/-- A TLB entry (R405). -/
structure TlbE where
  ctx : Nat
  va : Nat
  size : Nat
  pte : Word
deriving DecidableEq, Repr

/-- What a blocked thread waits for at a blocking point (R257), with what its completion writes. -/
inductive Block where
  /-- with the regions that the group's bindings named at issue (R399) -/
  | bwait (tgt : Target) (phase : Bool) (va : Word) (rs : List (Nat × Nat))
  | recv (box : Nat)
  | lde (tgt : Target) (xd : XReg) (clear : Bool) (va : Word)
  | owed (x : XReg)
  | semw (k : EReg) (n : Nat)
  | vhold (idx : Nat)
  | kwait (serial : Nat) (pd pe : PReg)
  | join (h : Nat) (xd : XReg) (pd pe : PReg)
deriving DecidableEq, Repr

/-- Why an instruction waits outside a blocking point and is issued again afterwards (R237). -/
inductive Retry where
  | walk                      -- a TLB miss (R406)
  | missFull (at_ : Nat)      -- the miss queue was full; asks again at this time
  | loads                     -- an acquire waits for earlier loads (R122)
  | stores (tgt : Target) (plain : Bool)  -- 32 unacknowledged stores, or no write-combining buffer for this store (R113)
  | drained                   -- the thread's unacknowledged stores must reach 0 (R131, R248)
  | released                  -- a release: everything issued has returned (R121)
  | sendPort                  -- the send port holds 4 (R167)
  | port (copy : Bool) (need : Nat)  -- a tag, the port's queue or Bridle entries (R367, R372)
  | shoot (va : Nat)          -- a shootdown of the page is not yet acknowledged, or it moves (R410, R411)
  | tile (own t : Nat)        -- the tile is locked, or a pass of another thread on it has stopped (R326)
  | blocks (n : Nat)          -- column blocks that the spill map holds are being reclaimed (R324)
  | clear (va n : Nat)        -- the image header: earlier stores and commands on its bytes (R127, R373, R345)
  | vbank (bank : Nat)        -- the bank wakes (R213)
  | refresh (until_ : Nat)    -- a weight-store refresh window (R109)
  | slot                      -- a slot is being freed by eviction (R243)
  | handler                   -- ERET: items of the handler (R296)
  | engines                   -- MIGR: engine commands in flight, or no forwarding entry (R250)
  | held (at_ : Nat)          -- a full hold queue; asks again at this time (R413)
  | rotations (until_ : Nat)  -- YIELD: the cycle in which it ends (R254)
  | fetch (line : Target)     -- the home of the thread's line keeps the fetch waiting (R109, R208, R412)
  | arrive                    -- arrived on another cluster: its acquire waits for forwarded replies (R132, R133)
  | starter                   -- KLNCH: a read of the Starter waits at its home (R205, R208, R412)
deriving DecidableEq, Repr

/-- How a reply's bytes become a register value (R275, R279, R320). -/
inductive Dest where
  | load (w : LdW) (xd : XReg)
  | atom (op : AtomOp) (n : Nat) (b c : Word) (xd : XReg) (pd pe : Option PReg) (o : Order)
  | feq (pd pe : PReg)
  | lde (xd : XReg) (clear : Bool)
  /-- vector load: register, type, enabled lanes and old contents; gathered when `g` -/
  | vec (vd : Nat) (ty : Ty) (on : List Nat) (g : Bool)
  /-- a record an instruction reads whole; the instruction then issues again (R182 to R184, R205, R246) -/
  | record
  /-- an atomic without result, performed or on its way, waits only for its acquire (R122) -/
  | acq (sc : Scope)
deriving DecidableEq, Repr

/-- A part of a waited-for access: its address, target, length, and the bytes once read. -/
structure Part where
  va : Word
  tgt : Target
  n : Nat
  got : Option (Status × List Byte)
  /-- Its class has been charged for it, with another word of the same access at its controller (R208). -/
  paid : Bool := false
deriving DecidableEq, Repr

/-- A piece of a vector store that has not gone its way (R113, R320, R321). -/
structure Piece where
  va : Word
  tgt : Target
  data : List Byte
deriving DecidableEq, Repr

/-- What a CHAN asks of the core it names (R246); an install carries the 32 bytes read. -/
inductive ChanReq where
  | install (d : List Byte)
  | block | unblock | remove | query
deriving DecidableEq, Repr

/-- An access whose reply the thread waits for in STALL. -/
inductive Op where
  | mem (parts : List Part) (d : Dest)
  /-- the pieces of a VST or VSTS that still need a write-combining buffer or a place in the store count; `inst` is the
  one instruction that the pieces of a VST count as (R113, R320, R321) -/
  | put (inst : Option Nat) (ea : Word) (left : List Piece)
  /-- a barrier operation with the regions that the group's bindings named at issue (R399) -/
  | bar (op : BarOp) (tgt : Target) (va : Word) (xd : Option XReg) (pd pe : Option PReg) (rs : List (Nat × Nat))
  /-- a BARR whose thread's stores to the bound regions are not all acknowledged (R395) -/
  | arrive (tgt : Target) (va : Word) (xd : XReg) (rs : List (Nat × Nat))
  | sema (h : Nat) (k : EReg) (n : Nat) (xd : XReg) (pd pe : PReg)
  | post (h : Nat) (v : Word) (xd : XReg) (pd pe : PReg)
  | migr (core : Nat) (xd : XReg)
  /-- a CHAN that names another core waits for its reply (R246) -/
  | chan (r : ChanReq) (core i : Nat) (xd : XReg) (pd pe : PReg)
  | cmd (tag : Nat)
deriving DecidableEq, Repr

/-- What a thread that is not READY waits for. -/
inductive Wait where
  | none
  | retry (r : Retry)
  | op (o : Op)
  | block (b : Block)
deriving DecidableEq, Repr

/-- An LDN whose reply is owed (R276). `got` holds the bytes, or the refusal, once performed at home. -/
structure Owed where
  x   : XReg
  w   : LdW
  va  : Word
  tgt : Target
  got : Option (Option Word × Status)
  /-- Forwarding entries that serve the reply: core and entry (R133). -/
  via : List (Nat × Nat)
  /-- Its place among the stores and LDNs of the device, by their numbers (R118, R413). -/
  ord : Nat
  /-- The core that issued it, whose cluster cache it reads (R117, R133). -/
  core : Nat
deriving DecidableEq, Repr

/-- The registers of one thread. -/
structure Thread where
  /-- x0 to x15 (R13). -/
  x : Vector Word 16
  /-- p0 to p7; p0 is read through `Thread.pr` (R13). -/
  p : Vector Word 8
  /-- e0 to e3 in view (R13, R293). -/
  e : Vector (BitVec 16) 4
  /-- The interrupted code's counters while privileged (R293). -/
  eb : Vector (BitVec 16) 4
  /-- The chain (R283). -/
  pc : Word
  npc : Word
  nnpc : Word
  a0 : Bool
  a1 : Bool
  k0 : Bool
  k1 : Bool
  k2 : Bool
  /-- sr.tflags PRV, NE, BSK (R304). -/
  priv : Bool
  ne : Bool
  bsk : Bool
  /-- The special registers of the thread (R303). -/
  putfail : Word
  tvec : Word
  tcause : Word
  taddr : Word
  tpc0 : Word
  tpc1 : Word
  tpc2 : Word
  tann : Word
  tsave0 : Word
  tsave1 : Word
  bkpt : Word
  watch : Word
  /-- Pending asynchronous causes with their sr.taddr values (R291). -/
  pend : Tab Word
  /-- Causes that were left pending when an asynchronous trap was taken, to be taken ahead of the handler's first instruction
  (R291). -/
  left : List Nat
  /-- Base priority (R234). -/
  prio : Nat
  /-- Ready time in cycles of the core (R233). -/
  readyAt : Nat
  /-- Cycle of the last issue (R233); also what CYC returns (R300). -/
  lastIssue : Option Nat
  /-- Owed registers (R276). -/
  owed : List Owed
  /-- What the thread waits for (R237, R257). -/
  wait : Wait
  /-- The instruction at PC has already passed its first issue and is issued again (R258). -/
  reissue : Bool
  /-- The handler's first line has not issued yet (R293). -/
  entering : Bool
  /-- Reference time at which a BWAIT without an entry in its home's wait table asks again (R396). -/
  askAt : Nat
  /-- A walk for this page failed with this cause; the access that reissues traps (R403). -/
  walkFault : Option (Nat × Nat × Nat)
  /-- Translations that walks have brought to the instruction at PC, for a range of more pages than a TLB holds (R376, R406;
  log 20). -/
  pages : List TlbE
  /-- A record the instruction at PC asked for, with its address (log 14). -/
  fetched : Option (Word × List Byte)
  /-- The first half of a pair issues; the second follows its commit (R36, R52). -/
  pairRest : Bool
  /-- The line from which the pair issues (R36). -/
  pairLine : List Byte
  /-- A woken BWAIT completes on its recorded phase, or raises the cause held: BPEND when the barrier broke (R397), REMOTE
  when another chip refused it (R273). -/
  bwaitDone : Option (Option Cause)
  /-- The instruction at PC has resumed a stopped pass at an earlier issue, as its observer (R336). -/
  resumed : Bool
  /-- What another chip answered to the thread's LDE while the thread was saved (R101; log 42). -/
  ldeDone : Option (Status × Word)
  /-- Latest failed command for PORTQ: status and tag (R384). -/
  failed : Option (Status × Nat)
  /-- A failure is recorded since the last PORTQ (R384). -/
  failNew : Bool
  /-- Context (R12). -/
  ctx : Nat
  /-- Group name, or none for a loose thread (R12). -/
  group : Option Nat
  /-- Launch serial number that created the thread, if any (R203). -/
  launch : Option Nat
  /-- Work identifier and position; meaningful for a placed thread (R187). -/
  wid : Word
  pos : Nat
  /-- Created by SPAWN or a channel in a launched group (R203). -/
  spawned : Bool
deriving DecidableEq, Repr

/-- Slot states (R230). -/
inductive SlotSt where
  | free | ready | stall | wait | saving
deriving DecidableEq, Repr

/-- Departure records (R232). -/
inductive Departed where
  | exited
  | moved (h : Nat)
  | saved
deriving DecidableEq, Repr

/-- One slot of a Stable (R230 to R232). -/
structure Slot where
  st : SlotSt
  gen : Nat
  /-- Departure record: generation, kind, and a serial that orders records by age. -/
  dep : Option (Nat × Departed × Nat)
  /-- Time of entry to WAIT (R260). -/
  waitAt : Nat
  th : Thread
deriving DecidableEq, Repr

/-! ### Memory accesses in flight (R113, R115, R118) -/

/-- How far a store has come. -/
inductive Phase where
  /-- in a write-combining buffer -/
  | buffered
  /-- behind an earlier store of its thread to its bytes, before the packet to another chip goes out (R118) -/
  | waiting
  /-- on its way to its home -/
  | sent
  /-- in a migration hold queue (R412) -/
  | held
  /-- refused by a full hold queue; resent at this time (R413) -/
  | retry (at_ : Nat)
  /-- performed at home -/
  | done
  /-- refused at home -/
  | refused (st : Status)
deriving DecidableEq, Repr

/-- What a store writes at home. -/
inductive StoreKind where
  | plain
  | stf
  | empt
  | atom (op : AtomOp) (b : Word) (o : Order)
deriving DecidableEq, Repr

/-- A store, STF, EMPT or atomic without result not yet acknowledged. -/
structure Store where
  id : Nat
  /-- The instruction it comes from: the pieces of a VST count as one store (R320). -/
  inst : Nat
  tid : Tid
  gen : Nat
  ctx : Nat
  launch : Option Nat
  va : Word
  /-- Address that sr.taddr reports when a home refuses it: the instruction's (R273, R320). -/
  ea : Word
  tgt : Target
  kind : StoreKind
  data : List Byte
  n : Nat
  phase : Phase
  /-- Cycle of the write that entered the write-combining buffer last (R110). -/
  cyc : Nat
  /-- Written by the handler of its thread (R295). -/
  priv : Bool
  /-- A refusal of another piece of its instruction has been raised (R320). -/
  told : Bool
  /-- Its class has been charged for it, with another piece of its instruction at its controller (R208). -/
  paid : Bool := false
deriving DecidableEq, Repr

/-- An access that waits at a controller (R208, R412). -/
inductive AccKey where
  | store (id : Nat)
  | load (t : Tid)
  | ldn (h : Nat) (x : XReg)
  | word (core cmd w : Nat)
  | far (src seq : Nat)
  /-- the fetch of a thread -/
  | fetch (t : Tid)
  /-- a transaction of the RDMA adapter or of a task queue with another chip -/
  | tx (seq : Nat)
deriving DecidableEq, Repr

/-- An access held for a moving page: key, context, address at the old frame, and whether it writes (R412). -/
structure HeldAcc where
  key : AccKey
  ctx : Nat
  pa : Nat
  write : Bool
deriving DecidableEq, Repr

/-- An access that waits at a controller for its class: key, context, and its place in the order of arrival (R208). -/
structure BwWait where
  key : AccKey
  ctx : Nat
  ord : Nat
deriving DecidableEq, Repr

/-- Who waits in a bank's queue of LDE operations (R101). -/
inductive LdeWho where
  | thread (t : Tid)
  | far (p : Packet)
deriving DecidableEq, Repr

/-- A waiting LDE. -/
structure LdeWait where
  pa : Nat
  clear : Bool
  who : LdeWho
deriving DecidableEq, Repr

/-! ### Engines (R366 to R384) -/

/-- A run of a translated range. -/
structure Seg where
  va : Nat
  len : Nat
  tgt : Target
deriving DecidableEq, Repr

/-- A Bridle entry: destination or source, chip, first and last 64-byte line (R370). -/
structure Lock where
  dst : Bool
  chip : Nat
  lo : Nat
  hi : Nat
deriving DecidableEq, Repr

/-- A gather descriptor (R330). -/
structure Desc where
  idx : List (BitVec 16)
  base : Word
  stride : Word
deriving DecidableEq, Repr

/-- A sampled pass (R329, R341). -/
structure Pass where
  fmt : Word
  ascl : Word
  bscl : Word
  desc : Desc
  xb : Word
  xc : Word
  segs : List Seg
  cb : Nat
  nbm : Nat
  k : KCode
  dn : Done
  tid : Tid
  gen : Nat
  pc : Word
  sa : List (BitVec 32)
  sb : BitVec 32
deriving DecidableEq, Repr

/-- What a command does. -/
inductive CmdOp where
  | marker
  | cpy (da sa len : Nat) (dst src : List Seg) (full : Bool)
  | cpy2 (da sa rows rlen dstr sstr : Nat) (dst src : List Seg) (full : Bool)
  | cpym (off sa len : Nat) (cores : List Nat) (src : List Seg) (full : Bool)
  | cpyw (da sa len : Nat) (dst src : List Seg)
  | fill (da len : Nat) (v : Word) (dst : List Seg) (full : Bool)
  | cpyr (op : CpyrOp) (da sa len : Nat) (dst src : List Seg) (full : Bool)
  | tload (f : TFmt) (t : Nat) (xa xb : Nat) (cb nbm : Nat) (rmaj : Bool) (segs : List Seg)
  | tstore (f : TFmt) (t : Nat) (xa xb : Nat) (cb nbm : Nat) (rmaj : Bool) (segs : List Seg)
  | mma (t : Nat) (p : Pass) (from_ : Nat)
  /-- with the descriptor of the tile at issue (R340, R345) -/
  | tsave (t : Nat) (xa : Nat) (segs : List Seg) (desc : Option Desc)
  | trest (t : Nat) (xa : Nat) (segs : List Seg) (hdr : List Byte)
  | mcnt (bank t : Nat) (p : Pass)
  | mmrg
  | mdrn (bank t cb n : Nat) (acm : Bool) (key : Option (List (BitVec 32)))
  | mclr (bank : Nat)
deriving DecidableEq, Repr

/-- A command in a port's queue (R366 to R373). -/
structure Cmd where
  id : Nat
  copy : Bool
  op : CmdOp
  tid : Tid
  gen : Nat
  /-- The thread the command answers has exited or gone: its adds are discarded (R248). -/
  orphan : Bool
  ctx : Nat
  group : Option Nat
  launch : Option Nat
  tag : Nat
  dn : Done
  /-- Issued by a trap handler (R295). -/
  priv : Bool
  locks : List Lock
  /-- Barrier named (physical granule address) and byte count (R368). -/
  bar : Option (Nat × Nat)
  /-- Stores of the thread that must be performed before the command starts (R127). -/
  after : List Nat
  started : Bool
  /-- Keys of its writes already performed or on their way. -/
  words : List Nat
  /-- Words of its sources read so far, and pieces that other chips sent, by virtual address, with the status of each. -/
  buf : Tab (Status × List Byte)
  /-- Its writes have been performed, or are on their way to another chip. -/
  did : Bool
  /-- The table of tiles its tile is in: the group's name, or the key of a handler (R295). -/
  own : Nat
  /-- First failing read or refused write: status and address (R369). -/
  fail : Option (Status × Word)
deriving DecidableEq, Repr

/-- A thread in STALL for Bridle entries, in order of its first stall (R372). -/
structure BridleWait where
  tid : Tid
  need : Nat
deriving DecidableEq, Repr

/-- One bank of the counting array (R348). -/
structure CountBank where
  meter : Nat
  key : Option (List (BitVec 32))
  /-- The counts: cell (i, j), code k at (i × 256 + j) × 18 + k; absent reads 0. -/
  count : Tab Int
deriving DecidableEq, Repr

/-! ### Queues of a core (R163 to R172, R244) -/

/-- A message in a mailbox ring (R164). -/
structure Msg where
  prio : Nat
  sender : Nat
  data : List Byte
deriving DecidableEq, Repr

/-- A waiting RECV (R169). -/
structure RecvWait where
  tid : Tid
  addr : Nat
  xd : XReg
  pd : PReg
  pe : PReg
deriving DecidableEq, Repr

/-- An open mailbox (R163 to R168). -/
structure Mailbox where
  ctx : Nat
  tag : Nat
  size : Nat
  depth : Nat
  base : Nat
  msgs : List Msg
  /-- Reservations: refused message and its lapse time (R166). -/
  resv : List (Nat × Nat)
  /-- Refused senders in order of refusal, by message id, at most 16 (R166). -/
  waits : List Nat
  recvs : List RecvWait
deriving DecidableEq, Repr

/-- A channel entry (R244, R245). -/
structure Chan where
  ctx : Nat
  entry : Word
  group : Nat
  prio : Nat
  loose : Bool
  blocked : Bool
deriving DecidableEq, Repr

/-- What an item of a send port carries (R167). -/
inductive ItemKind where
  | send (box size prio : Nat) (data : List Byte)
  | spnr (chip core chan : Nat) (regs : List Word) (reply : Nat)
  | vput (name idx : Nat) (data : VReg)
deriving DecidableEq, Repr

/-- Where an item is. -/
inductive ItemSt where
  /-- held in the port behind an earlier item (R134, R167) -/
  | port
  /-- on its way to this core -/
  | flying (core : Nat)
  /-- held at this core: in the put queue of the name's home agent, or in the core's input queue while the group is saved or its
  bank wakes; with a number that gives the order of arrival (R213, R216, R223, R225) -/
  | queued (core : Nat) (home : Bool) (ord : Nat)
  /-- sent to another chip, awaiting its answer -/
  | far
  /-- refused FULL and listed at its mailbox (R166) -/
  | listed
  /-- resends at this time (R166, R219) -/
  | later (t : Nat)
  /-- answered; the reply is on its way (status and, for a spawn, the handle) -/
  | answered (st : Status) (h : Nat)
deriving DecidableEq, Repr

/-- A SEND, SPNR or VPUT not yet answered (R167). `tid` is none for a partner chip's packet. -/
structure Item where
  id : Nat
  kind : ItemKind
  tid : Option Tid
  gen : Nat
  ctx : Nat
  tag : Nat
  hnd : Nat
  priv : Bool
  ev : EvSel
  st : ItemSt
  /-- The packet answered by this item when it came from another chip. -/
  pkt : Option Packet
deriving DecidableEq, Repr

/-! ### Cores (R9) -/

/-- A waiter of a barrier: granule, phase, thread handle, and the packet of a thread of another chip (R396). -/
structure BarWaiter where
  pa : Nat
  phase : Bool
  h : Nat
  far : Option Packet
deriving DecidableEq, Repr

/-- Core power states (R448). -/
inductive Pow where
  | on | idle | retention | gated
deriving DecidableEq, Repr

/-- Vector bank power states (R213). -/
inductive VPow where
  | on | ret | off | waking
deriving DecidableEq, Repr

/-- Power of one vector bank. -/
structure VBank where
  st : VPow
  last : Nat
  wakeAt : Nat
deriving DecidableEq, Repr

/-- A stop record (R153). -/
structure StopRec where
  cyc : Nat
  time : Nat
  sent : Nat
  recv : Nat
deriving DecidableEq, Repr

/-- What a forwarding entry serves: LDN replies of a migrated thread, or a moved group (R133, R225). -/
inductive FwdKind where
  | thread (old : Nat) (dest : Tid) (count : Nat)
  | group (name : Nat) (core : Nat) (freeAt : Nat)
deriving DecidableEq, Repr

/-- One core. -/
structure Core where
  /-- Cycle count (R300). -/
  cyc : Nat
  /-- sr.ageq, sr.agecap, sr.fduty, sr.dthr (R234, R442). -/
  ageq : Nat
  agecap : Nat
  fduty : Nat
  dthr : Nat
  /-- Owners of reserved positions, with the cycle from which each holds (R235, R255). -/
  resv : Tab (Nat × Nat)
  /-- Droop: the clock is paused, until this time; the last cycle of the halving span (R445). -/
  paused : Bool
  pauseEnd : Nat
  halve : Nat
  /-- Power (R440, R448, R449). -/
  pow : Pow
  freq : Nat
  reti : Nat
  gati : Nat
  wakePend : Bool
  entered : Nat
  idleSince : Nat
  /-- Last cycle with work, for the 64 idle cycles. -/
  busyAt : Nat
  /-- A frequency written and not yet reached; its ramp has begun (R439). -/
  freqNew : Option Nat
  freqRamp : Bool
  /-- An in-rush ramp in progress, and when it began (R448). -/
  ramping : Bool
  rampAt : Nat
  /-- Gang stop (R153). -/
  stop : Option StopRec
  /-- The latest stop record (R153). -/
  stopRec : Option StopRec
  /-- Command ports in issue order (R366), and next command number. -/
  cmds : List Cmd
  nextCmd : Nat
  bwaits : List BridleWait
  /-- Counting array (R348, R350). -/
  holder : Option Nat
  bank0 : CountBank
  bank1 : CountBank
  boxes : Tab Mailbox
  chans : Tab Chan
  /-- Task queue: record address and context (R172). -/
  taskq : List (Word × Nat)
  tlb : List TlbE
  fwd : Tab FwdKind
  /-- Barrier wait table (R396). -/
  bwt : List BarWaiter
  /-- Shape records by launch serial (R103). -/
  shapes : Tab (List Byte)
  /-- Name cache of the send engine (R217). -/
  names : List (Nat × Nat × Nat)
  vbanks : Tab VBank
  /-- When each group index was last freed (R214). -/
  idxFreed : Tab Nat
  /-- Serial of departure records made here (R232). -/
  departs : Nat
  /-- Column blocks held by the spill map, by image key (R259). -/
  spillBlk : Tab Nat
  /-- Vector banks held by the spill map, by image key (R211). -/
  spillBank : Tab Nat
  /-- Eviction in progress: candidate and commit cycle (R259). -/
  evict : Option (Bool × Nat × Nat)
deriving DecidableEq, Repr

/-- A walk in flight or queued: context, page address, waiting threads (R406). -/
structure Walk where
  ctx : Nat
  va : Nat
  who : List Tid
deriving DecidableEq, Repr

/-- One cluster: cache lines, second-level TLB, walkers with the miss queue behind them (R110, R405, R406). -/
structure Cluster where
  /-- Cached lines: chip and line address with the 64 bytes. -/
  lines : List (Nat × Nat × List Byte)
  l2 : List TlbE
  walks : List Walk
  /-- Counts the invalidations of lines, so that a line read on another chip before one does not fill the cache after it
  (R117, R122, R126). -/
  drops : Nat
deriving DecidableEq, Repr

/-! ### Groups and tiles -/

/-- States of a tile apart from its lock (R325). -/
inductive TileSt where
  | closed | opened | saved
deriving DecidableEq, Repr

/-- One tile of a group or handler. -/
structure Tile where
  st : TileSt
  blocks : List Nat
  /-- Entry (i, c) at 128 × c + i; absent reads +0. -/
  ent : Tab (BitVec 32)
  nv : Bool
  of_ : Bool
  sat : Bool
  err : Bool
  desc : Option Desc
  part : Bool
  dlv : Bool
  prog : Nat
  pass : Option Pass
  /-- Status and address of the stop (R335). -/
  stop : Option (Status × Word)
  /-- The commands of the core with lower numbers waited behind the pass when it stopped (R325). -/
  stopAt : Nat
  /-- Blocks of the TRESTs queued behind a TSAVE of the tile, oldest first (R325, R345). -/
  next : List (List Nat)
deriving DecidableEq, Repr

/-- Life of a group (R209). -/
inductive GroupSt where
  | running | spilled | evicted | restoring | exiting
deriving DecidableEq, Repr

/-- A binding (R398). -/
structure Binding where
  scp : Scope
  bar : Word
  len : Word
  base : Word
deriving DecidableEq, Repr

/-- A group, resident or saved (R209 to R226). -/
structure Group where
  name : Nat
  core : Nat
  ctx : Nat
  launch : Nat
  rank : Nat
  wid : Word
  st : GroupSt
  /-- The eviction's commit cycle has passed and the image is not complete (R223). -/
  saving : Bool
  vregs : Nat
  /-- Window: bank and first register (R211). -/
  bank : Nat
  base : Nat
  /-- Column blocks of the launch record (R210). -/
  pool : List Nat
  v : Tab VReg
  arm : Tab Nat
  tiles : Tab Tile
  binds : Tab Binding
  /-- A binding record is taken from the save area (R398). -/
  bindRec : Bool
  mfmt : Word
  ascl : Word
  bscl : Word
  vflags : Word
  /-- Thread records of an image: thread, old handle (R224). -/
  saved : List (Thread × Nat)
  /-- A move wanted by the Farrier (R225). -/
  moveTo : Option Nat
deriving DecidableEq, Repr

/-- Name directory states (R216). -/
inductive DirSt where
  | running | evicted | relocated | dead
deriving DecidableEq, Repr

/-- A directory entry, at key core × 64 + index (R216). -/
structure DirE where
  st : DirSt
  gen : Nat
  tag : Nat
  /-- Where the group is: chip and core. -/
  chip : Nat
  core : Nat
  /-- Device physical address of an EVICTED image. -/
  at_ : Nat
  locked : Bool
deriving DecidableEq, Repr

/-- A saved loose thread (R258, R259). -/
structure Image where
  th : Thread
  hnd : Nat
  core : Nat
  /-- In the spill map of its core, or else in the save area. -/
  spill : Bool
  complete : Bool
  /-- Time from which the restore waits for a slot (R259). -/
  since : Option Nat
deriving DecidableEq, Repr

/-- A thread on its way to another core (R250, R173). -/
structure Move where
  tid : Tid
  dest : Nat
  /-- Result register of a MIGR; none for a move of the Outrider. -/
  xd : Option XReg
  pd : PReg
  pe : PReg
deriving DecidableEq, Repr

/-! ### Contexts, launches, queues -/

/-- Context states (R143). -/
inductive CtxSt where
  | free | opened | closing | killing | zeroing
deriving DecidableEq, Repr

/-- Launch queue (R158 to R162). -/
structure LaunchQ where
  paused : Bool
  depth : Nat
  /-- Address of the ring in HBM4E (R158). -/
  base : Nat
  head : Nat
  tail : Nat
  drops : Nat
  recs : List (List Byte)
  /-- Serials taken from this queue, latest first (R189). -/
  taken : List Nat
deriving DecidableEq, Repr

/-- A completion record (R150). -/
structure Rec where
  item : Nat
  kind : Nat
  status : Status
  cause : Nat
  reason : Nat
  ctx : Nat
  tag : Nat
  addr : Word
  time : Nat
deriving DecidableEq, Repr

/-- A completion ring, kept by the Farrier until released (R148, R150). -/
structure Ring where
  ctx : Nat
  iface : Nat
  size : Nat
  /-- Address in HBM4E (R144). -/
  base : Nat
  rtail : Nat
  rhead : Nat
  recs : List Rec
  /-- Records waiting for room. -/
  waiting : List Rec
  live : Bool
deriving DecidableEq, Repr

/-- Quotas (R142). -/
structure Quota where
  slotsCore : Nat
  slotsDev : Nat
  blocks : Nat
  banks : Nat
  boxes : Nat
  chans : Nat
  wstore : Nat
  frames : Nat
  bwMask : Nat
  launches : Nat
  qps : Nat
  save : Nat
deriving DecidableEq, Repr

/-- A context (R138 to R152). -/
structure Context where
  st : CtxSt
  tag : Nat
  iface : Nat
  pos : Nat
  tvec : Word
  spread : Bool
  period : Nat
  wdStart : Nat
  /-- The watchdog expired while a save was in progress (R152). -/
  wdLate : Bool
  /-- Since when a gang stop holds a core of the context (R152). -/
  wdHold : Option Nat
  quota : Quota
  root : Nat
  queues : Tab LaunchQ
  lastQ : Nat
  ring : Nat
  saveBase : Nat
  /-- What the save area holds: offset, length and key of each image and binding record (R142, R224, R398). -/
  saves : List (Nat × Nat × Nat)
  /-- Kill: reason, cause and address of the first fault, faults counted (R145, R150). -/
  reason : Nat
  cause : Nat
  faddr : Word
  faults : Nat
  /-- Reference time of the kill (R146). -/
  killAt : Nat
  /-- Routers whose discard period has not ended, units not yet done, partners not yet settled (R148). -/
  routers : List Nat
  units : List Nat
  partners : List Nat
  /-- KILL packets of partners answered once the purge is confirmed (R428). -/
  kackTo : List Packet
  /-- ECC corrections counted (R114). -/
  eccCount : Nat
deriving DecidableEq, Repr

/-- Launch states (R194). -/
inductive LaunchSt where
  | queued | waiting | prologue | running | draining | done | failed
deriving DecidableEq, Repr

/-- A launch record (R185). -/
structure LRec where
  entry : Word
  tag : Word
  arg : Word
  pred : Word
  w : List Nat
  n : List Nat
  glv : Nat
  ckind : Nat
  early : Bool
  zeros : Bool
  prio : Nat
  vregs : Nat
  blocks : Nat
  deps : Nat
  shape : Word
deriving DecidableEq, Repr

/-- A launch (R189 to R205). -/
structure Launch where
  ctx : Nat
  rcd : LRec
  producers : List Nat
  order : Nat
  st : LaunchSt
  eligible : Bool
  names : List Nat
  /-- Ranks triggered, or whose group has exited (R190). -/
  trig : List Nat
  aborted : Bool
  shape : List Byte
  /-- Since when the next group waits (R198). -/
  since : Option Nat
  /-- Since when the next group has found no core able to take it, but the one it is pending on (R199). -/
  noCore : Option Nat := none
  fair : Bool
  pendCore : Option Nat
  /-- Writes of the context made before the launch: the number of the next store then, and the commands then in flight, by core
  and number. Nothing of the launch is placed before they are performed (R30; log 87). -/
  after : Nat × List (Nat × Nat)
deriving DecidableEq, Repr

/-! ### Memory management -/

/-- A weight region (R106). -/
structure Region where
  ctx : Nat
  size : Nat
  /-- Virtual address at which it is mapped (R458). -/
  va : Nat
  serving : Bool
  /-- A request to seal that waits for CPYW commands: interface and request number (R106, R481). -/
  sealing : Option (Nat × Nat)
deriving DecidableEq, Repr

/-- What waits for the acknowledgements of a shootdown (R410, R411, R414). -/
inductive ShootFor where
  | protect
  | unmap
  | moveStart
  | moveEnd
  | unseal (base : Nat)
deriving DecidableEq, Repr

/-- A shootdown in progress. -/
structure Shoot where
  ctx : Nat
  va : Nat
  size : Nat
  /-- The leaf's chip and frame, for the Bridle entries that overlap it. -/
  chip : Nat
  frame : Nat
  /-- Cores that have not acknowledged. -/
  cores : List Nat
  why : ShootFor
  /-- The request that waits for it: interface and request number. -/
  reply : Option (Nat × Nat)
deriving DecidableEq, Repr

/-- A moving page (R411 to R414): old frame, new frame, sub-blocks copied. -/
structure Moving where
  ctx : Nat
  va : Nat
  size : Nat
  old : Nat
  new : Nat
  copying : Bool
  copied : Nat
  /-- The move has ended; the old frame only forwards (R414). -/
  ended : Bool
deriving DecidableEq, Repr

/-- A buffer being zeroed (R154): frames, save areas, regions. -/
structure ZeroBuf where
  ctx : Nat
  pa : Nat
  size : Nat
  /-- Frames count against the quota until zeroed (R410). -/
  frames : Nat
deriving DecidableEq, Repr

/-- A frame in use: page or table (R410). -/
structure Frame where
  pa : Nat
  size : Nat
  ctx : Nat
  /-- 0 page, 1 page table, 2 queue or ring, 3 save area, 4 the name directory (R144, R216) -/
  use : Nat
deriving DecidableEq, Repr

/-- A bandwidth class (R207, R208). Balances by controller; absent reads 0. -/
structure BwClass where
  unl : Bool
  depth : Nat
  rate : Nat
  pendingCfg : Option Word
  bal : Tab Int
deriving DecidableEq, Repr

/-! ### Links (R419 to R435) and Ethernet (R437) -/

/-- Link port states (R431). -/
inductive LinkSt where
  | down | train | active | narrow | retrain | failed
deriving DecidableEq, Repr

/-- What a port sends on its lanes: link blocks, and the flits of a lane-map exchange (R429, R433). -/
inductive Wire where
  | block (b : LinkBlock)
  | lmap (mask working : BitVec 8) (next : Option Nat)
  | lack (mask : BitVec 8)
deriving DecidableEq, Repr

/-- One Huivo port. -/
structure Link where
  st : LinkSt
  en : Bool
  peer : Bool
  txMask : BitVec 8
  rxMask : BitVec 8
  txw : Nat
  rxw : Nat
  fails : Nat
  firstFail : Nat
  upSince : Nat
  bad : Nat
  rpl : Nat
  txSeq : Nat
  rxNext : Nat
  acked : Nat
  nakSent : Bool
  /-- The next trailer carries the NAK (R430). -/
  nakDue : Bool
  /-- The next expected number as the last trailer told it (R429). -/
  told : Nat
  nakCount : Nat
  nakAck : Nat
  lastTrailer : Nat
  stateAt : Nat
  /-- Packets queued for the port with their VC and class (R421, R422). -/
  queue : List (Packet × Nat × Nat)
  /-- Replay buffer: the flits sent and not acknowledged, from number `acked` on, the last flit of a packet with it (R430). -/
  replay : List (Flit × Option Packet)
  /-- Credits per VC, VC 3 by class (R422): VC 0 to 2, then VC 3 classes 0 to 2. -/
  credit : List Nat
  /-- Packet under reception with the payload flits still to come. -/
  partial_ : Option (Packet × Nat)
  rr : Nat
  /-- Flits of this end's receive buffers in use, by place as `credit` (R422). -/
  held : List Nat
  /-- Credits freed and not yet returned, by VC (R429, R430). -/
  owed : List Nat
  /-- An LMAP awaits its LACK: for the direction this end sends, and the mask (R433). -/
  lmap : Option (Bool × BitVec 8)
  /-- This end has stopped sending for a change of width (R433). -/
  txHeld : Bool
  /-- Blocks in a row with an uncorrectable codeword, by receive lane (R432). -/
  badRun : List Nat
  /-- Symbols corrected within the last 1 ms: time, lane, symbols (R432). -/
  fixed : List (Nat × Nat × Nat)
  /-- What the port put on its lanes when it last sent. -/
  sent : List Wire
deriving DecidableEq, Repr

/-- What a transaction's answer completes (R424, R434). -/
inductive TxFor where
  | store (id : Nat)
  | load (t : Tid) (i : Nat)
  | ldn (h : Nat) (x : XReg)
  /-- the LDE at which the thread of a handle waits -/
  | lde (h : Nat)
  /-- the barrier operation of the thread of a handle -/
  | bar (h : Nat)
  | item (id : Nat)
  | word (core cmd w : Nat)
  /-- a piece of what a request of a queue pair reads, writes or changes on another chip (R176) -/
  | rdma (q : Nat)
  /-- a write of a core to a continuation record on another chip: nothing waits for it (R172) -/
  | agent
  | kill (ctx chip : Nat)
deriving DecidableEq, Repr

/-- A packet that expects an answer (R434). -/
structure Tx where
  seq : Nat
  ctx : Nat
  what : TxFor
  pkt : Packet
  due : Nat
  /-- Invalidations of the cluster of a load's core when its packet went out (R117). -/
  drops : Nat
deriving DecidableEq, Repr

/-- A packet held whole at this chip: to be forwarded or delivered (R420, R423). `port` is the port it came by. -/
structure Transit where
  pkt : Packet
  port : Option Nat
  /-- Place of the receive buffer of the port that holds its flits (R422, R430). -/
  buf : Option Nat
  /-- Bytes of a read or write that have been performed, 8-byte word by word (R116, R425). -/
  got : List Byte
deriving DecidableEq, Repr

/-- A range-table entry, at key source × 16 + entry (R427). -/
structure Range where
  base : Word
  limit : Word
  perm : Nat
  ctag : Nat
deriving DecidableEq, Repr

/-- Ethernet port states (R437). -/
inductive EthSt where
  | down | neg | train | up | fault
deriving DecidableEq, Repr

/-- One Ethernet port. -/
structure Eth where
  st : EthSt
  /-- Enabled for an attachment unit: no auto-negotiation. -/
  aui : Bool
  /-- Reference time at which the state was entered. -/
  since : Nat
  /-- DOWN after 500 ms without success: it tries again after 1 s. -/
  retry : Bool
  /-- ENLS [5:4]: 1 for 400 Gb/s, 2 for 800 Gb/s. -/
  speed : Nat
deriving DecidableEq, Repr

/-! ### RDMA (R175 to R178) -/

/-- A memory region of the adapter. -/
structure MemRegion where
  ctx : Nat
  pd : Nat
  va : Nat
  len : Nat
  perm : Nat
  keyTag : Nat
deriving DecidableEq, Repr

/-- Queue pair states (R177). -/
inductive QpSt where
  | reset | init | rtr | rts | error
deriving DecidableEq, Repr

/-- A queue pair. -/
structure Qp where
  ctx : Nat
  pd : Nat
  eth : Nat
  st : QpSt
  bound : Option Nat
  remote : Nat
  psn : Nat
  addr0 : Word
  addr1 : Word
  mac : Word
  mtu : Nat
  rnr : Nat
  retries : Nat
  tries : Nat
  /-- Work requests posted and not completed (R176). -/
  work : List (List Byte)
  /-- Receive requests posted and not used (R176, R178). -/
  recvs : List (List Byte)
  /-- What the adapter last answered: 0 nothing, 1 ACK, 2 RNR NAK, 3 invalid request NAK, 4 access NAK. -/
  answer : Nat
  /-- The data of that answer, to a READ or an atomic. -/
  out : List Byte
  /-- Such data being gathered: pieces by packet number, those of this chip at once (R175, R176). -/
  rsp : List (Nat × Option (List Byte))
  /-- The pieces under way are those of a buffer of the pair's own request, which is retired when they are done (R176). -/
  own : Bool
  /-- Immediate data that last came with a SEND or WRITE, for the receiver's completion (R175; log 27). -/
  imm : Option (BitVec 32)
  /-- Congestion notifications sent, and received: each of these makes the adapter lower its rate (R175). -/
  cnps : Nat
  slowed : Nat
deriving DecidableEq, Repr

/-! ### Die power (R441 to R447) -/

/-- One die. -/
structure Die where
  bud : Nat
  ovr : Bool
  der : Bool
  ph : Nat
  pw : Nat
  /-- Divisions not yet in effect, oldest first: when they take effect, and each core's share (R443). -/
  shares : List (Nat × List (Nat × Nat))
  /-- An unscheduled division is due before this time (R446). -/
  unsched : Option Nat
  /-- Periodic divisions made (R443). -/
  divs : Nat
deriving DecidableEq, Repr

/-! ### Farrier (R450 to R465) -/

/-- FARSTAT.ST (R451). -/
inductive FarSt where
  | boot | run | recovering | failed | bootfail | unowned
deriving DecidableEq, Repr

/-- A reply slot (R457). -/
structure Reply where
  code : Nat
  status : Status
  reqId : Nat
  r0 : Word
  r1 : Word
  data : List Byte
deriving DecidableEq, Repr

/-- A request mailbox (R455, R456). -/
structure ReqBox where
  tail : Nat
  head : Nat
  rptail : Nat
  rphead : Nat
  slots : Tab Req
  replies : Tab Reply
  /-- MBCFG (R455). -/
  cfg : Nat
  /-- Replies not yet written, in request order: request number, whether the effect is in force, reply. -/
  waiting : List (Nat × Bool × Reply)
deriving DecidableEq, Repr

/-- Journal record kinds (R452). -/
inductive JKind where
  | begin_ | update | commit | checkpoint
deriving DecidableEq, Repr

/-- The value of one piece of the Farrier's state, as undo and redo images hold it (R452; log 30). -/
inductive JVal where
  | absent
  | ctx (k : Context)
  | queue (q : LaunchQ)
  | ring (r : Ring)
  | frame (f : Frame)
  /-- the bytes of a page of a page table -/
  | table (l : List Host.Cell)
  | region (r : Region)
  | range (r : Range)
  | domain (ctx : Nat)
  | memRegion (r : MemRegion)
  | qp (q : Qp)
  | budget (n : Nat)
  /-- owner key slot and transfer counter (R464) -/
  | owner (key : Option (List Byte)) (counter : Nat)
  /-- the slot-select byte (R463) -/
  | select (n : Nat)
deriving DecidableEq, Repr

/-- A journal record (R452). -/
structure JRec where
  lsn : Nat
  tx : Nat
  kind : JKind
  iface : Nat
  reqId : Nat
  /-- For UPDATE: the piece, with its undo image and its redo image. -/
  image : Option (Nat × JVal × JVal)
  /-- Bytes of the ring it takes: a free value (log 30). -/
  size : Nat
deriving DecidableEq, Repr

/-- What a check of the image in the window is for (R462, R463): GO, or an IMG_WRITE to a flash slot with its interface and request
number. -/
inductive ImgCheck where
  | go
  | write (slot iface k : Nat)
deriving DecidableEq, Repr

/-- Firmware, boot and ownership state (R451 to R465). -/
structure Farrier where
  st : FarSt
  rst : Nat
  lastBeat : Nat
  lastReset : Option Nat
  journal : List JRec
  /-- Every piece of the journaled state as the last UPDATE of it left it (R453). -/
  logged : Tab JVal
  nextLsn : Nat
  nextTx : Nat
  boxes : Tab ReqBox
  /-- Interfaces of requests in order of arrival at the mailboxes, not yet taken (R450). -/
  order : List Nat
  /-- IMGCTL ERR, SRC, LCK (R462). -/
  err : Nat
  src : Bool
  lck : Bool
  /-- The check that reads the window, and the time at which it ends (R462). -/
  check : Option (ImgCheck × Nat)
  window : List Byte
  flash0 : List Byte
  flash1 : List Byte
  select : Nat
  meas : List (List Byte)
  ownerKey : Option (List Byte)
  /-- The key the boot ROM used; an installed key takes effect at the next boot (R464). -/
  bootKey : Option (List Byte)
  counter : Nat
  minSvn : Nat
  svn : Nat
  /-- Budgets of the virtual functions: function × 16 + row (R140). -/
  budgets : Tab Nat
  /-- Interrupts raised to the host driver, by number, since reset (R148, R431, R446, R451). -/
  irqs : Nat
  /-- MSI-X messages sent for replies: interface and vector (R455, R456). -/
  msix : List (Nat × Nat)
  /-- What was last written to a host buffer by DMA (R459, R465). -/
  dmaOut : List Byte
deriving DecidableEq, Repr

/-! ### The device -/

/-- Which half of a pair an issue mark issues (R36, R52). -/
inductive Half where
  | whole | second
deriving DecidableEq, Repr

/-- An 8-byte write of the host to BAR0 that is no row of the opcode table, to come at a reference time (R141; log 68). -/
structure HostWrite where
  at_ : Nat
  iface : Nat
  off : Nat
  val : Word
deriving DecidableEq, Repr

/-- The state of the module, with the model's own fields last (log 1, log 2). -/
structure State where
  /-- Reference time in ns (R2). -/
  now : Nat
  /-- The device physical address space; an unlisted byte reads 0 (R95, log 3). -/
  mem : List Host.Cell
  /-- Full bits set, by granule address / 16 (R100). -/
  full : List Nat
  /-- ECC marks: aligned 8-byte words of memory, by address / 8 (R477). -/
  ecc : List Nat
  /-- The context that wrote a 64-byte line of a scratchpad last, by address / 64: what a context owns there, and what is zeroed
  when it ends (R154, R448; log 86). -/
  spads : Tab Nat
  /-- ECC marks on accumulator entries and vector register words (R477). -/
  eccAcc : List (Nat × Nat × Nat)
  eccV : List (Nat × Nat × Nat)
  slots : Tab Slot
  cores : Tab Core
  clusters : Tab Cluster
  groups : Tab Group
  dir : Tab DirE
  stores : List Store
  nextStore : Nat
  ldeq : List LdeWait
  items : List Item
  nextItem : Nat
  images : Tab Image
  moves : List Move
  /-- Outrider commands in progress: source, destination, count (R173). -/
  outrider : List (Nat × Nat × Nat)
  ctxs : Tab Context
  rings : Tab Ring
  nextRing : Nat
  launches : Tab Launch
  nextLaunch : Nat
  /-- Context served last by the Starter (R161). -/
  lastCtx : Nat
  regions : Tab Region
  frames : List Frame
  zeroq : Tab ZeroBuf
  nextZero : Nat
  shoots : List Shoot
  moving : List Moving
  /-- Accesses held for moving pages, in order of arrival (R412). -/
  holdq : List HeldAcc
  /-- Accesses that a full hold queue refused, but for this chip's stores, with the time at which the source sends each again
  (R413). -/
  fullq : List (AccKey × Nat)
  bw : Tab BwClass
  /-- Refills made (R208). -/
  refills : Nat
  /-- Accesses waiting at a controller for their class, in arrival order, at controller × 16 + class (R208). -/
  bwq : Tab (List BwWait)
  /-- Next place in the order of arrival. -/
  nextBw : Nat
  hvpod : Word
  links : Tab Link
  ranges : Tab Range
  txs : List Tx
  nextSeq : Nat
  transit : List Transit
  eths : Tab Eth
  pds : Tab Nat
  regionsMr : Tab MemRegion
  qps : Tab Qp
  dies : Tab Die
  far : Farrier
  /-- The thread that the instruction being executed belongs to. -/
  cur : Tid
  /-- Issues decided by ISSUE_POSITION and not yet made. -/
  issueq : List (Tid × Half)
  /-- Events to come, each with its reference time. -/
  agenda : List (Nat × Instr)
  /-- Host writes to come, beside the agenda (R141; log 68). -/
  hostw : List HostWrite
  /-- Core whose position comes next when nothing else is pending. -/
  turn : Nat
  /-- Counter of free values. -/
  tick : Nat
deriving DecidableEq, Repr

/-- Reasons for which the machine stops. -/
inductive Fault where
  /-- Raised by `step` alone, when an issue mark names a FREE slot. No rule makes such a mark. Safe. -/
  | noThread
deriving DecidableEq, Repr

/-- Reasons for which an instruction has no meaning. -/
inductive Refusal where
  /-- The instruction is not modelled. Raised by an arm of `exec` alone. Safe. -/
  | notModelled (mnemonic : String)
deriving DecidableEq, Repr

/-! ### Reset values -/

/-- A slot's thread before any creation: every field zero (R154; log 4). -/
def Thread.reset : Thread :=
  { x := Vector.replicate 16 0, p := Vector.replicate 8 0, e := Vector.replicate 4 0, eb := Vector.replicate 4 0,
    pc := 0, npc := 0, nnpc := 0, a0 := false, a1 := false, k0 := false, k1 := false, k2 := false,
    priv := false, ne := false, bsk := false, putfail := 0, tvec := 0, tcause := 0, taddr := 0,
    tpc0 := 0, tpc1 := 0, tpc2 := 0, tann := 0, tsave0 := 0, tsave1 := 0, bkpt := 0, watch := 0,
    pend := [], left := [], prio := 0, readyAt := 0, lastIssue := none, owed := [], wait := .none, reissue := false,
    entering := false, askAt := 0, walkFault := none, pages := [], fetched := none, pairRest := false, pairLine := [], bwaitDone := none, resumed := false, ldeDone := none, failed := none, failNew := false,
    ctx := 0, group := none, launch := none, wid := 0, pos := 0, spawned := false }

/-- A slot at core reset: FREE, generation 0, no departure record (R231, R232). -/
def Slot.reset : Slot := { st := .free, gen := 0, dep := none, waitAt := 0, th := Thread.reset }

/-- An EMPTY bank of the counting array (R348). -/
def CountBank.reset : CountBank := { meter := 0, key := none, count := [] }

/-- A vector bank at core reset: it holds nothing, so it is OFF (R213; log 5). -/
def VBank.reset : VBank := { st := .off, last := 0, wakeAt := 0 }

/-- A core at reset (R234, R300, R440, R442, R448; log 5). -/
def Core.reset : Core :=
  { cyc := 0, ageq := 2048, agecap := 127, fduty := 16, dthr := 50, resv := [], paused := false, pauseEnd := 0, halve := 0,
    pow := .on, freq := 64, reti := 0, gati := 0, wakePend := false, entered := 0, idleSince := 0, busyAt := 0,
    freqNew := none, freqRamp := false, ramping := false, rampAt := 0, stop := none, stopRec := none, cmds := [], nextCmd := 0,
    bwaits := [], holder := none, bank0 := CountBank.reset, bank1 := CountBank.reset, boxes := [], chans := [],
    taskq := [], tlb := [], fwd := [], bwt := [], shapes := [], names := [], vbanks := [], idxFreed := [],
    departs := 0, spillBlk := [], spillBank := [], evict := none }

/-- A cluster at reset: nothing cached (R110, R405). -/
def Cluster.reset : Cluster := { lines := [], l2 := [], walks := [], drops := 0 }

/-- A CLOSED tile (R325). -/
def Tile.reset : Tile :=
  { st := .closed, blocks := [], ent := [], nv := false, of_ := false, sat := false, err := false, desc := none,
    part := false, dlv := false, prog := 0, pass := none, stop := none, stopAt := 0, next := [] }

/-- PART and DLV cleared: the stopped pass is abandoned (R336). -/
def Tile.abandon (x : Tile) : Tile := { x with part := false, dlv := false, prog := 0, pass := none, stop := none }

/-- The tile without its blocks, entries, descriptor and stopped pass. The flags stay: only TOPEN, TZERO and TREST write them
(R327, R330, R339). -/
def Tile.emptied (x : Tile) : Tile := { Tile.reset with nv := x.nv, of_ := x.of_, sat := x.sat, err := x.err }

/-- No group: what a name that is not allocated reads as. -/
def Group.reset : Group :=
  { name := 0, core := 0, ctx := 0, launch := 0, rank := 0, wid := 0, st := .exiting, saving := false, vregs := 0,
    bank := 0, base := 0, pool := [], v := [], arm := [], tiles := [], binds := [], bindRec := false,
    mfmt := 0, ascl := 0, bscl := 0, vflags := 0, saved := [], moveTo := none }

/-- No quota. -/
def Quota.zero : Quota :=
  { slotsCore := 0, slotsDev := 0, blocks := 0, banks := 0, boxes := 0, chans := 0, wstore := 0, frames := 0,
    bwMask := 0, launches := 0, qps := 0, save := 0 }

/-- A FREE context (R143). -/
def Context.reset : Context :=
  { st := .free, tag := 0, iface := 0, pos := 0, tvec := 0, spread := false, period := 0, wdStart := 0,
    wdLate := false, wdHold := none, quota := Quota.zero, root := 0, queues := [], lastQ := 3, ring := 0, saveBase := 0,
    saves := [], reason := 0, cause := 0, faddr := 0, faults := 0, killAt := 0, routers := [], units := [], partners := [],
    kackTo := [], eccCount := 0 }

/-- A bandwidth class at reset: UNL = 1 (R207). -/
def BwClass.reset : BwClass := { unl := true, depth := 0, rate := 0, pendingCfg := none, bal := [] }

/-- A link port at reset: DOWN with EN 0 (R431; log 5). -/
def Link.reset : Link :=
  { st := .down, en := false, peer := false, txMask := 0, rxMask := 0, txw := 0, rxw := 0, fails := 0,
    firstFail := 0, upSince := 0, bad := 0, rpl := 0, txSeq := 0, rxNext := 0, acked := 0, nakSent := false,
    nakDue := false, told := 0, nakCount := 0, nakAck := 0, lastTrailer := 0, stateAt := 0, queue := [], replay := [],
    credit := [128, 128, 32, 32, 32, 32], partial_ := none, rr := 0,
    held := [0, 0, 0, 0, 0, 0], owed := [0, 0, 0, 0], lmap := none, txHeld := false, badRun := [0, 0, 0, 0, 0, 0, 0, 0], fixed := [],
    sent := [] }

/-- An Ethernet port at reset (R437; log 5). -/
def Eth.reset : Eth := { st := .down, aui := false, since := 0, retry := false, speed := 0 }

/-- A die at reset (R441). -/
def Die.reset : Die :=
  { bud := 2048, ovr := false, der := false, ph := 24, pw := 24, shares := [], unsched := none, divs := 0 }

/-- An empty request mailbox (R455). -/
def ReqBox.reset : ReqBox :=
  { tail := 0, head := 0, rptail := 0, rphead := 0, slots := [], replies := [], cfg := 0, waiting := [] }

/-- The Farrier as module reset leaves it, before the boot ROM runs (R451, R455, R461, R462; log 5). -/
def Farrier.reset : Farrier :=
  { st := .boot, rst := 0, lastBeat := 0, lastReset := none, journal := [], logged := [], nextLsn := 0, nextTx := 0, boxes := [],
    order := [], err := 0, src := false, lck := false, check := none, window := [], flash0 := [], flash1 := [], select := 0,
    meas := List.replicate 8 (List.replicate 64 0), ownerKey := none, bootKey := none, counter := 0, minSvn := 0,
    svn := 0, budgets := [], irqs := 0, msix := [], dmaOut := [] }

/-- A launch serial that names nothing reads as this launch. -/
def LRec.zero : LRec :=
  { entry := 0, tag := 0, arg := 0, pred := 0, w := [0, 0, 0, 0, 0, 0], n := [0, 0, 0, 0, 0, 0], glv := 0,
    ckind := 0, early := false, zeros := true, prio := 0, vregs := 0, blocks := 0, deps := 0, shape := 0 }

/-- The name directory: 256 KiB at the top of HBM4E. R216 gives the size and the owner; the place is the model's (DESIGN CHOICE,
log 91). -/
def dirBase : Nat := 0x5FFFFC0000

/-- The machine right after module reset: nothing open, nothing placed, nothing in flight. -/
def State.reset : State :=
  { now := 0, mem := [], full := [], ecc := [], spads := [], eccAcc := [], eccV := [], slots := [], cores := [], clusters := [],
    groups := [], dir := [], stores := [], nextStore := 0, ldeq := [], items := [], nextItem := 0, images := [],
    moves := [], outrider := [], ctxs := [], rings := [], nextRing := 0, launches := [], nextLaunch := 0,
    lastCtx := 255, regions := [], frames := [{ pa := dirBase, size := 262144, ctx := 256, use := 4 }], zeroq := [], nextZero := 0, shoots := [], moving := [],
    holdq := [], fullq := [], bw := [], refills := 0, bwq := [], nextBw := 0, hvpod := 0, links := [], ranges := [], txs := [], nextSeq := 0, transit := [],
    eths := [], pds := [], regionsMr := [], qps := [], dies := [], far := Farrier.reset,
    cur := { core := 0, slot := 0 }, issueq := [], agenda := [], hostw := [], turn := 0, tick := 0 }

end Sys2Proof.Machine
end

