-- ==== Sys2Proof/Machine/Bits.lean ====
section
/-! DEFINITION. Bit fields, byte order, program counters, names and codes (R10, R11, R18, R31, R32, R151). -/

namespace Sys2Proof.Machine

/-- A number as a register value. -/
def word (n : Nat) : Word := BitVec.ofNat 64 n

/-- IMM48 as a 64-bit value (R39). -/
def sext48 (v : BitVec 48) : Word := v.signExtend 64

/-- IMM32 as a 64-bit value. -/
def sext32 (v : BitVec 32) : Word := v.signExtend 64

/-- All ones: a true predicate (R264). -/
def ones : Word := BitVec.allOnes 64

/-- The bits from `lo`, `n` of them, of a number. -/
def fld (v lo n : Nat) : Nat := v / 2 ^ lo % 2 ^ n

/-- One bit of a number. -/
def bitN (v i : Nat) : Bool := v / 2 ^ i % 2 == 1

/-- A condition as a number. -/
def b2n (b : Bool) : Nat := if b then 1 else 0

/-- The `n` bytes of `v`, little-endian (R18). -/
def bytesOf : Nat → Nat → List Byte
  | 0, _ => []
  | n + 1, v => BitVec.ofNat 8 v :: bytesOf n (v / 256)

/-- The little-endian value of a list of bytes (R18). -/
def valOf : List Byte → Nat
  | [] => 0
  | b :: t => b.toNat + 256 * valOf t

/-- The little-endian value of `n` bytes from offset `o` of a record. -/
def getLe (l : List Byte) (o n : Nat) : Nat := valOf ((l.drop o).take n)

/-- `n` zero bytes. -/
def zeros (n : Nat) : List Byte := List.replicate n 0

/-- The list with `n` bytes from `o` replaced by those of `d`. -/
def splice (l : List Byte) (o : Nat) (d : List Byte) : List Byte := l.take o ++ d ++ l.drop (o + d.length)

/-- Ceiling division. -/
def ceilDiv (a b : Nat) : Nat := (a + b - 1) / b

/-- Even parity of the low `n` bits (R26). -/
def parity : Nat → Nat → Bool
  | 0, _ => false
  | n + 1, v => Bool.xor (v % 2 == 1) (parity n (v / 2))

/-! ### Program counters -/

/-- R31: bits [63:48] zero and bits [5:0] naming a slot. -/
def pcOk (a : Word) : Bool :=
  decide (a.toNat < 2 ^ 48) && decide (a.toNat % 64 % 12 = 0) && decide (a.toNat % 64 < 60)

/-- The slot number in a line that a PC names (R31). -/
def pcSlot (a : Word) : Nat := a.toNat % 64 / 12

/-- The line of a PC (R25). -/
def pcLine (a : Word) : Nat := a.toNat / 64 * 64

/-- The slot after a PC (R32). -/
def nextPc (a : Word) : Word := if a.toNat % 64 = 48 then a + 16 else a + 12

/-! ### Names and handles (R4 to R11) -/

/-- The cluster of a core: {col[3:1], row[3:2]} (R6). -/
def clusterOf (c : Nat) : Nat := c / 32 % 8 * 4 + c / 4 % 4

/-- The die of a core: col[3] (R5). -/
def dieOf (c : Nat) : Nat := c / 128 % 2

/-- Narrow when col[1] = row[2] (R7). -/
def isNarrowCore (c : Nat) : Bool := bitN c 5 == bitN c 2

/-- The die of a cluster. -/
def dieOfCluster (k : Nat) : Nat := k / 16 % 2

/-- The cores of a cluster, rising. -/
def coresOf (k : Nat) : List Nat := (List.range 256).filter fun c => clusterOf c == k

/-- The core of a cluster at bit {col[0], row[1:0]} (R379). -/
def coreAtBit (c b : Nat) : Nat := c / 32 * 32 + b / 4 % 2 * 16 + c / 4 % 4 * 4 + b % 4

/-- A pod thread handle (R11, R231). -/
def handleOf (chip core slot gen : Nat) : Nat := chip * 2 ^ 24 + core * 2 ^ 16 + slot * 2 ^ 8 + gen

/-- A group name (R11). -/
def groupName (chip core idx gen : Nat) : Nat := chip * 2 ^ 22 + core * 2 ^ 14 + idx * 2 ^ 8 + gen

/-- The directory key of a name: core of origin and index (R216). -/
def dirKey (name : Nat) : Nat := fld name 14 8 * 64 + fld name 8 6

/-- The generation after `g`, 1 to 255 (R214, R231). -/
def nextGen (g : Nat) : Nat := if g < 255 then g + 1 else 1

/-- The launch serial number a KLNCH answers with (R205; log 7). -/
def serialOf (k : Nat) : Nat := Config.serialSalt k % 2 ^ 48

/-! ### Codes -/

/-- Status codes (R151). -/
def stCode : Status → Nat
  | .ok => 0 | .fault => 1 | .killed => 2 | .full => 3 | .blocked => 4 | .nochan => 5 | .quota => 6
  | .dead => 7 | .unarmed => 8 | .denied => 9 | .linkdown => 10 | .aborted => 11

/-- A refusal in a result register: bit 63 and the status (R180, R241). -/
def refusal (st : Status) : Word := word (2 ^ 63 + stCode st)

/-- Cause codes (R290). -/
def causeCode : Cause → Nat
  | .ill => 0x01 | .line => 0x02 | .btm => 0x03 | .pair => 0x04 | .priv => 0x05 | .align => 0x06 | .page => 0x07
  | .prot => 0x08 | .addr => 0x09 | .range => 0x0A | .wsw => 0x0B | .ecc => 0x0C | .remote => 0x0D | .remop => 0x0E
  | .depth => 0x0F | .scale => 0x10 | .tile => 0x11 | .win => 0x12 | .bound => 0x13 | .evovf => 0x14
  | .bpend => 0x15 | .putnack => 0x16 | .mbox => 0x17 | .quota => 0x18 | .fmt => 0x19 | .trapi => 0x1A
  | .post => 0x1B | .kill => 0x1C | .watch => 0x1D | .break_ => 0x1E

/-- Scope codes as numbers (R46). -/
def scopeNum : Scope → Nat
  | .grp => 0 | .core => 1 | .clu => 2 | .dev => 3 | .pod => 4

/-- The scope of a code. -/
def scopeOfNum : Nat → Option Scope
  | 0 => some .grp | 1 => some .core | 2 => some .clu | 3 => some .dev | 4 => some .pod | _ => none

/-- The device's own chip id (R419). -/
def State.chip (s : State) : Nat := s.hvpod.toNat % 1024

/-- A chip id lies in the pod (R419). -/
def State.inPod (s : State) (c : Nat) : Bool :=
  decide (fld c 6 4 ≤ fld s.hvpod.toNat 16 4) && decide (fld c 3 3 ≤ fld s.hvpod.toNat 20 3)
  && decide (fld c 0 3 ≤ fld s.hvpod.toNat 24 3) && decide (c < 1024)

/-- [va, va + n) cut at multiples of `u`; `fuel` bounds the pieces. -/
def cutFrom (u : Nat) : Nat → Nat → Nat → List (Nat × Nat)
  | 0, _, _ => []
  | fuel + 1, va, n =>
    if n = 0 then []
    else
      let m := Nat.min n (u - va % u)
      (va, m) :: cutFrom u fuel (va + m) (n - m)

/-- [va, va + n) cut at multiples of `u`. -/
def cutBy (u va n : Nat) : List (Nat × Nat) := cutFrom u (n / u + 2) va n

end Sys2Proof.Machine
end

