-- ==== Sys2Proof/WellFormed.lean ====
section
/-! DEFINITION. Which terms of `Instr` are encodings the manual assigns: the conditions that the operand
types do not already impose (R48, and the entries R46, R303, R310 to R319, R375, R383). -/

namespace Sys2Proof

/-- Element width in bits of a type (R44). -/
def Ty.bits : Ty → Nat
  | .f32 | .i32 | .u32 => 32
  | .bf16 | .f16 | .i16 | .u16 => 16
  | .f8e4 | .f8e5 => 8
  | .f4 => 4

/-- Lane count of an instruction on a type; the narrow types use 16-bit lanes (R305). -/
def Ty.lanes (t : Ty) : Nat := if t.bits = 32 then 32 else 64

/-- TY 0 to 2. -/
def Ty.isFloat : Ty → Bool
  | .f32 | .bf16 | .f16 => true
  | _ => false

/-- TY 3 to 6. -/
def Ty.isInt : Ty → Bool
  | .i32 | .i16 | .u32 | .u16 => true
  | _ => false

/-- TY 3 and 4. -/
def Ty.isSigned : Ty → Bool
  | .i32 | .i16 => true
  | _ => false

/-- TY 8 to 10. -/
def Ty.isNarrow : Ty → Bool
  | .f8e4 | .f8e5 | .f4 => true
  | _ => false

/-- TY 0 to 6, the lane types. -/
def Ty.isLane (t : Ty) : Bool := !t.isNarrow

/-- The special registers of R303. -/
def srKnown (n : BitVec 12) : Bool :=
  [0x000, 0x001, 0x002, 0x003, 0x004, 0x010, 0x011, 0x012, 0x013, 0x020, 0x021, 0x022, 0x023, 0x024, 0x025,
   0x030, 0x031, 0x040, 0x041, 0x042, 0x043, 0x044, 0x045, 0x046, 0x047, 0x048, 0x050, 0x051].contains n.toNat

/-- Special registers marked read-only in R303: an SWR of one gives ILL. -/
def srReadOnly (n : BitVec 12) : Bool :=
  [0x000, 0x001, 0x002, 0x003, 0x004, 0x012, 0x024, 0x025].contains n.toNat

/-- The conditions of R318 on a conversion. -/
def vcvtOk (dt st : Ty) (ns : Bool) (rm : Rm) (part : Nat) : Bool :=
  decide (dt ≠ st) && !(dt.isNarrow && st.isNarrow)
  && decide (part < Nat.max dt.bits st.bits / Nat.min dt.bits st.bits)
  && (!ns || decide (dt = .f8e4) || decide (dt = .f8e5))
  && (decide (dt ≠ .f4) || decide (rm = .rne))

/-- Well-formed: an assigned encoding. Events are always well-formed. -/
def wf : Instr → Bool
  | .fence _ o => decide (o.ord ≠ .none)
  | .srd _ _ n => srKnown n
  | .swr _ n _ => srKnown n && !srReadOnly n
  | .vadd _ ty _ _ _ _ | .vsub _ ty _ _ _ _ | .vmul _ ty _ _ _ _ => ty.isFloat
  | .vfma _ ty _ _ _ _ _ | .vfms _ ty _ _ _ _ _ => ty.isFloat
  | .vmin _ ty _ _ _ | .vmax _ ty _ _ _ => ty.isLane
  | .vabs _ ty _ _ | .vneg _ ty _ _ => ty.isFloat || ty.isSigned
  | .vrcp _ ty _ _ _ | .vrsq _ ty _ _ _ | .vexp2 _ ty _ _ _ | .vlog2 _ ty _ _ _ => ty.isFloat
  | .vcmp _ _ ty _ _ _ _ => ty.isLane
  | .vsel _ ty _ _ _ _ _ => ty.isLane
  | .vmov _ ty _ _ | .vbcst _ ty _ _ => ty.isLane
  | .vextr _ ty _ _ k | .vins _ ty _ _ k => ty.isLane && decide (k.val < ty.lanes)
  | .vcvt _ dt st ns rm _ _ part => vcvtOk dt st ns rm part.val
  | .vred _ op ty rm _ _ => ty.isLane && (decide (rm = .rne) || (decide (op = .add) && ty.isFloat))
  | .vperm _ ty _ _ _ _ => ty.isLane
  | .vshuf _ ty _ _ _ m =>
    ty.isLane && (match m with
      | .rot k => decide (k.val < ty.lanes)
      | _ => true)
  | .vand _ ty _ _ _ | .vor _ ty _ _ _ | .vxor _ ty _ _ _ => ty.isLane
  | .vshl _ ty _ _ _ | .vshr _ ty _ _ _ | .vsar _ ty _ _ _ => ty.isInt
  | .viadd _ ty _ _ _ | .vimul _ ty _ _ _ | .vidx _ ty _ _ _ => ty.isInt
  | .vldg _ ty _ _ _ _ | .vsts _ ty _ _ _ _ => ty.isLane
  | .vclass _ ty _ _ _ _ _ => ty.isFloat
  | .cpym _ _ _ _ _ msk => decide (msk ≠ 0)
  | .cpyw _ o _ _ _ => !o.full
  | _ => true

end Sys2Proof
end

