-- ==== Sys2Proof/Machine/Num.lean ====
section
/-! DEFINITION. Numbers (02_numbers R65 to R92): floating-point formats, exact values, one rounding into a
format with its flags, conversions, the four functions, minimum and maximum, product codes of E2M1. -/

namespace Sys2Proof.Machine

/-- A floating-point format (R65). `ieee`: the all-ones exponent holds infinities and NaNs. -/
structure Fmt where
  eb : Nat
  mb : Nat
  bias : Nat
  ieee : Bool
  /-- Bits of the largest finite magnitude and of the canonical NaN (R67). -/
  top : Nat
  nan : Nat
deriving DecidableEq, Repr

def fmtF32 : Fmt := { eb := 8, mb := 23, bias := 127, ieee := true, top := 0x7F7FFFFF, nan := 0x7FC00000 }
def fmtBf16 : Fmt := { eb := 8, mb := 7, bias := 127, ieee := true, top := 0x7F7F, nan := 0x7FC0 }
def fmtF16 : Fmt := { eb := 5, mb := 10, bias := 15, ieee := true, top := 0x7BFF, nan := 0x7E00 }
def fmtE4m3 : Fmt := { eb := 4, mb := 3, bias := 7, ieee := false, top := 0x7E, nan := 0x7F }
def fmtE5m2 : Fmt := { eb := 5, mb := 2, bias := 15, ieee := true, top := 0x7B, nan := 0x7E }
/-- E2M1 has no NaN; a NaN source converts to +0 (R88). -/
def fmtE2m1 : Fmt := { eb := 2, mb := 1, bias := 1, ieee := false, top := 0x7, nan := 0 }

/-- The format of a floating-point type (R65). -/
def fmtOf : Ty → Fmt
  | .bf16 => fmtBf16 | .f16 => fmtF16 | .f8e4 => fmtE4m3 | .f8e5 => fmtE5m2 | .f4 => fmtE2m1 | _ => fmtF32

/-- The sign bit of a format, as a number. -/
def Fmt.sign (f : Fmt) : Nat := 2 ^ (f.eb + f.mb)

/-- The infinity's magnitude bits. -/
def Fmt.inf (f : Fmt) : Nat := f.top + 1

/-- A value: NaN (signalling or not), infinity, or (−1)^neg × n × 2^e exactly. -/
inductive Val where
  | nan (sig : Bool)
  | inf (neg : Bool)
  | fin (neg : Bool) (n : Nat) (e : Int)
deriving DecidableEq, Repr

/-- Flags as sr.vflags holds them: NV 1, DZ 2, OF 4, UF 8, NX 16 (R309). -/
abbrev Flags := BitVec 5

def fNV : Flags := 1
def fDZ : Flags := 2
def fOF : Flags := 4
def fUF : Flags := 8
def fNX : Flags := 16

/-- A flag raised under a condition. -/
def flagIf (c : Bool) (f : Flags) : Flags := if c then f else 0

/-- The value of an encoding (R66). -/
def Fmt.decode (f : Fmt) (b : Nat) : Val :=
  let neg := bitN b (f.eb + f.mb)
  let E := fld b f.mb f.eb
  let M := fld b 0 f.mb
  if E = 2 ^ f.eb - 1 ∧ f.ieee then
    if M = 0 then .inf neg else .nan (!bitN M (f.mb - 1))
  else if f = fmtE4m3 ∧ E = 15 ∧ M = 7 then .nan false
  else if E = 0 then .fin neg M (1 - (f.bias : Int) - f.mb)
  else .fin neg (2 ^ f.mb + M) ((E : Int) - f.bias - f.mb)

/-- A NaN that signals. -/
def Val.snan : Val → Bool
  | .nan s => s
  | _ => false

/-- Any NaN. -/
def Val.isNan : Val → Bool
  | .nan _ => true
  | _ => false

/-- Zero of either sign. -/
def Val.isZero : Val → Bool
  | .fin _ 0 _ => true
  | _ => false

/-- Either infinity. -/
def Val.isInf : Val → Bool
  | .inf _ => true
  | _ => false

/-- The sign. -/
def Val.neg : Val → Bool
  | .nan _ => false
  | .inf s => s
  | .fin s _ _ => s

/-- The value with its sign inverted. -/
def Val.flip : Val → Val
  | .nan s => .nan s
  | .inf s => .inf (!s)
  | .fin s n e => .fin (!s) n e

/-- 2 to an integer power, as a natural number; powers below 0 give 1 and are never used. -/
def pow2 (e : Int) : Nat := 2 ^ e.toNat

/-- n × 2^e in units of 2^q, rounded (R75); true when inexact. -/
def quantize (rm : Rm) (neg : Bool) (n : Nat) (e q : Int) : Nat × Bool :=
  if q ≤ e then (n * pow2 (e - q), false)
  else
    let d := pow2 (q - e)
    let t := n / d
    let r := n % d
    let up := match rm with
      | .rne => decide (2 * r > d) || (decide (2 * r = d) && decide (t % 2 = 1))
      | .rtz => false
      | .rdn => neg && decide (r ≠ 0)
      | .rup => !neg && decide (r ≠ 0)
    (if up then t + 1 else t, decide (r ≠ 0))

/-- How a format delivers a magnitude beyond its largest finite value (R78, R87, R88). -/
inductive Ovf where
  | round | sat | nsE4
deriving DecidableEq, Repr

/-- Overflow gives an infinity under R78. -/
def toInf (rm : Rm) (neg : Bool) : Bool :=
  match rm with
  | .rne => true
  | .rtz => false
  | .rdn => neg
  | .rup => !neg

/-- An exact value rounded once into a format, and its flags (R75 to R79). -/
def Fmt.round (f : Fmt) (rm : Rm) (o : Ovf) (neg : Bool) (n : Nat) (e : Int) : Nat × Flags :=
  let sg := if neg then f.sign else 0
  if n = 0 then (sg, 0)
  else
    let q1 : Int := (Nat.log2 n : Int) + e - f.mb
    let qmin : Int := 1 - (f.bias : Int) - f.mb
    let q := if q1 < qmin then qmin else q1
    let (N, inex) := quantize rm neg n e q
    let bits := (q - qmin).toNat * 2 ^ f.mb + N
    if bits > f.top then
      match o with
      | .round => (sg + (if toInf rm neg then f.inf else f.top), fOF ||| fNX)
      | .sat => (sg + f.top, fOF ||| fNX)
      | .nsE4 => (if toInf rm neg then f.nan else sg + f.top, fOF ||| fNX)
    else
      let u := (quantize rm neg n e q1).1
      -- tiny: the value rounded at unbounded exponent lies below the smallest normal (R77)
      let tiny := decide (q1 < qmin) && decide (u < 2 ^ f.mb * pow2 (qmin - q1))
      (sg + bits, flagIf inex fNX ||| flagIf (tiny && inex) fUF)

/-- A value rounded into a format as a vector operation delivers it (R78, R80). -/
def Fmt.deliver (f : Fmt) (rm : Rm) : Val → Nat × Flags
  | .nan s => (f.nan, flagIf s fNV)
  | .inf s => ((if s then f.sign else 0) + f.inf, 0)
  | .fin s n e => f.round rm .round s n e

/-- The invalid result of a format (R81). -/
def Fmt.invalid (f : Fmt) : Nat × Flags := (f.nan, fNV)

/-- Signed integer in units of 2^q of a finite value, q at most its exponent. -/
def Val.units (v : Val) (q : Int) : Int :=
  match v with
  | .fin s n e => let m : Int := (n * pow2 (e - q) : Nat); if s then -m else m
  | _ => 0

/-- The exponent of a finite value. -/
def Val.exp : Val → Int
  | .fin _ _ e => e
  | _ => 0

/-- The exact product of finite or infinite values; none when it is 0 × Inf. -/
def Val.mul (a b : Val) : Option Val :=
  match a, b with
  | .nan s, .nan t => some (.nan (s || t))
  | .nan s, _ => some (.nan s)
  | _, .nan s => some (.nan s)
  | .inf s, .inf t => some (.inf (Bool.xor s t))
  | .inf s, .fin t n _ => if n = 0 then none else some (.inf (Bool.xor s t))
  | .fin s n _, .inf t => if n = 0 then none else some (.inf (Bool.xor s t))
  | .fin s n e, .fin t m d => some (.fin (Bool.xor s t) (n * m) (e + d))

/-- The exact sum; none when it is Inf − Inf. `rm` gives the sign of an exact zero (R311). -/
def Val.add (rm : Rm) (a b : Val) : Option Val :=
  match a, b with
  | .nan s, .nan t => some (.nan (s || t))
  | .nan s, _ => some (.nan s)
  | _, .nan s => some (.nan s)
  | .inf s, .inf t => if s = t then some (.inf s) else none
  | .inf s, _ => some (.inf s)
  | _, .inf s => some (.inf s)
  | .fin s n e, .fin t m d =>
    let q := if e < d then e else d
    let z := (Val.fin s n e).units q + (Val.fin t m d).units q
    if z = 0 then some (.fin (if s = t then s else decide (rm = .rdn)) 0 0)
    else some (.fin (decide (z < 0)) z.natAbs q)

/-- a + b in a format (R311, R76). -/
def Fmt.addV (f : Fmt) (rm : Rm) (a b : Val) : Nat × Flags :=
  match Val.add rm a b with
  | none => f.invalid
  | some v => f.deliver rm v

/-- a × b in a format (R311). -/
def Fmt.mulV (f : Fmt) (rm : Rm) (a b : Val) : Nat × Flags :=
  match Val.mul a b with
  | none => f.invalid
  | some v => f.deliver rm v

/-- a × b + c in a format, rounded once (R76, R81, R311). -/
def Fmt.fmaV (f : Fmt) (rm : Rm) (a b c : Val) : Nat × Flags :=
  match Val.mul a b with
  | none => f.invalid
  | some p => f.addV rm p c

/-- a < b by value for values that are not NaN (R82). -/
def Val.lt (a b : Val) : Bool :=
  match a, b with
  | .nan _, _ => false
  | _, .nan _ => false
  | .inf s, .inf t => s && !t
  | .inf s, _ => s
  | _, .inf t => !t
  | .fin s n e, .fin t m d =>
    let q := if e < d then e else d
    decide ((Val.fin s n e).units q < (Val.fin t m d).units q)

/-- a = b by value; −0 equals +0 (R82). -/
def Val.eq (a b : Val) : Bool := !a.isNan && !b.isNan && !Val.lt a b && !Val.lt b a

/-- VMIN (or, with `mx`, VMAX) of two encodings (R82). -/
def Fmt.minmax (f : Fmt) (mx : Bool) (a b : Nat) : Nat × Flags :=
  let x := f.decode a
  let y := f.decode b
  let fl := flagIf (x.snan || y.snan) fNV
  if x.isNan && y.isNan then (f.nan, fl)
  else if x.isNan then (b, fl)
  else if y.isNan then (a, fl)
  else
    let less := Val.lt x y || (x.isZero && y.isZero && x.neg && !y.neg)
    (if Bool.xor less mx then a else if Val.eq x y && x.neg == y.neg then a else b, fl)

/-! ### The four functions (R83, R311) -/

/-- Integer square root, by bits from `k` down. -/
def isqrt : Nat → Nat → Nat → Nat
  | 0, _, r => r
  | k + 1, n, r =>
    let t := r + 2 ^ k
    isqrt k n (if t * t ≤ n then t else r)

/-- A quotient with a sticky last bit: rounds as the exact quotient does. -/
def sticky (q : Nat) (exact : Bool) : Nat := 2 * q + (if exact then 0 else 1)

/-- 1/a. -/
def Fmt.rcp (f : Fmt) (rm : Rm) (a : Val) : Nat × Flags :=
  match a with
  | .nan _ => f.deliver rm a
  | .inf s => (if s then f.sign else 0, 0)
  | .fin s 0 _ => ((if s then f.sign else 0) + f.inf, fDZ)
  | .fin s n e =>
    let k := Nat.log2 n + 64
    f.round rm .round s (sticky (2 ^ k / n) (2 ^ k % n == 0)) (-e - k - 1)

/-- 1/√a. -/
def Fmt.rsq (f : Fmt) (rm : Rm) (a : Val) : Nat × Flags :=
  match a with
  | .nan _ => f.deliver rm a
  | .inf false => (0, 0)
  | .inf true => f.invalid
  | .fin s 0 _ => ((if s then f.sign else 0) + f.inf, fDZ)
  | .fin true _ _ => f.invalid
  | .fin false n e =>
    let (n, e) := if e % 2 = 0 then (n, e) else (2 * n, e - 1)
    let j := Nat.log2 n + 64
    let r := isqrt (j + 1) (2 ^ (2 * j) / n) 0
    f.round rm .round false (sticky r (r * r * n == 2 ^ (2 * j))) (-(e / 2) - j - 1)

/-- Fraction bits of the function evaluations: far beyond what any result near a rounding boundary needs
(DEDUCED, log 12). -/
def fracBits : Nat := 384

/-- floor(ln 2 × 2^384). -/
def ln2Fixed : Nat := 0xb17217f7d1cf79abc9e3b39803f2f6af40f343267298b62d8a0d175b8baafa2be7b876206debac98559552fb4afa1b10

/-- The exponential series from term `t` of index `i`, in units of 2^−384. -/
def expSeries (x : Nat) : Nat → Nat → Nat → Nat
  | 0, _, _ => 0
  | k + 1, i, t => t + expSeries x k (i + 1) (t * x / 2 ^ fracBits / i)

/-- 2^a. -/
def Fmt.exp2 (f : Fmt) (rm : Rm) (a : Val) : Nat × Flags :=
  match a with
  | .nan _ => f.deliver rm a
  | .inf s => (if s then 0 else f.inf, 0)
  | .fin s n e =>
    if n = 0 then f.round rm .round false 1 0
    else if 0 ≤ e then
      -- an integer power; beyond 2^12 every format overflows or underflows alike
      let m := if e > 12 ∨ n * pow2 e > 4096 then 4096 else n * pow2 e
      f.round rm .round false 1 (if s then -(m : Int) else m)
    else
      let d := pow2 (-e)
      let u : Int := if s then -(n : Int) else n
      let ip := u / (d : Int)
      let fr := (u % (d : Int)).toNat
      let ip := if ip > 4096 then 4096 else if ip < -4096 then -4096 else ip
      if fr = 0 then f.round rm .round false 1 ip
      else
        let x := fr * ln2Fixed / d
        f.round rm .round false (sticky (expSeries x 90 1 (2 ^ fracBits) / 2 ^ 60) false) (ip - (fracBits - 60 : Nat) - 1)

/-- Bits of log2 of y/2^512 for 1 ≤ y/2^512 < 2, by repeated squaring. -/
def log2Bits : Nat → Nat → Nat → Nat
  | 0, _, r => r
  | k + 1, y, r =>
    let z := y * y / 2 ^ 512
    if z ≥ 2 ^ 513 then log2Bits k (z / 2) (2 * r + 1) else log2Bits k z (2 * r)

/-- log2 a. -/
def Fmt.log2 (f : Fmt) (rm : Rm) (a : Val) : Nat × Flags :=
  match a with
  | .nan _ => f.deliver rm a
  | .inf false => (f.inf, 0)
  | .inf true => f.invalid
  | .fin _ 0 _ => (f.sign + f.inf, fDZ)
  | .fin true _ _ => f.invalid
  | .fin false n e =>
    let l := Nat.log2 n
    let ip : Int := (l : Int) + e
    if n = 2 ^ l then
      f.round rm .round (decide (ip < 0)) ip.natAbs 0
    else
      let frac := log2Bits 200 (n * 2 ^ 512 / 2 ^ l) 0
      let z : Int := ip * (2 ^ 201 : Nat) + (2 * frac + 1 : Nat)
      f.round rm .round (decide (z < 0)) z.natAbs (-201)

/-! ### Conversions (R84 to R88) -/

/-- Float to float (R84, R87, R88): `ns` is the non-saturating mode. -/
def cvtFF (d s : Fmt) (ns : Bool) (rm : Rm) (b : Nat) : Nat × Flags :=
  match s.decode b with
  | .nan g => if d = fmtE2m1 then (0, fNV) else (d.nan, flagIf g fNV)
  | .inf g =>
    let sg := if g then d.sign else 0
    if d = fmtE2m1 then (sg + d.top, fOF ||| fNX)
    else if d = fmtE4m3 then (if ns then (d.nan, fOF) else (sg + d.top, fOF ||| fNX))
    else if d = fmtE5m2 ∧ ns = false then (sg + d.top, fOF ||| fNX)
    else (sg + d.inf, 0)
  | .fin g n e =>
    let o : Ovf := if d = fmtE2m1 then .sat else if d = fmtE4m3 then (if ns then .nsE4 else .sat)
      else if d = fmtE5m2 then (if ns then .round else .sat) else .round
    d.round rm o g n e

/-- Float to integer of `w` bits (R85). -/
def cvtFI (w : Nat) (signed : Bool) (s : Fmt) (rm : Rm) (b : Nat) : Nat × Flags :=
  let hi : Int := if signed then 2 ^ (w - 1) - 1 else 2 ^ w - 1
  let lo : Int := if signed then -(2 ^ (w - 1)) else 0
  let enc : Int → Nat := fun z => (z % (2 ^ w : Int)).toNat
  match s.decode b with
  | .nan _ => (0, fNV)
  | .inf g => (enc (if g then lo else hi), fNV)
  | .fin g n e =>
    let (m, inex) := quantize rm g n e 0
    let z : Int := if g then -(m : Int) else m
    if z > hi then (enc hi, fNV) else if z < lo then (enc lo, fNV) else (enc z, flagIf inex fNX)

/-- An integer element's value (R72). -/
def intVal (w : Nat) (signed : Bool) (b : Nat) : Int :=
  if signed && bitN b (w - 1) then (b % 2 ^ w : Nat) - (2 ^ w : Nat) else (b % 2 ^ w : Nat)

/-- Integer to float (R86, R88). An integer beyond E5M2's range follows R78, with or without .ns: R86 names E5M2's kind
(a format with infinities) and sends only E4M3 and E2M1 to R87 and R88 (DEDUCED, log 88). -/
def cvtIF (d : Fmt) (ns : Bool) (rm : Rm) (w : Nat) (signed : Bool) (b : Nat) : Nat × Flags :=
  let z := intVal w signed b
  let o : Ovf := if d = fmtE2m1 then .sat else if d = fmtE4m3 then (if ns then .nsE4 else .sat) else .round
  d.round rm o (decide (z < 0)) z.natAbs 0

/-- One element converted from type `st` to type `dt` (R84 to R88). -/
def cvtElem (dt st : Ty) (ns : Bool) (rm : Rm) (b : Nat) : Nat × Flags :=
  let isF := fun (t : Ty) => t.isFloat || t.isNarrow
  if isF dt then
    if isF st then cvtFF (fmtOf dt) (fmtOf st) ns rm b
    else cvtIF (fmtOf dt) ns rm st.bits st.isSigned b
  else if isF st then cvtFI dt.bits dt.isSigned (fmtOf st) rm b
  else ((intVal st.bits st.isSigned b % (2 ^ dt.bits : Int)).toNat, 0)

/-! ### E2M1 products (R68 to R71) -/

/-- The half-unit value of a magnitude code (R68). -/
def halfUnits (m : Nat) : Nat := [0, 1, 2, 3, 4, 6, 8, 12].getD m 0

/-- Quarter units of each product code (R69). -/
def quarterUnits : List Nat := [1, 2, 3, 4, 6, 8, 9, 12, 16, 18, 24, 32, 36, 48, 64, 72, 96, 144]

/-- The product code of two nonzero magnitude codes (R70). -/
def productCode (a b : Nat) : Nat := quarterUnits.findIdx fun q => q = halfUnits a * halfUnits b

/-! ### Scaled accumulation (R90, R333) -/

/-- acc + v × scales, rounded once to FP32; the flags NV and OF for the tile. -/
def scaledAcc (acc v : Val) (scales : List Val) : Nat × Flags :=
  let sig := acc.snan || v.snan || scales.any Val.snan
  let nan := acc.isNan || v.isNan || scales.any Val.isNan
  if nan then (fmtF32.nan, flagIf sig fNV)
  else
    let p := scales.foldl (fun (p : Option Val) s => p.bind fun x => Val.mul x s) (some v)
    let mixed := (v.isInf || scales.any Val.isInf) && (v.isZero || scales.any Val.isZero)
    match p with
    | none => fmtF32.invalid
    | some p => if mixed then fmtF32.invalid else fmtF32.addV .rne acc p

/-- RNE_f32(a + b) on encodings (R76, R80, R81, R279, R382). -/
def addF32 (a b : Nat) : Nat := (fmtF32.addV .rne (fmtF32.decode a) (fmtF32.decode b)).1

/-- RNE_bf16(a + b) on encodings (R382). -/
def addBf16 (a b : Nat) : Nat := (fmtBf16.addV .rne (fmtBf16.decode a) (fmtBf16.decode b)).1

end Sys2Proof.Machine
end

