-- ==== Sys2Proof/Machine/Mem.lean ====
section
/-! DEFINITION. The device physical address space (R93 to R111): a canonical list of address and byte pairs,
its byte order, full bits, ECC marks, and the ranges of R95. -/

namespace Sys2Proof.Machine

/-- What an address that is not listed reads as (log 3). -/
def memDefault : Byte := 0

/-- The byte at an address. -/
def Memory.get : List Host.Cell → Nat → Byte
  | [], _ => memDefault
  | (b, v) :: t, a => if b = a then v else if a < b then memDefault else Memory.get t a

/-- Memory with byte `v` at `a`, in canonical form. -/
def Memory.put : List Host.Cell → Nat → Byte → List Host.Cell
  | [], a, v => if v = memDefault then [] else [(a, v)]
  | (b, w) :: t, a, v =>
    if a < b then (if v = memDefault then (b, w) :: t else (a, v) :: (b, w) :: t)
    else if b = a then (if v = memDefault then t else (a, v) :: t)
    else (b, w) :: Memory.put t a v

/-- Addresses strictly rising, and no entry equal to what an unlisted address reads as. -/
def Memory.wf : List Host.Cell → Bool
  | [] => true
  | [c] => decide (c.2 ≠ memDefault)
  | c :: d :: t => decide (c.2 ≠ memDefault) && decide (c.1 < d.1) && Memory.wf (d :: t)

/-- `n` bytes from `a`. -/
def Memory.bytes (m : List Host.Cell) : Nat → Nat → List Byte
  | _, 0 => []
  | a, n + 1 => Memory.get m a :: Memory.bytes m (a + 1) n

/-- The bytes of `l` stored from `a` on. -/
def Memory.puts (m : List Host.Cell) : Nat → List Byte → List Host.Cell
  | _, [] => m
  | a, b :: t => Memory.puts (Memory.put m a b) (a + 1) t

/-- Every byte of [a, a + n) reads as zero afterwards (R154). -/
def Memory.clear (m : List Host.Cell) (a n : Nat) : List Host.Cell :=
  m.filter fun c => !(decide (a ≤ c.1) && decide (c.1 < a + n))

/-- Scratchpad of core 0 in device physical space (R95). -/
def spadBase : Nat := 0x800000000000
/-- Weight store of die 0 (R95). -/
def wsBase : Nat := 0x900000000000
/-- Control registers (R95). -/
def ctlBase : Nat := 0xF00000000000
/-- Bytes of HBM4E (R95). -/
def hbmSize : Nat := 0x6000000000
/-- Bytes of one scratchpad (R98). -/
def spadSize : Nat := 0x200000
/-- Local offset of the shape record (R103). -/
def shapeBase : Nat := 0x1FFF00

/-- The ranges of R95. -/
inductive Place where
  | hbm
  | spad (core off : Nat)
  | wstore (off : Nat)
  | ctl
  | none
deriving DecidableEq, Repr

/-- Where a device physical address lies (R95). -/
def place (a : Nat) : Place :=
  if a < hbmSize then .hbm
  else if spadBase ≤ a ∧ a < spadBase + 256 * spadSize then .spad ((a - spadBase) / spadSize) ((a - spadBase) % spadSize)
  else if wsBase ≤ a ∧ a < wsBase + 0x180000000 then .wstore (a - wsBase)
  else if ctlBase ≤ a ∧ a < ctlBase + 0x10000000 then .ctl
  else .none

/-- Physical address of a local offset of a core (R129). -/
def localPa (core off : Nat) : Nat := spadBase + core * spadSize + off

/-- The weight-store bank of an offset from its die's base (R105): 0xC000_0000 is a multiple of 2^18, so both
dies may be taken together. -/
def wsBank (off : Nat) : Nat := fld off 12 6

/-- The pseudo-channel controller of an HBM4E address: stack × 64 + channel (R111). -/
def hbmCtl (a : Nat) : Nat := ((fld a 8 3) ^^^ (fld a 19 3)) * 64 + fld a 11 6

/-- The end of the refresh window of bank `b` in progress at `now`, if any (R108). -/
def refreshEnd (now b : Nat) : Option Nat :=
  let t := now - now % 64000 + b * 1000
  if t ≤ now ∧ now < t + 256 then some (t + 256) else none

/-- Reference time of 1,024 mesh cycles, 819.2 ns, in whole ns (R166, R219, R396). -/
def mesh1024 : Nat := 820

/-- The core whose scratchpad holds a granule. -/
def homeCore (pa : Nat) : Nat := match place pa with | .spad c _ => c | _ => 0

/-- The byte at a physical address. -/
def State.byte (s : State) (a : Nat) : Byte := Memory.get s.mem a

/-- `n` bytes at a physical address. -/
def State.bytes (s : State) (a n : Nat) : List Byte := Memory.bytes s.mem a n

/-- The little-endian value of `n` bytes (R21). -/
def State.readN (s : State) (a n : Nat) : Nat := valOf (s.bytes a n)

/-- The aligned 8-byte words that a range touches, as address / 8. -/
def wordsOf (a n : Nat) : List Nat := (List.range ((a + n - 1) / 8 + 1 - a / 8)).map fun i => a / 8 + i

/-- Some byte of the range lies in a marked word (R477). -/
def State.eccHit (s : State) (a n : Nat) : Bool := decide (0 < n) && (wordsOf a n).any fun w => s.ecc.contains w

/-- The last 256 bytes of a scratchpad in device physical space ignore writes and read zero (R103). -/
def inShapeHole (a : Nat) : Bool :=
  match place a with
  | .spad _ off => decide (shapeBase ≤ off)
  | _ => false

/-- `s` with bytes stored at a physical address in one access: fresh check bits for every word written whole
(R477); the last 256 bytes of a scratchpad ignore writes (R103). -/
def State.store (s : State) (a : Nat) (d : List Byte) : State :=
  if inShapeHole a then s
  else { s with
    mem := Memory.puts s.mem a d,
    ecc := s.ecc.filter fun w => !(decide (a ≤ 8 * w) && decide (8 * w + 8 ≤ a + d.length)) }

/-- The 64-byte lines that a range touches, as address / 64. -/
def linesOf (a n : Nat) : List Nat := (List.range ((a + n - 1) / 64 + 1 - a / 64)).map fun i => a / 64 + i

/-- Lines of a scratchpad that context `c` has written become its range there (R154; log 86). -/
def State.claim (s : State) (c a n : Nat) : State :=
  match place a with
  | .spad _ _ => { s with spads := (linesOf a n).foldl (fun t l => t.set l c) s.spads }
  | _ => s

/-- Bytes stored by context `c`. -/
def State.storeFor (s : State) (c a : Nat) (d : List Byte) : State := (s.store a d).claim c a d.length

/-- The full bit of the granule that holds `a` (R100). -/
def State.isFull (s : State) (a : Nat) : Bool := s.full.contains (a / 16)

/-- Granule addresses in rising order with `g` in it. -/
def insertSorted (g : Nat) : List Nat → List Nat
  | [] => [g]
  | h :: t => if g < h then g :: h :: t else if g = h then h :: t else h :: insertSorted g t

/-- The full bit of the granule that holds `a`, set or cleared. -/
def State.setFull (s : State) (a : Nat) (v : Bool) : State :=
  if v then { s with full := insertSorted (a / 16) s.full }
  else { s with full := s.full.filter (· != a / 16) }

/-- A range of memory zeroed on change of owner, full bits and marks included (R102, R154, R477). -/
def State.zero (s : State) (a n : Nat) : State :=
  { s with
    mem := Memory.clear s.mem a n,
    full := s.full.filter fun g => !(decide (a ≤ 16 * g) && decide (16 * g < a + n)),
    ecc := s.ecc.filter fun w => !(decide (a ≤ 8 * w) && decide (8 * w < a + n)) }

/-- The scratchpad ranges of a context are zeroed, full bits included, and are no one's (R102, R154; log 86). -/
def State.zeroSpads (s : State) (c : Nat) : State :=
  let mine := (s.spads.filter fun e => e.2 = c).map (·.1)
  { mine.foldl (fun s l => s.zero (64 * l) 64) s with spads := s.spads.keep fun _ k => decide (k ≠ c) }

end Sys2Proof.Machine
end

