-- ==== Sys2Proof/Machine/Acc.lean ====
section
/-! DEFINITION. Accessors of State: the one way to read and write slots, threads, cores, groups, contexts and
launches, predicates with p0 fixed (R13), free choices, and completion records (R148 to R150). -/

namespace Sys2Proof.Machine

/-! ### Free choices -/

/-- A choice the spec leaves open, among the numbers of `l`; the counter advances (log 9). -/
def State.choose (s : State) (l : List Nat) : Option Nat × State :=
  (l[Config.frameChoice s.tick % l.length]?, { s with tick := s.tick + 1 })

/-! ### Cores, slots, threads -/

/-- The core numbered `c`. -/
def State.core (s : State) (c : Nat) : Core := s.cores.getD c Core.reset

/-- `s` with core `c` replaced. -/
def State.setCore (s : State) (c : Nat) (k : Core) : State := { s with cores := s.cores.set c k }

/-- `s` with `f` applied to core `c`. -/
def State.modCore (s : State) (c : Nat) (f : Core → Core) : State := s.setCore c (f (s.core c))

/-- The key of a slot. -/
def Tid.key (t : Tid) : Nat := t.core * 256 + t.slot

/-- The slot of a key. -/
def Tid.ofKey (k : Nat) : Tid := { core := k / 256, slot := k % 256 }

/-- The slot at `t`. -/
def State.slot (s : State) (t : Tid) : Slot := s.slots.getD t.key Slot.reset

/-- `s` with the slot at `t` replaced. -/
def State.setSlot (s : State) (t : Tid) (x : Slot) : State := { s with slots := s.slots.set t.key x }

/-- `s` with `f` applied to the slot at `t`. -/
def State.modSlot (s : State) (t : Tid) (f : Slot → Slot) : State := s.setSlot t (f (s.slot t))

/-- The thread at `t`. -/
def State.thread (s : State) (t : Tid) : Thread := (s.slot t).th

/-- `s` with the thread at `t` replaced. -/
def State.setThread (s : State) (t : Tid) (x : Thread) : State := s.setSlot t { s.slot t with th := x }

/-- The thread that the instruction being executed belongs to. -/
def State.me (s : State) : Thread := s.thread s.cur

/-- `s` with that thread replaced. -/
def State.setMe (s : State) (x : Thread) : State := s.setThread s.cur x

/-- `s` with `f` applied to that thread. -/
def State.modMe (s : State) (f : Thread → Thread) : State := s.setMe (f s.me)

/-- `s` with `t` as the thread that the instruction being executed belongs to. -/
def State.at_ (s : State) (t : Tid) : State := { s with cur := t }

/-- The core that executes. -/
def State.myCore (s : State) : Core := s.core s.cur.core

/-- `s` with `f` applied to the core that executes. -/
def State.modMyCore (s : State) (f : Core → Core) : State := s.modCore s.cur.core f

/-- A slot holds a thread. -/
def SlotSt.live : SlotSt → Bool
  | .free => false
  | _ => true

/-- The pod handle of the thread at `t` (R231). -/
def State.handle (s : State) (t : Tid) : Nat := handleOf s.chip t.core t.slot (s.slot t).gen

/-- The slot a handle named. -/
def tidOf (h : Nat) : Tid := { core := fld h 16 8, slot := fld h 8 8 }

/-- The slot that a handle of this chip names, when it holds that generation (R231). -/
def State.named (s : State) (h : Nat) : Option Tid :=
  let t : Tid := { core := fld h 16 8, slot := fld h 8 8 }
  if (s.slot t).st.live && decide ((s.slot t).gen = fld h 0 8) && decide (fld h 24 10 = s.chip) then some t else none

/-- Slots that hold a thread. -/
def State.liveSlots (s : State) : List Tid := (s.slots.filter fun e => e.2.st.live).map fun e => Tid.ofKey e.1

/-! ### Registers of a thread -/

/-- x register (R13). -/
def Thread.xr (t : Thread) (r : XReg) : Word := t.x[r]

/-- `t` with an x register written (R13). -/
def Thread.setX (t : Thread) (r : XReg) (v : Word) : Thread := { t with x := t.x.set r v }

/-- Predicate register; p0 reads all ones (R13). -/
def Thread.pr (t : Thread) (r : PReg) : Word := if r = 0 then ones else t.p[r]

/-- `t` with a predicate written; a write to p0 is discarded (R13). -/
def Thread.setP (t : Thread) (r : PReg) (v : Word) : Thread := if r = 0 then t else { t with p := t.p.set r v }

/-- A scalar condition as a predicate value (R264). -/
def boolP (c : Bool) : Word := if c then ones else 0

/-- PD then PE from a condition (R264). -/
def Thread.setPP (t : Thread) (pd pe : PReg) (c : Bool) : Thread := (t.setP pd (boolP c)).setP pe (boolP !c)

/-- The scalar guard: bit 0 of p[GP] XOR GN (R38). -/
def Thread.guard (t : Thread) (g : Guard) : Bool := Bool.xor ((t.pr g.p).getLsbD 0) g.neg

/-- The second source (R39). -/
def Thread.src (t : Thread) : Src → Word
  | .reg r => t.xr r
  | .imm v => sext48 v

/-- The x registers a second source reads. -/
def srcRegs : Src → List XReg
  | .reg r => [r]
  | .imm _ => []

/-! ### Groups, contexts, launches -/

/-- The group named `n`. -/
def State.group (s : State) (n : Nat) : Group := s.groups.getD n Group.reset

/-- `s` with group `n` replaced. -/
def State.setGroup (s : State) (n : Nat) (g : Group) : State := { s with groups := s.groups.set n g }

/-- `s` with `f` applied to group `n`. -/
def State.modGroup (s : State) (n : Nat) (f : Group → Group) : State := s.setGroup n (f (s.group n))

/-- The group of the executing thread. -/
def State.myGroup? (s : State) : Option Group := s.me.group.bind fun n => s.groups.get? n

/-- The context numbered `c`. -/
def State.ctx (s : State) (c : Nat) : Context := s.ctxs.getD c Context.reset

/-- `s` with `f` applied to context `c`. -/
def State.modCtx (s : State) (c : Nat) (f : Context → Context) : State := { s with ctxs := s.ctxs.set c (f (s.ctx c)) }

/-- The pod tag of the executing thread's context (R138). -/
def State.myTag (s : State) : Nat := (s.ctx s.me.ctx).tag

/-- The context that holds a pod tag on this chip (R138). -/
def State.ctxOfTag (s : State) (tag : Nat) : Option Nat :=
  (s.ctxs.find fun _ c => decide (c.st ≠ .free) && decide (c.tag = tag)).map (·.1)

/-- Launch `k`. -/
def State.launch? (s : State) (k : Nat) : Option Launch := s.launches.get? k

/-- `s` with `f` applied to launch `k`. -/
def State.modLaunch (s : State) (k : Nat) (f : Launch → Launch) : State :=
  match s.launches.get? k with
  | some l => { s with launches := s.launches.set k (f l) }
  | none => s

/-- Cluster `k`. -/
def State.cluster (s : State) (k : Nat) : Cluster := s.clusters.getD k Cluster.reset

/-- `s` with `f` applied to cluster `k`. -/
def State.modCluster (s : State) (k : Nat) (f : Cluster → Cluster) : State :=
  { s with clusters := s.clusters.set k (f (s.cluster k)) }

/-- Link port `p`. -/
def State.link (s : State) (p : Nat) : Link := s.links.getD p Link.reset

/-- `s` with `f` applied to link port `p`. -/
def State.modLink (s : State) (p : Nat) (f : Link → Link) : State := { s with links := s.links.set p (f (s.link p)) }

/-- Request mailbox of interface `i`. -/
def State.reqBox (s : State) (i : Nat) : ReqBox := s.far.boxes.getD i ReqBox.reset

/-- `s` with `f` applied to request mailbox `i`. -/
def State.modReqBox (s : State) (i : Nat) (f : ReqBox → ReqBox) : State :=
  { s with far := { s.far with boxes := s.far.boxes.set i (f (s.reqBox i)) } }

/-- Die `d`. -/
def State.die (s : State) (d : Nat) : Die := s.dies.getD d Die.reset

/-- `s` with `f` applied to die `d`. -/
def State.modDie (s : State) (d : Nat) (f : Die → Die) : State := { s with dies := s.dies.set d (f (s.die d)) }

/-- BAR0 of the interface does not answer: the physical function's in BOOTFAIL, but for FARSTAT and the image window (R460). -/
def State.dark (s : State) (iface : Nat) : Bool := decide (iface = 0) && decide (s.far.st = .bootfail)

/-- An interrupt to the host driver and, where the rule says so, the Farrier. -/
def State.irq (s : State) : State := { s with far := { s.far with irqs := s.far.irqs + 1 } }

/-- An interrupt where the condition holds. -/
def State.irqIf (s : State) (c : Bool) : State := if c then s.irq else s

/-! ### Completion records -/

/-- A record enters the ring while it is not full; otherwise it waits (R148, R150). -/
def Ring.push (r : Ring) (x : Rec) : Ring :=
  if r.waiting.isEmpty && decide (r.rtail - r.rhead < r.size) then { r with rtail := r.rtail + 1, recs := r.recs ++ [x] }
  else { r with waiting := r.waiting ++ [x] }

/-- Waiting records enter the ring as far as it has room (R148). -/
def Ring.drain (r : Ring) : Ring :=
  let n := r.size - (r.rtail - r.rhead)
  { r with rtail := r.rtail + (r.waiting.take n).length, recs := r.recs ++ r.waiting.take n, waiting := r.waiting.drop n }

/-- The 32 bytes of a completion record (R150). -/
def recBytes (x : Rec) : List Byte :=
  bytesOf 8 x.item ++ bytesOf 1 x.kind ++ bytesOf 1 (stCode x.status) ++ bytesOf 1 x.cause ++ bytesOf 1 x.reason
    ++ bytesOf 4 (x.tag * 65536 + x.ctx) ++ bytesOf 8 x.addr.toNat ++ bytesOf 8 x.time

/-- Ring `k` becomes `r`, which holds records that it did not hold before: each is written to its place in HBM4E (R144, R150). -/
def State.setRing (s : State) (k : Nat) (r : Ring) : State :=
  let old := match s.rings.get? k with | some r => r.recs.length | none => 0
  let s : State := { s with rings := s.rings.set k r }
  (r.recs.zipIdx.drop old).foldl (fun s x => s.store (r.base + x.2 % r.size * 32) (recBytes x.1)) s

/-- `s` with a completion record of context `c` written, or waiting. The host driver gets a ring-full interrupt with each record that
leaves the ring full or waits (R148). -/
def State.record (s : State) (c kind item : Nat) (st : Status) (cause reason : Nat) (addr : Word) : State :=
  let k := s.ctx c
  match s.rings.get? k.ring with
  | none => s
  | some r =>
    let x : Rec := { item := item, kind := kind, status := st, cause := cause, reason := reason, ctx := c,
                     tag := k.tag, addr := addr, time := s.now }
    let r' := r.push x
    let s' := s.setRing k.ring r'
    if r'.rtail - r'.rhead < r'.size then s' else s'.irq

/-- ITEM of an engine command: handle 24 bits, EV 2 bits, tag 6 bits (R150). A command that names no event counter (its completion
ends a .w wait) has 0 in EV: R150 gives that case no value (DESIGN CHOICE, log 93). -/
def cmdItem (t : Tid) (gen : Nat) (dn : Done) (tag : Nat) : Nat :=
  handleOf 0 t.core t.slot gen * 256 + (match dn with | .async e => e.val | .wait => 0) * 64 + tag % 64

/-- The address of a fault whose sr.taddr is `v`: 0 for a cause whose sr.taddr is no address, and the low 48 bits for REMOP (R150,
R290, R335; DEDUCED, log 93). -/
def faultAddr (code : Nat) (v : Word) : Word :=
  if code ∈ [causeCode .depth, causeCode .scale, causeCode .tile, causeCode .win, causeCode .evovf, causeCode .putnack,
      causeCode .mbox, causeCode .quota, causeCode .trapi, causeCode .post] then 0
  else if code = causeCode .remop then v &&& 0xFFFFFFFFFFFF
  else v

/-- ITEM of a remote operation: handle, 32-bit sequence number (R150). -/
def remoteItem (h seq : Nat) : Nat := fld h 0 24 * 2 ^ 32 + seq % 2 ^ 32

/-- A queue id (R157). -/
def queueId (kind low : Nat) : Nat := kind * 2 ^ 28 + low

/-- The queue id of launch queue `q` of a context (R157). -/
def launchQid (c : Context) (q : Nat) : Nat := queueId 1 (c.iface * 256 + c.pos * 16 + q)

/-- The queue id of a mailbox (R157). -/
def boxQid (chip core idx : Nat) : Nat := queueId 2 (chip * 2 ^ 16 + core * 2 ^ 8 + idx)

/-- ITEM of a queue entry: queue id 32 bits, index 32 bits (R150). -/
def queueItem (qid idx : Nat) : Nat := qid * 2 ^ 32 + idx % 2 ^ 32

end Sys2Proof.Machine
end

