-- ==== Sys2Proof/Machine/Kill.lean ====
section
/-! DEFINITION. The kill of a context (05_context R145 to R149) and what it shares with the ends of groups:
names marked DEAD, windows, blocks and the counting array given back (R154, R209, R350), packets sent to
partner chips (R424, R434). -/

namespace Sys2Proof.Machine

/-! ### Packets that expect an answer -/

/-- A packet of this chip with its header filled (R424). -/
def State.packet (s : State) (k : PKind) (dst tag hnd : Nat) (cls : Option Nat) (sub : PSub) (addr bytes : Nat)
    (aux : Nat) (data : List Byte) : Packet :=
  { kind := k, dst := dst, src := s.chip, tag := tag, cls := cls.getD 0, sub := sub, addr := addr, bytes := bytes,
    hnd := hnd, seq := s.nextSeq, status := .ok, aux := aux, data := data, clean := true }

/-- The core whose load a transaction asks for. -/
def TxFor.core : TxFor → Nat
  | .load t _ => t.core
  | _ => 0

/-- The access that a transaction performs on another chip, as the hold queues name it (R413). -/
def Tx.key (x : Tx) : Option AccKey :=
  match x.what with
  | .ldn h r => some (.ldn h r)
  | .word core cmd w => some (.word core cmd w)
  | .load _ _ | .lde _ | .rdma _ | .agent => some (.tx x.seq)
  | _ => none

/-- `s` with a packet sent for a core, and its transaction recorded with the 2 ms timer (R434). -/
def State.sendTxFor (s : State) (core ctx : Nat) (what : TxFor) (p : Packet) : State :=
  { s with
    txs := s.txs ++ [{ seq := p.seq, ctx := ctx, what := what, pkt := p, due := s.now + 2000000,
                       drops := (s.cluster (clusterOf core)).drops }],
    nextSeq := s.nextSeq + 1,
    transit := s.transit ++ [{ pkt := p, port := none, buf := none, got := [] }] }

/-- As `sendTxFor`, for the core that the transaction names. -/
def State.sendTx (s : State) (ctx : Nat) (what : TxFor) (p : Packet) : State := s.sendTxFor (TxFor.core what) ctx what p

/-- The answer to a packet: same SEQ, back to its source (R425). -/
def Packet.answer (p : Packet) (k : PKind) (st : Status) (aux : Nat) (data : List Byte) : Packet :=
  { kind := k, dst := p.src, src := p.dst, tag := p.tag, cls := 0, sub := .plain, addr := 0, bytes := 0, hnd := p.hnd,
    seq := p.seq, status := st, aux := aux, data := data, clean := true }

/-- `s` with a packet put in transit from this chip. -/
def State.post (s : State) (p : Packet) : State := { s with transit := s.transit ++ [{ pkt := p, port := none, buf := none, got := [] }] }

/-! ### Groups leaving -/

/-- The directory entry of a name goes DEAD (R209). -/
def State.dirDead (s : State) (name : Nat) : State :=
  match s.dir.get? (dirKey name) with
  | some d => if d.gen = name % 256 then { s with dir := s.dir.set (dirKey name) { d with st := .dead, locked := false } } else s
  | none => s

/-- The counting array of a core, FREE and zeroed (R350). -/
def Core.freeArray (k : Core) : Core := { k with holder := none, bank0 := CountBank.reset, bank1 := CountBank.reset }

/-- Key of a group's binding record in the save area, apart from every group name and thread image (R398). -/
def bindKey (name : Nat) : Nat := 2 ^ 41 + name

/-- The binding record of a group, zeroed and given back (R154, R398). -/
def State.dropBindRec (s : State) (name c : Nat) : State :=
  let k := s.ctx c
  let s := match k.saves.find? fun e => e.2.2 = bindKey name with
    | some e => s.zero (k.saveBase + e.1) e.2.1
    | none => s
  s.modCtx c fun k => { k with saves := k.saves.filter fun e => e.2.2 ≠ bindKey name }

/-- The group is gone: its window and blocks are zeroed, its index, array and binding record given back
(R154, R209, R350, R398). -/
def State.dropGroup (s : State) (name : Nat) : State :=
  match s.groups.get? name with
  | none => s
  | some g =>
    let s := { s with groups := s.groups.erase name, eccV := s.eccV.filter (·.1 ≠ name),
                      eccAcc := s.eccAcc.filter fun e => !(decide (e.1 = g.core) && (g.pool.contains e.2.1
                        || g.tiles.vals.any fun t => t.blocks.contains e.2.1)) }
    let s := s.modCore g.core fun k => if k.holder = some name then k.freeArray else k
    let s := s.modCore (fld name 14 8) fun k => { k with idxFreed := k.idxFreed.set (fld name 8 6) s.now }
    if g.bindRec then s.dropBindRec name g.ctx else s

/-! ### Forwarded replies (R133) -/

/-- One reply fewer is owed through a forwarding entry, which frees at none. -/
def Core.fwdLess (k : Core) (i : Nat) : Core :=
  match k.fwd.get? i with
  | some (.thread h dst n) => { k with fwd := if n ≤ 1 then k.fwd.erase i else k.fwd.set i (.thread h dst (n - 1)) }
  | _ => k

/-- Owed replies no longer pass through their forwarding entries: they were applied, or are discarded. -/
def State.dropVia (s : State) (l : List Owed) : State :=
  (l.flatMap (·.via)).foldl (fun s e => s.modCore e.1 fun k => k.fwdLess e.2) s

/-! ### What a kill ends -/

/-- The slots of the context, FREE with no departure record (R146, R230). -/
def killSlots (c : Nat) (s : State) : State :=
  let dead := fun (t : Tid) => (s.slot t).st.live && decide ((s.thread t).ctx = c)
  { s with
    slots := s.slots.mapVals fun _ x =>
      if x.st.live && decide (x.th.ctx = c) then { x with st := .free, dep := none, th := Thread.reset } else x,
    cores := s.cores.mapVals fun k x =>
      { x with resv := x.resv.keep fun _ o => !dead { core := k, slot := o.1 },
               bwaits := x.bwaits.filter fun b => !dead b.tid,
               boxes := x.boxes.mapVals fun _ m => { m with recvs := m.recvs.filter fun r => !dead r.tid } },
    clusters := s.clusters.mapVals fun _ x =>
      { x with walks := (x.walks.map fun w => { w with who := w.who.filter fun t => !dead t }).filter fun w => w.ctx ≠ c },
    ldeq := s.ldeq.filter fun w => match w.who with | .thread t => !dead t | .far _ => true,
    issueq := s.issueq.filter fun m => !dead m.1,
    moves := s.moves.filter fun m => !dead m.tid }

/-- Remote operations of partner chips that wait at the killed context are answered KILLED: full loads, barrier waits, messages listed
at its mailboxes (R149, R397). -/
def killFar (c : Nat) (s : State) : State :=
  let tag := (s.ctx c).tag
  let mine := fun (p : Option Packet) => match p with | some p => decide (p.tag = tag) | none => false
  let far := fun (w : LdeWait) => match w.who with | .far p => some p | .thread _ => none
  let held := fun (i : Item) => i.tid.isNone && mine i.pkt && (match i.st with | .listed | .queued _ _ _ => true | _ => false)
  let ps := (s.ldeq.filterMap far) ++ (s.cores.flatMap fun k => k.2.bwt.filterMap (·.far)) ++ (s.items.filter held).filterMap (·.pkt)
  let s := (ps.filter fun p => p.tag = tag).foldl (fun s p => s.post (Packet.answer p .rsp .killed 0 [])) s
  { s with
    ldeq := s.ldeq.filter fun w => !mine (far w),
    cores := s.cores.mapVals fun _ k => { k with bwt := k.bwt.filter fun b => !mine b.far },
    items := s.items.filter fun i => !held i }

/-- The context's entries leave every barrier wait table (R397). -/
def killWaiters (c : Nat) (s : State) : State :=
  let mine := fun (h : Nat) =>
    (match s.named h with | some t => decide ((s.thread t).ctx = c) | none => false)
    || s.images.any (fun e => decide (e.2.hnd = h) && decide (e.2.th.ctx = c))
    || s.groups.any fun e => decide (e.2.ctx = c) && e.2.saved.any fun x => decide (x.2 = h)
  { s with cores := s.cores.mapVals fun _ k => { k with bwt := k.bwt.filter fun b => b.far.isSome || !mine b.h } }

/-- Engine commands of the context are aborted, each with its record (R146, R149). -/
def killCmds (c : Nat) (s : State) : State :=
  let gone := s.cores.flatMap fun e => e.2.cmds.filter fun d => d.ctx = c
  let s := gone.foldl (fun s d => s.record c 2 (cmdItem d.tid d.gen d.dn d.tag) .aborted 0x1C 0 0) s
  { s with cores := s.cores.mapVals fun _ x => { x with cmds := x.cmds.filter fun d => d.ctx ≠ c } }

/-- Launches of the context that have not ended go to FAILED (R149, R194). -/
def killLaunches (c : Nat) (s : State) : State :=
  let live := s.launches.filter fun e => decide (e.2.ctx = c) && decide (e.2.st ≠ .done) && decide (e.2.st ≠ .failed)
  let s := live.foldl (fun s e => s.record c 1 e.2.rcd.tag.toNat .killed 0x1C 0 0) s
  live.foldl (fun s e => s.modLaunch e.1 fun l => { l with st := .failed, pendCore := none }) s

/-- An access belongs to a context. -/
def State.keyOf (s : State) (c : Nat) (k : AccKey) : Bool :=
  match k with
  | .store id => s.stores.any fun x => decide (x.id = id) && decide (x.ctx = c)
  | .load t | .fetch t => decide ((s.thread t).ctx = c)
  | .ldn h _ => (match s.named h with | some t => decide ((s.thread t).ctx = c) | none => false)
      || s.images.any (fun e => decide (e.2.hnd = h) && decide (e.2.th.ctx = c))
      || s.groups.any fun e => decide (e.2.ctx = c) && e.2.saved.any fun x => decide (x.2 = h)
  | .word core id _ => (s.core core).cmds.any fun d => decide (d.id = id) && decide (d.ctx = c)
  | .tx seq => s.txs.any fun t => decide (t.seq = seq) && decide (t.ctx = c)
  | .far _ _ => false

/-- Stores, remote operations and send-port items of the context: dropped, reported ABORTED (R149, R222). An item is named by the
sequence number of its packet, or on this chip, where it has none, by its own number (R150; log 93). -/
def killOps (c : Nat) (s : State) : State :=
  let txs := s.txs.filter fun t => decide (t.ctx = c) && (match t.what with
    | .item _ | .kill _ _ | .word _ _ _ | .rdma _ | .agent => false
    | _ => true)
  let s1 := txs.foldl (fun s t => s.record c 3 (remoteItem t.pkt.hnd t.seq) .aborted 0x1C 0 0) s
  let its := s.items.filter fun i => decide (i.ctx = c) && i.tid.isSome
  let seqOf := fun (i : Item) => match s.txs.find? fun t => t.what = .item i.id with | some t => t.seq | none => i.id
  let s2 := its.foldl (fun s i => s.record c 3 (remoteItem i.hnd (seqOf i)) .aborted 0x1C 0 0) s1
  { s2 with
    stores := s2.stores.filter fun t => t.ctx ≠ c,
    holdq := s2.holdq.filter fun e => e.ctx ≠ c,
    fullq := s2.fullq.filter fun e => !(s.keyOf c e.1),
    bwq := s2.bwq.mapVals fun _ l => l.filter fun e => e.ctx ≠ c,
    txs := s2.txs.filter fun t => decide (t.ctx ≠ c) || (match t.what with | .kill _ _ => true | _ => false),
    items := s2.items.filter fun i => !(decide (i.ctx = c) && i.tid.isSome) }

/-- Bytes of a mailbox ring: depth × size rounded up to 64 (R163). -/
def Mailbox.ringLen (m : Mailbox) : Nat := ceilDiv (m.depth * m.size) 64 * 64

/-- Mailboxes, channel entries and task-queue entries of the context (R149, R168, R245). -/
def killQueues (c : Nat) (s : State) : State :=
  let one := fun (s : State) (e : Nat × Core) =>
    let s := e.2.boxes.foldl (fun s b =>
      if b.2.ctx = c then
        let s := (List.range b.2.msgs.length).foldl (fun s i =>
          s.record c 4 (queueItem (boxQid s.chip e.1 b.1) i) .killed 0x1C 0 0) s
        s.zero (localPa e.1 b.2.base) b.2.ringLen
      else s) s
    (List.range e.2.taskq.length).foldl (fun s i =>
      match e.2.taskq[i]? with
      | some q => if q.2 = c then s.record c 4 (queueItem (queueId 3 e.1) i) .killed 0x1C 0 0 else s
      | none => s) s
  let s := s.cores.foldl one s
  { s with cores := s.cores.mapVals fun _ x =>
      { x with boxes := x.boxes.keep fun _ b => decide (b.ctx ≠ c), chans := x.chans.keep fun _ h => decide (h.ctx ≠ c),
               taskq := x.taskq.filter fun q => q.2 ≠ c } }

/-- Launch queues of the context: each record not taken gets a kind-4 record (R149, R162). -/
def dropQueues (c cause : Nat) (s : State) : State :=
  let k := s.ctx c
  let s := k.queues.foldl (fun s q =>
    (List.range q.2.recs.length).foldl (fun s i =>
      s.record c 4 (queueItem (launchQid k q.1) (q.2.head + i)) .killed cause 0 0) s) s
  s.modCtx c fun k => { k with queues := [] }

/-- Work requests of a queue pair that are not completed: those to send, and the receive requests (R177). -/
def Qp.posted (x : Qp) : Nat := x.work.length + x.recvs.length

/-- Queue pairs of the context go to ERROR (R149, R177): the request on the wire is ABORTED, the others KILLED. -/
def killQps (c : Nat) (s : State) : State :=
  let one := fun (s : State) (e : Nat × Qp) =>
    if e.2.ctx = c then
      (List.range e.2.posted).foldl (fun s i =>
        s.record c 4 (queueItem (queueId 4 e.1) i) (if i = 0 ∧ e.2.st = .rts ∧ e.2.work ≠ [] then .aborted else .killed) 0x1C 0 0) s
    else s
  let s := s.qps.foldl one s
  { s with qps := s.qps.mapVals fun _ q => if q.ctx = c then { q with st := .error, work := [], recvs := [], rsp := [] } else q }

/-- Groups and images of the context: names DEAD, images discarded (R209). -/
def killGroups (c : Nat) (s : State) : State :=
  let names := (s.groups.filter fun e => e.2.ctx = c).map (·.1)
  let s := names.foldl (fun s n => (s.dirDead n).dropGroup n) s
  let keys := (s.images.filter fun e => e.2.th.ctx = c).map (·.1)
  { s with
    images := s.images.keep fun _ i => decide (i.th.ctx ≠ c),
    cores := s.cores.mapVals fun _ x =>
      { x with spillBlk := x.spillBlk.keep fun _ o => !(names.contains o || keys.contains o),
               spillBank := x.spillBank.keep fun _ o => !(names.contains o || keys.contains o),
               evict := match x.evict with
                 | some (g, k, _) => if names.contains k || (!g && decide ((s.thread (Tid.ofKey k)).ctx = c)) then none else x.evict
                 | none => none } }

/-- Chips that a context's remote translations name: the CHIP fields of valid leaves of its tables (R146, R401). -/
def foreignLeaves (c : Nat) (s : State) : List Nat :=
  (s.frames.filter fun f => decide (f.ctx = c) && decide (f.use = 1)).flatMap fun f =>
    (List.range 512).filterMap fun i =>
      let e := s.readN (f.pa + 8 * i) 8
      if bitN e 63 && decide (fld e 59 4 ≠ 15) && decide (fld e 49 10 ≠ s.chip) then some (fld e 49 10) else none

/-- Partner chips of a context: in its range-table entries or remote translations (R146). -/
def partnersOf (c : Nat) (s : State) : List Nat :=
  let tag := (s.ctx c).tag
  let a := (s.ranges.filter fun e => decide (e.2.ctag = tag) && bitN e.2.perm 3).map fun e => e.1 / 16
  ((a ++ foreignLeaves c s).filter (· ≠ s.chip)).eraseDups

/-- KILL packets to every partner, each with its timer (R146, R434). -/
def killPartners (c : Nat) (s : State) : State :=
  let ps := partnersOf c s
  let s := s.modCtx c fun k => { k with partners := ps }
  ps.foldl (fun s p => s.sendTx c (.kill c p) (s.packet .kill p (s.ctx c).tag 0 none .plain 0 0 0 [])) s

/-- Units that report the purge done: 256 cores, the Starter, the RDMA adapter, 512 controllers (R148). -/
def purgeUnits : List Nat := List.range 770

/-- The kill reaches every core: an IDLE core restarts, a sleeping one has its wake pending (R448). -/
def killWake (s : State) : State :=
  { s with cores := s.cores.mapVals fun _ k => match k.pow with
      | .on => k
      | .idle => { k with pow := .on, busyAt := k.cyc }
      | _ => { k with wakePend := true } }

/-- A fatal fault of context `c` (R143, R145, R146). In KILLING it is only counted. -/
def State.kill (s : State) (c reason cause : Nat) (addr : Word) : State :=
  let k := s.ctx c
  match k.st with
  | .opened | .closing =>
    let s := s.modCtx c fun k =>
      { k with st := .killing, reason := reason, cause := cause, faddr := addr, faults := 1, killAt := s.now,
               routers := List.range 256, units := purgeUnits }
    let s := killCmds c (killWake s)
    let s := killLaunches c s
    let s := killOps c s
    let s := killQueues c s
    let s := dropQueues c 0x1C s
    let s := killQps c s
    let s := killWaiters c (killFar c s)
    let s := killGroups c s
    let s := killSlots c (s.dropVia (s.liveSlots.flatMap fun t => if (s.thread t).ctx = c then (s.thread t).owed else []))
    killPartners c s
  | .killing => s.modCtx c fun k => { k with faults := k.faults + 1 }
  | .free | .zeroing => s

end Sys2Proof.Machine
end

