-- ==== Sys2Proof/Machine/Ops.lean ====
section
/-! DEFINITION. The named operations over threads: the chain and its commit (R284), waits (R230, R237),
taking a trap and returning from one (R290 to R296), event counters (R251, R295, R368), making and ending
threads (R230 to R232, R242), and refusals (R180, R241). -/

namespace Sys2Proof.Machine

/-! ### The chain -/

/-- The chain after a pass or a commit (R284). -/
def Thread.advance (t : Thread) (taken : Option Word) (ann : Bool) : Thread :=
  { t with
    pc := t.npc, k0 := t.k1, npc := t.nnpc, k1 := t.k2,
    nnpc := taken.getD (nextPc t.nnpc), k2 := taken.isSome,
    a0 := t.a1 || ann, a1 := ann }

/-- The chain of a thread that starts at `e` by a checked transfer (R188, R242, R283). -/
def Thread.startAt (t : Thread) (e : Word) : Thread :=
  { t with pc := e, npc := nextPc e, nnpc := nextPc (nextPc e), a0 := false, a1 := false,
           k0 := true, k1 := false, k2 := false }

/-! ### Waits and readiness -/

/-- The executing thread's slot enters READY; its ready time is this cycle when it was not READY (R233). -/
def State.ready (s : State) : State :=
  let x := s.slot s.cur
  match x.st with
  | .ready => s.modMe fun t => { t with wait := .none }
  | .free => s
  | _ => s.setSlot s.cur { x with st := .ready, th := { x.th with wait := .none, readyAt := s.myCore.cyc } }

/-- The instruction commits: the chain advances, the thread is READY, and the second half of a pair follows
(R36, R284). -/
def State.commitTaken (s : State) (taken : Option Word) (ann : Bool) : State :=
  let pair := s.me.pairRest
  let s := s.modMe fun t => { t.advance taken ann with reissue := false, entering := false, pairRest := false,
                                                       walkFault := none, pages := [], fetched := none, bwaitDone := none, resumed := false, ldeDone := none }
  let s := s.ready
  if pair then { s with issueq := (s.cur, .second) :: s.issueq } else s

/-- A commit of an instruction that is no taken branch. -/
def State.commit (s : State) : State := s.commitTaken none false

/-- The thread leaves the rotation in STALL and issues the same instruction again afterwards (R237). -/
def State.stallOn (s : State) (r : Retry) : State :=
  let x := s.slot s.cur
  s.setSlot s.cur { x with st := .stall, th := { x.th with wait := .retry r, reissue := true, pairRest := false } }

/-- The thread leaves the rotation in STALL until a reply completes the instruction (R237). -/
def State.stallOp (s : State) (o : Op) : State :=
  let x := s.slot s.cur
  s.setSlot s.cur { x with st := .stall, th := { x.th with wait := .op o } }

/-- The packet of a transaction asks for the access at which the thread waits (R434). -/
def TxFor.waitsFor (w : TxFor) (t : Tid) (h : Nat) : Bool :=
  match w with
  | .load u _ => decide (u = t)
  | .bar g | .lde g => decide (g = h)
  | _ => false

/-- The thread at `t` leaves every queue in which a waiting instruction stands; an answer that another chip still owes it
finds no transaction (R101, R169, R292, R372, R434). -/
def State.leaveWaits (s : State) (t : Tid) : State :=
  let h := s.handle t
  { s with
    txs := s.txs.filter fun x => !x.what.waitsFor t h,
    ldeq := s.ldeq.filter fun w => w.who ≠ .thread t,
    cores := s.cores.mapVals fun _ k =>
      { k with bwt := k.bwt.filter fun b => b.far.isSome || decide (b.h ≠ h),
               bwaits := k.bwaits.filter fun b => b.tid ≠ t,
               boxes := k.boxes.mapVals fun _ m => { m with recvs := m.recvs.filter fun r => r.tid ≠ t } },
    clusters := s.clusters.mapVals fun _ k => { k with walks := k.walks.map fun w => { w with who := w.who.filter (· ≠ t) } } }

/-! ### Taking a trap -/

/-- sr.tann of the chain as it stands (R293). `a0` is saved except by a synchronous trap other than TRAPI. -/
def Thread.annBits (t : Thread) (keepA0 : Bool) : Word :=
  word (b2n (keepA0 && t.a0) + 2 * b2n t.a1 + 4 * b2n t.k1 + 8 * b2n t.k2 + 16 * b2n t.priv)

/-- The thread in its handler, the chain saved (R293, R294). -/
def Thread.enterTrap (t : Thread) (code : Nat) (addr : Word) (async keepA0 : Bool) : Thread :=
  { t with
    tpc0 := t.pc, tpc1 := t.npc, tpc2 := t.nnpc, tann := t.annBits keepA0,
    tcause := word (256 * b2n async + code), taddr := addr,
    eb := if t.priv then t.eb else t.e,
    e := if t.priv then t.e else Vector.replicate 4 0,
    priv := true, ne := false,
    pc := t.tvec, npc := nextPc t.tvec, nnpc := nextPc (nextPc t.tvec),
    a0 := false, a1 := false, k0 := false, k1 := false, k2 := false,
    reissue := false, entering := true, walkFault := none, pages := [], fetched := none, pairRest := false, bwaitDone := none, resumed := false, ldeDone := none }

/-- A trap of the executing thread: it enters its handler, or its context is killed with reason 1 when it
cannot (R145, R293, R294). -/
def State.trapWith (s : State) (code : Nat) (addr : Word) (async keepA0 : Bool) : State :=
  let t := s.me
  if (t.priv && !t.ne && !async) || decide (t.tvec = 0) || !pcOk t.tvec then s.kill t.ctx 1 code (faultAddr code addr)
  else ((s.leaveWaits s.cur).modMe fun t => t.enterTrap code addr async keepA0).ready

/-- A precise trap at the instruction, which has no other effect (R21, R293). -/
def State.trap (s : State) (c : Cause) (addr : Word) : State := s.trapWith (causeCode c) addr false false

/-- TRAPI: the chain is saved as the commit of TRAP leaves it (R293, R297). -/
def State.trapi (s : State) (v : Word) : State :=
  if (s.me.priv && !s.me.ne) || decide (s.me.tvec = 0) || !pcOk s.me.tvec then s.kill s.me.ctx 1 (causeCode .trapi) 0
  else (s.modMe fun t => (t.advance none false).enterTrap (causeCode .trapi) v false true).ready

/-- The pending causes that a position can take: all of them, or in a handler those that its entry left (R291). -/
def Thread.takeable (t : Thread) : Tab Word := if t.priv then t.pend.keep fun c _ => t.left.contains c else t.pend

/-- The pending asynchronous cause of lowest code is taken; the others are left for the next positions (R291). -/
def State.asyncTrap (s : State) : State :=
  match s.me.takeable with
  | [] => s
  | (c, v) :: rest => (s.modMe fun t => { t with pend := t.pend.erase c, left := rest.map (·.1) }).trapWith c v true true

/-- The thread waits at a blocking point (R237, R257). Outside privileged mode it takes at once a trap that is pending when
its wait begins (R292). -/
def State.blockOn (s : State) (b : Block) : State :=
  let x := s.slot s.cur
  let keep := match b with | .lde _ _ _ _ => x.th.pairRest | _ => false
  let s := s.setSlot s.cur { x with st := .wait, waitAt := s.now,
                                    th := { x.th with wait := .block b, reissue := true, pairRest := keep } }
  if !x.th.pend.isEmpty && !x.th.priv then s.asyncTrap else s

/-- A walk or fetch that fails while the handler's first line issues kills the context (R293). -/
def State.trapFetch (s : State) (c : Cause) (addr : Word) : State :=
  if s.me.entering then s.kill s.me.ctx 1 (causeCode c) addr else s.trap c addr

/-! ### Threads by handle, wherever they are -/

/-- Where the thread of a handle is: its slot, or a record after its commit cycle (R259). -/
inductive Whereabouts where
  | slot (t : Tid)
  | image (key : Nat)
  | group (name i : Nat)
  | gone
deriving DecidableEq, Repr

/-- Position of a handle in a group's image. -/
def savedAt (h : Nat) (l : List (Thread × Nat)) : Option Nat := l.findIdx? fun e => e.2 = h

/-- Where the thread of handle `h` is. -/
def State.locate (s : State) (h : Nat) : Whereabouts :=
  match s.images.find (fun _ i => i.hnd = h) with
  | some (k, _) => .image k
  | none =>
    match s.groups.find (fun _ g => (savedAt h g.saved).isSome) with
    | some (n, g) => .group n ((savedAt h g.saved).getD 0)
    | none => match s.named h with | some t => .slot t | none => .gone

/-- The generation of a handle is in its slot, or is the SAVED one of the slot's departure record (R232, R252, R298). -/
def State.knownAt (s : State) (h : Nat) : Bool :=
  let x := s.slot (tidOf h)
  (x.st.live && decide (x.gen = fld h 0 8)) || (match x.dep with
    | some (gen, .saved, _) => decide (gen = fld h 0 8)
    | _ => false)

/-- The thread of handle `h`, if it exists. -/
def State.byHandle (s : State) (h : Nat) : Option Thread :=
  match s.locate h with
  | .slot t => some (s.thread t)
  | .image k => (s.images.get? k).map (·.th)
  | .group n i => ((s.group n).saved[i]?).map (·.1)
  | .gone => none

/-- `s` with `f` applied to the thread of handle `h`. -/
def State.modHandle (s : State) (h : Nat) (f : Thread → Thread) : State :=
  match s.locate h with
  | .slot t => s.setThread t (f (s.thread t))
  | .image k => match s.images.get? k with
    | some i => { s with images := s.images.set k { i with th := f i.th } }
    | none => s
  | .group n i => s.modGroup n fun g =>
      { g with saved := match g.saved[i]? with | some e => g.saved.set i (f e.1, e.2) | none => g.saved }
  | .gone => s

/-- An asynchronous cause is made pending at the thread of handle `h`; a thread in WAIT outside privileged mode
takes it at once (R291, R292). -/
def State.raise (s : State) (h : Nat) (c : Cause) (v : Word) : State :=
  let s := s.modHandle h fun t => { t with pend := t.pend.set (causeCode c) v }
  match s.locate h with
  | .slot t =>
    let x := s.slot t
    if (decide (x.st = .wait) || decide (x.st = .saving)) && !x.th.priv then
      ((s.at_ t).asyncTrap).at_ s.cur
    else s
  | _ => s

/-! ### Event counters -/

/-- 1 is added to counter `k` of the thread of handle `h`, in the counters of the code that issued the item
(R295, R368). A counter that would pass 65,535 raises EVOVF instead (R222, R290). -/
def State.addEvent (s : State) (h : Nat) (k : EReg) (byHandler : Bool) : State :=
  match s.byHandle h with
  | none => s
  | some t =>
    let bank := t.priv && !byHandler
    let v := if bank then t.eb[k] else t.e[k]
    if v.toNat = 65535 then s.raise h .evovf (word k.val)
    else s.modHandle h fun t => if bank then { t with eb := t.eb.set k (v + 1) } else { t with e := t.e.set k (v + 1) }

/-! ### Making and ending threads -/

/-- Slots the context holds on a core, and on the device (R142). -/
def State.slotsOn (s : State) (c core : Nat) : Nat :=
  (s.liveSlots.filter fun t => decide (t.core = core) && decide ((s.thread t).ctx = c)).length

/-- Slots the context holds on the device (R142). -/
def State.slotsDev (s : State) (c : Nat) : Nat := (s.liveSlots.filter fun t => (s.thread t).ctx = c).length

/-- The context may take `n` more slots on the core (R142). -/
def State.slotQuota (s : State) (c core n : Nat) : Bool :=
  decide (s.slotsOn c core + n ≤ (s.ctx c).quota.slotsCore) && decide (s.slotsDev c + n ≤ (s.ctx c).quota.slotsDev)

/-- FREE slots of a core. -/
def State.freeSlots (s : State) (core : Nat) : List Nat :=
  (List.range 256).filter fun i => !(s.slot { core := core, slot := i }).st.live

/-- The slot a creation takes: the lowest FREE slot with no departure record, or else the one whose record is
oldest (R232). -/
def State.pickSlot (s : State) (core : Nat) : Option Nat :=
  let free := s.freeSlots core
  match free.find? fun i => (s.slot { core := core, slot := i }).dep.isNone with
  | some i => some i
  | none =>
    free.foldl (fun best i =>
      let age : Nat → Nat := fun i => match (s.slot { core := core, slot := i }).dep with | some (_, _, a) => a | none => 0
      match best with
      | none => some i
      | some b => if age i < age b then some i else some b) none

/-- The floor a core reports to the Curb tree (R443). -/
def State.floor (s : State) (c : Nat) : Nat :=
  match (s.core c).resv.keys.getLast? with
  | some h => h + 1
  | none => if s.liveSlots.any fun t => t.core = c then 1 else 0

/-- A core whose floor has risen raises sr.fduty to it at once (R444). -/
def State.raiseFloor (s : State) (c : Nat) : State :=
  let f := s.floor c
  s.modCore c fun k => if k.fduty < f then { k with fduty := f } else k

/-- A wake event at a core: an IDLE core restarts, a sleeping one has its wake pending (R448). -/
def State.wakeCore (s : State) (c : Nat) : State :=
  s.modCore c fun k =>
    match k.pow with
    | .on => k
    | .idle => { k with pow := .on, busyAt := k.cyc }
    | _ => { k with wakePend := true }

/-- The core's clock runs: it is ON, not in an in-rush ramp, not paused, not stopped (R153, R438, R445, R448). -/
def Core.clockRuns (k : Core) : Bool := decide (k.pow = .on) && !k.ramping && !k.paused && k.stop.isNone

/-- Something arrives at a core: a core that is not ON has a wake event. The answer says whether the core's clock now runs; where it
does not, what arrived waits (R153, R438, R445, R448). -/
def State.rouse (s : State) (c : Nat) : Bool × State :=
  if (s.core c).clockRuns then (true, s)
  else
    let s := s.wakeCore c
    ((s.core c).clockRuns, s)

/-- What arrives at a core is done once its clock runs, and has no other effect before than the wake (R153, R438, R445, R448). -/
def State.atRunning (s : State) (c : Nat) (f : State → State) : State :=
  match s.rouse c with
  | (true, s) => f s
  | (false, s) => s

/-- Of what was done only the wakes stand: the rest waits, and is done again. -/
def State.onlyWakes (s done : State) : State :=
  { s with cores := done.cores.mapVals fun c k => { s.core c with pow := k.pow, wakePend := k.wakePend, busyAt := k.busyAt } }

/-- A thread is created in a slot of `core`: READY, with the next generation (R230, R231, R232, R444). -/
def State.create (s : State) (core : Nat) (t : Thread) : Option (Tid × State) :=
  match s.pickSlot core with
  | none => none
  | some i =>
    let id : Tid := { core := core, slot := i }
    let old := s.slot id
    let s := s.wakeCore core
    let s := s.setSlot id { st := .ready, gen := nextGen old.gen, dep := none, waitAt := 0,
                            th := { t with readyAt := (s.core core).cyc, lastIssue := none } }
    some (id, s.raiseFloor core)

/-- The thread at `t` leaves its slot, which goes FREE with a departure record (R230, R232, R235). -/
def State.leaveSlot (s : State) (t : Tid) (d : Departed) : State :=
  let x := s.slot t
  let n := (s.core t.core).departs
  let s : State := { s.leaveWaits t with moves := s.moves.filter fun m => m.tid ≠ t }
  let s := s.setSlot t { x with st := .free, dep := some (x.gen, d, n), th := Thread.reset }
  s.modCore t.core fun k =>
    { k with departs := n + 1, resv := k.resv.keep fun _ o => o.1 ≠ t.slot }

/-- The state of a thread made by SPAWN or SPNR (R242). -/
def newThread (s : State) (c : Nat) (entry : Word) (regs : List Word) (prio : Nat) : Thread :=
  ({ Thread.reset with
     x := #v[0, regs.getD 0 0, regs.getD 1 0, regs.getD 2 0, regs.getD 3 0, 0, 0, 0, 0, 0, 0, 0, 0, 0, 0, 0],
     tvec := (s.ctx c).tvec, ctx := c, prio := prio }).startAt entry

/-- Threads of a group that have not exited (R209), resident or saved. -/
def State.members (s : State) (name : Nat) : Nat :=
  (s.liveSlots.filter fun t => (s.thread t).group = some name).length + (s.group name).saved.length

/-! ### Results -/

/-- A refused instruction's registers (R180, R241). -/
def Thread.refuse (t : Thread) (xd : XReg) (pd pe : PReg) (st : Status) : Thread :=
  (t.setX xd (refusal st)).setPP pd pe false

/-- A successful instruction's registers (R180, R241). -/
def Thread.accept (t : Thread) (xd : XReg) (pd pe : PReg) (v : Word) : Thread := (t.setX xd v).setPP pd pe true

/-- The instruction is refused with a status, and commits. -/
def State.refuse (s : State) (xd : XReg) (pd pe : PReg) (st : Status) : State :=
  (s.modMe fun t => t.refuse xd pd pe st).commit

/-- The instruction succeeds with a value, and commits. -/
def State.accept (s : State) (xd : XReg) (pd pe : PReg) (v : Word) : State :=
  (s.modMe fun t => t.accept xd pd pe v).commit

/-- The first of the registers that is owed (R276, R478). -/
def Thread.firstOwed (t : Thread) (regs : List XReg) : Option XReg :=
  regs.find? fun r => t.owed.any fun o => o.x = r

/-- A thread instruction: nothing but the commit on a false guard (R34, R38), a wait while a register it names is
owed (R478), and otherwise its effect. -/
def guarded (g : Guard) (regs : List XReg) (s : State) (effect : State → State) : Host.Outcome State Fault Refusal :=
  .next (if s.me.guard g then
    match s.me.firstOwed regs with
    | some r => s.blockOn (.owed r)
    | none => effect s
  else s.commit)

/-! ### Return from a trap -/

/-- Items the handler issued that are not answered: engine commands, SENDs, SPNRs and VPUTs (R296). -/
def State.handlerBusy (s : State) (t : Tid) : Bool :=
  let g := (s.slot t).gen
  s.cores.any (fun k => k.2.cmds.any fun c => decide (c.tid = t) && decide (c.gen = g) && c.priv)
  || s.items.any fun i => decide (i.tid = some t) && decide (i.gen = g) && i.priv

/-- The chain that ERET restores (R296). -/
def Thread.restoreChain (t : Thread) : Thread :=
  { t with pc := t.tpc0, npc := t.tpc1, nnpc := t.tpc2,
           a0 := t.tann.getLsbD 0, a1 := t.tann.getLsbD 1, k0 := false,
           k1 := t.tann.getLsbD 2, k2 := t.tann.getLsbD 3,
           reissue := false, entering := false, walkFault := none, pages := [], fetched := none, pairRest := false, bwaitDone := none, resumed := false, ldeDone := none, left := [] }

/-- The key under which a handler's tiles are held: one table of tiles for each handler, beside the groups (R295).
A handler of a loose thread has one too (R338). -/
def handlerKey (t : Tid) : Nat := 2 ^ 32 + t.key

/-- Every tile of a handler closes; its blocks are zeroed (R154, R296). -/
def State.closeHandler (s : State) (t : Tid) : State :=
  let g := s.group (handlerKey t)
  { s with
    groups := s.groups.erase (handlerKey t),
    eccAcc := s.eccAcc.filter fun e => !(decide (e.1 = t.core) && g.tiles.vals.any fun x => x.blocks.contains e.2.1) }

/-- ERET's effect once its waits are over (R296). -/
def State.eret (s : State) : State :=
  let t := s.me
  match [t.tpc0, t.tpc1, t.tpc2].find? fun a => !pcOk a with
  | some a => s.trap .addr a
  | none =>
    if t.tann.getLsbD 4 then
      (s.modMe fun t => { t.restoreChain with tann := t.tann &&& ~~~(16 : Word) }).ready
    else
      let s := s.closeHandler s.cur
      (s.modMe fun t => { t.restoreChain with e := t.eb, priv := false }).ready

end Sys2Proof.Machine
end

