-- ==== Sys2Proof/Machine/Page.lean ====
section
/-! DEFINITION. Page tables, walks, TLBs and permissions (17_page R400 to R406, R417). -/

namespace Sys2Proof.Machine

/-- Level, size in bytes and replication of a page-size code (R402). -/
def szInfo : Nat → Option (Nat × Nat × Nat)
  | 0 => some (3, 0x1000, 1) | 1 => some (3, 0x4000, 4) | 2 => some (3, 0x10000, 16) | 3 => some (3, 0x40000, 64)
  | 4 => some (2, 0x200000, 1) | 5 => some (2, 0x800000, 4) | 6 => some (2, 0x2000000, 16)
  | 7 => some (2, 0x8000000, 64) | 8 => some (2, 0x20000000, 256) | 9 => some (1, 0x40000000, 1)
  | _ => none

/-- PTE fields (R401). -/
def pteV (e : Nat) : Bool := bitN e 63
def pteSz (e : Nat) : Nat := fld e 59 4
def pteChip (e : Nat) : Nat := fld e 49 10
/-- The frame or table address: device physical bits [48:12]. -/
def pteFrame (e : Nat) : Nat := fld e 12 37 * 4096
def pteBwc (e : Nat) : Nat := fld e 8 4
def pteR (e : Nat) : Bool := bitN e 7
def pteW (e : Nat) : Bool := bitN e 6
def pteX (e : Nat) : Bool := bitN e 5
def pteA (e : Nat) : Bool := bitN e 4
def pteM (e : Nat) : Bool := bitN e 3
def pteG (e : Nat) : Bool := bitN e 2

/-- The index bits of a virtual address at a level (R400). -/
def vaIndex (a l : Nat) : Nat := fld a (39 - 9 * l) 9

/-- What a walk ends with (R403). -/
inductive Walked where
  | leaf (pte : Word) (size : Nat)
  | fail (c : Cause) (level : Nat)
deriving DecidableEq, Repr

/-- A pointer entry is well formed (R401, R403). -/
def ptrOk (s : State) (e l : Nat) : Bool :=
  decide (l < 3) && decide (fld e 2 10 = 0) && decide (pteChip e = s.chip) && decide (pteFrame e < hbmSize)

/-- A leaf is well formed at its level; its size (R401 to R403). -/
def leafSize (e l : Nat) : Option Nat :=
  match szInfo (pteSz e) with
  | some (lv, size, _) =>
    if lv = l ∧ pteFrame e % size = 0 ∧ bitN e 48 = false then some size else none
  | none => none

/-- The walk from the table at `tbl`, one entry per level (R403). -/
def walkFrom (s : State) (a : Nat) : List Nat → Nat → Walked
  | [], _ => .fail .page 3
  | l :: ls, tbl =>
    let pa := tbl + 8 * vaIndex a l
    if s.eccHit pa 8 then .fail .ecc l
    else
      let e := s.readN pa 8
      if !pteV e then .fail .page l
      else if fld e 0 2 ≠ 0 then .fail .page l
      else if pteSz e = 15 then (if ptrOk s e l then walkFrom s a ls (pteFrame e) else .fail .page l)
      else match leafSize e l with
        | some size => .leaf (word e) size
        | none => .fail .page l

/-- The walk of virtual address `a` in context `c` (R403). -/
def State.walk (s : State) (c a : Nat) : Walked := walkFrom s a [0, 1, 2, 3] (s.ctx c).root

/-! ### TLBs (R405, R406) -/

/-- An entry covers an address of a context. -/
def TlbE.covers (e : TlbE) (c a : Nat) : Bool :=
  decide (e.ctx = c) && decide (e.va ≤ a) && decide (a < e.va + e.size)

/-- The entry that covers the address, with the list in order of use, latest first. -/
def tlbFind (l : List TlbE) (c a : Nat) : Option (TlbE × List TlbE) :=
  match l.find? fun e => e.covers c a with
  | some e => some (e, e :: l.filter (· ≠ e))
  | none => none

/-- `l` with a new entry; beyond `n` entries the least recently used goes (R405). -/
def tlbFill (n : Nat) (l : List TlbE) (e : TlbE) : List TlbE := (e :: l.filter (· ≠ e)).take n

/-- Entries of the core and second-level TLBs (R405). -/
def tlbSize : Nat := 64
def l2Size : Nat := 4096

/-- A lookup at core `core`: its TLB, then the cluster's, which fills it (R406). -/
def State.tlbLook (s : State) (core c a : Nat) : Option (TlbE × State) :=
  match tlbFind (s.core core).tlb c a with
  | some (e, l) => some (e, s.modCore core fun k => { k with tlb := l })
  | none =>
    match tlbFind (s.cluster (clusterOf core)).l2 c a with
    | some (e, l) =>
      some (e, (s.modCluster (clusterOf core) fun k => { k with l2 := l }).modCore core fun k =>
        { k with tlb := tlbFill tlbSize k.tlb e })
    | none => none

/-- A walk's result as a TLB entry. -/
def mkTlbE (c a : Nat) (pte : Word) (size : Nat) : TlbE := { ctx := c, va := a / size * size, size := size, pte := pte }

/-- The executing thread waits in STALL on a walk for the page: it joins one that a walker has begun, starts one, or waits in
the miss queue; with the queue full it asks again after 64 mesh cycles, 51.2 ns (R406). -/
def State.startWalk (s : State) (c a : Nat) : State :=
  let k := clusterOf s.cur.core
  let page := a / 4096 * 4096
  let ws := (s.cluster k).walks
  match (ws.take 32).findIdx? fun w => decide (w.ctx = c) && decide (w.va = page) with
  | some i =>
    (s.modCluster k fun x => { x with walks := x.walks.modify i fun w => { w with who := w.who ++ [s.cur] } }).stallOn .walk
  | none =>
    if ws.length < 32 + 256 then
      (s.modCluster k fun x => { x with walks := x.walks ++ [{ ctx := c, va := page, who := [s.cur] }] }).stallOn .walk
    else s.stallOn (.missFull (s.now + 52))

/-- What a translation gives the executing thread. -/
inductive Xlated where
  | ok (e : TlbE) (s : State)
  | fault (c : Cause) (level : Nat) (s : State)
  | wait (s : State)
deriving DecidableEq, Repr

/-- Cause of a code recorded by a failed walk. -/
def walkCause (n : Nat) : Cause := if n = 0x0C then .ecc else .page

/-- The executing thread translates `a` through the TLBs (R405, R406). -/
def State.xlate (s : State) (a : Nat) : Xlated :=
  let c := s.me.ctx
  match s.tlbLook s.cur.core c a with
  | some (e, s) => .ok e s
  | none =>
    match s.me.walkFault with
    | some (page, cause, level) =>
      if page = a / 4096 * 4096 then .fault (walkCause cause) level (s.modMe fun t => { t with walkFault := none })
      else .wait ((s.modMe fun t => { t with walkFault := none }).startWalk c a)
    | none => .wait (s.startWalk c a)

/-- The physical address an entry gives (R403). -/
def TlbE.pa (e : TlbE) (a : Nat) : Nat := pteFrame e.pte.toNat + (a - e.va)

/-- The checks of R404 in their order: ADDR, the permission bits, the bandwidth class, a fetch from another chip,
control space. `none` when the access is allowed. -/
def permCheck (s : State) (c : Nat) (pte : Nat) (pa : Nat) (p : Perm) : Option Cause :=
  let bits := match p with
    | .read => pteR pte
    | .write => pteW pte
    | .atomic => pteR pte && pteW pte && pteA pte
    | .fetch => pteX pte
  if place pa = .none then some .addr
  else if !bits then some .prot
  else if !bitN (s.ctx c).quota.bwMask (pteBwc pte) then some .prot
  else if p = .fetch ∧ pteChip pte ≠ s.chip then some .prot
  else if place pa = .ctl then some .prot
  else none

/-- A translation for an agent that is no thread (Starter, RDMA adapter): the walk of R403 with the checks of R404. -/
def State.xlateFor (s : State) (c a : Nat) (p : Perm) : Except Cause Target :=
  if 2 ^ 48 ≤ a then .error .addr
  else match s.walk c a with
    | .fail e _ => .error e
    | .leaf pte size =>
      let pa := pteFrame pte.toNat + a % size
      match permCheck s c pte.toNat pa p with
      | some e => .error e
      | none => .ok { chip := pteChip pte.toNat, pa := pa, bwc := some (pteBwc pte.toNat), loc := false }

end Sys2Proof.Machine
end

