-- ==== Sys2Proof/Machine/Access.lean ====
section
/-! DEFINITION. The checks a thread's access makes before it is performed (03_region R93 to R107, R112;
10_thread_scalar R273; 04_order R129; 11_thread_flow R302) and what its home says to it when it arrives
(R109, R163, R208, R412, R445, R448). -/

namespace Sys2Proof.Machine

/-- Kinds of access (R273). `bar` is a barrier operation, checked as an atomic on a scratchpad (R394). -/
inductive AccOp where
  | ld | st | lde | feq | stf | empt | atomic | bar
deriving DecidableEq, Repr

/-- The permission an access needs (R273, check 4). -/
def AccOp.perm : AccOp → Perm
  | .ld | .lde | .feq => .read
  | .st | .stf | .empt => .write
  | .atomic | .bar => .atomic

/-- Accesses that only read, for the range locks (R129). -/
def AccOp.reads : AccOp → Bool
  | .ld | .lde | .feq => true
  | _ => false

/-- Full/empty operations: check 5 of R273 asks for a scratchpad (R100, R277). -/
def AccOp.spadOnly : AccOp → Bool
  | .lde | .feq | .stf | .empt => true
  | _ => false

/-- Whether the watchpoint sees the access (R302): RD for loads, LDE, FEQ and atomics, WR for stores, STF, EMPT
and atomics. -/
def AccOp.watched (o : AccOp) (w : Nat) : Bool :=
  match o with
  | .ld | .lde | .feq => bitN w 61
  | .st | .stf | .empt => bitN w 62
  | .atomic => bitN w 61 || bitN w 62
  | .bar => false

/-- sr.taddr of an MBOX trap: status in [39:32], mailbox id in [23:0] (R181, R290). -/
def mboxAddr (st : Status) (id : Nat) : Word := word (stCode st * 2 ^ 32 + id % 2 ^ 24)

/-- The pod-wide id of a mailbox (R163). -/
def boxId (chip core idx : Nat) : Nat := chip * 2 ^ 14 + core * 2 ^ 6 + idx

/-- The open mailbox of a core whose ring the range touches (R163). -/
def State.ringHit (s : State) (core off n : Nat) : Option Nat :=
  ((s.core core).boxes.find fun _ m => decide (off < m.base + m.ringLen) && decide (m.base < off + n)).map (·.1)

/-- A lock of the core's Bridle that the access touches, by lines (R129, R370). -/
def State.bridleHit (s : State) (core chip pa n : Nat) (readOnly : Bool) : Bool :=
  (s.core core).cmds.any fun c => c.locks.any fun l =>
    (l.dst || !readOnly) && decide (l.chip = chip) && decide (l.lo ≤ (pa + n - 1) / 64) && decide (pa / 64 ≤ l.hi)

/-- The weight region that holds an address (R106). -/
def State.regionAt (s : State) (pa : Nat) : Option (Nat × Region) :=
  s.regions.find fun b r => decide (b ≤ pa) && decide (pa < b + r.size)

/-- A thread load or operand read may be performed in the weight store: a SERVING region of the context (R107). -/
def State.wsReadable (s : State) (c pa : Nat) : Bool :=
  match s.regionAt pa with
  | some (_, r) => decide (r.ctx = c) && r.serving
  | none => false

/-- What the checks of an access end with. -/
inductive Checked where
  | go (t : Target) (s : State)
  | stop (s : State)
deriving DecidableEq, Repr

/-- The address lies in a scratchpad. -/
def isSpad (pa : Nat) : Bool := match place pa with | .spad _ _ => true | _ => false

/-- Check 5 of R273, the kind of the target on this chip (`own`) or another. A full/empty operation on another chip raises
ADDR wherever it meets no scratchpad (R100), and any other access to another chip's weight store is refused by that chip
(R95). The control space of any chip raises PROT (R96; log 82). A barrier operation is checked as an atomic here, and for a
scratchpad after all the checks of R273 (R394). -/
def State.badKind (s : State) (own : Bool) (o : AccOp) (pa : Nat) : Option Cause :=
  if !own && o.spadOnly && !isSpad pa then some .addr
  else match place pa with
    | .wstore _ =>
      if !own then none
      else if o ≠ .ld then some .wsw
      else if !s.wsReadable s.me.ctx pa then some .prot else none
    | .spad _ _ => none
    | .hbm => if o.spadOnly then some .addr else none
    | .ctl => some .prot
    | .none => some .addr

/-- Checks 5 to 7 of R273 and the watchpoint, for a resolved target (R107, R129, R163, R277, R281, R302). -/
def State.checkTarget (s : State) (ea : Word) (n : Nat) (o : AccOp) (t : Target) : Checked :=
  let own := decide (t.chip = s.chip)
  let shape := t.loc && decide (shapeBase < ea.toNat + n)
  if shape && decide (o ≠ .ld) then .stop (s.trap .prot ea)
  else
    let bad := s.badKind own o t.pa
    match bad with
    | some c => .stop (s.trap c ea)
    | none =>
      let ring := match place t.pa with
        | .spad core off => if own && decide (core = s.cur.core) && !shape then s.ringHit core off n else none
        | _ => none
      match ring with
      | some i => .stop (s.trap .mbox (mboxAddr .fault (boxId s.chip s.cur.core i)))
      | none =>
        if s.bridleHit s.cur.core t.chip t.pa n o.reads then .stop (s.trap .range ea)
        else
          let w := s.me.watch.toNat
          if bitN w 63 && o.watched w && decide (ea.toNat / 64 ≤ fld w 6 42) && decide (fld w 6 42 ≤ (ea.toNat + n - 1) / 64)
          then .stop (s.trap .watch ea)
          else if o = .bar ∧ isSpad t.pa = false then .stop (s.trap .addr ea)
          else .go t s

/-- The checks of R273 for an access of `n` bytes at `ea` that must be aligned on `al`. -/
def State.check (s : State) (ea : Word) (n al : Nat) (o : AccOp) : Checked :=
  if ea.toNat % al ≠ 0 then .stop (s.trap .align ea)
  else if 2 ^ 48 ≤ ea.toNat then .stop (s.trap .addr ea)
  else if ea.toNat < spadSize then
    s.checkTarget ea n o { chip := s.chip, pa := localPa s.cur.core ea.toNat, bwc := none, loc := true }
  else match s.xlate ea.toNat with
    | .wait s => .stop s
    | .fault c _ s => .stop (s.trap c ea)
    | .ok e s =>
      match permCheck s s.me.ctx e.pte.toNat (e.pa ea.toNat) o.perm with
      | some c => .stop (s.trap c ea)
      | none => s.checkTarget ea n o { chip := pteChip e.pte.toNat, pa := e.pa ea.toNat,
                                       bwc := some (pteBwc e.pte.toNat), loc := false }

/-! ### At home -/

/-- The moving page whose old frame holds an address (R411). -/
def State.movingAt (s : State) (pa : Nat) : Option Moving :=
  s.moving.find? fun m => m.copying && decide (m.old ≤ pa) && decide (pa < m.old + m.size)

/-- The sub-block of an address of a moving page has been copied (R412, R414). -/
def Moving.hasCopied (m : Moving) (pa : Nat) : Bool := m.ended || decide ((pa - m.old) / 4096 < m.copied)

/-- A write is held for the sub-block of `pa` (R412). -/
def State.writeHeld (s : State) (m : Moving) (pa : Nat) : Bool :=
  s.holdq.any fun h => h.write && decide (m.old ≤ h.pa) && decide (h.pa < m.old + m.size)
    && decide ((h.pa - m.old) / 4096 = (pa - m.old) / 4096)

/-- Class `c` (R207). -/
def State.bwClass (s : State) (c : Nat) : BwClass := s.bw.getD c BwClass.reset

/-- The access of a key leaves the queues of the classes. -/
def State.bandGone (s : State) (key : AccKey) : State :=
  if s.bwq.any fun q => q.2.any fun e => e.key = key then
    { s with bwq := s.bwq.mapVals fun _ l => l.filter fun e => e.key ≠ key }
  else s

/-- The admission of an access of `n` bytes by its class at its controller: in arrival order, when the balance
reaches the head cost (R208). False: it waits, and stands in its class's queue. -/
def State.admitBand (s : State) (key : AccKey) (ctx : Nat) (cls : Option Nat) (pa n : Nat) : Bool × State :=
  match cls with
  | none => (true, s.bandGone key)
  | some c =>
    let k := s.bwClass c
    if k.unl then (true, s.bandGone key)
    else
      let q := hbmCtl pa * 16 + c
      let waiting := s.bwq.getD q []
      let cost := Nat.max n 32
      let bal := k.bal.getD (hbmCtl pa) 0
      let first := match waiting with | [] => true | e :: _ => decide (e.key = key)
      if first && decide ((Nat.min cost 64 : Int) ≤ bal) then
        (true, { s with bw := s.bw.set c { k with bal := k.bal.set (hbmCtl pa) (bal - cost) },
                        bwq := s.bwq.set q (waiting.filter fun e => e.key ≠ key) })
      else if waiting.any fun e => e.key = key then (false, s)
      else (false, { s with bwq := s.bwq.set q (waiting ++ [{ key := key, ctx := ctx, ord := s.nextBw }]), nextBw := s.nextBw + 1 })

/-- An access of `n` bytes that the Starter, a core or the RDMA adapter itself makes for a context is admitted by its class and charged
to it, behind the accesses that wait there (R206, R208; log 70). False: it is made later. -/
def State.chargeBand (s : State) (cls : Option Nat) (pa n : Nat) : Bool × State :=
  match cls with
  | none => (true, s)
  | some c =>
    let k := s.bwClass c
    if k.unl || decide (place pa ≠ .hbm) then (true, s)
    else
      let cost := Nat.max n 32
      let bal := k.bal.getD (hbmCtl pa) 0
      if (s.bwq.getD (hbmCtl pa * 16 + c) []).isEmpty && decide ((Nat.min cost 64 : Int) ≤ bal) then
        (true, { s with bw := s.bw.set c { k with bal := k.bal.set (hbmCtl pa) (bal - cost) } })
      else (false, s)

/-- The address at which an access that names `pa` is performed, as far as the copies of moving pages have got: a copied
sub-block is forwarded, again when its new frame has moved on (R412, R414). `fuel` bounds the moves. -/
def State.forwarded (s : State) : Nat → Nat → Nat
  | 0, pa => pa
  | fuel + 1, pa => match s.movingAt pa with
    | some m => if m.hasCopied pa then s.forwarded fuel (m.new + (pa - m.old)) else pa
    | none => pa

/-- As `forwarded`, through every move there is. -/
def State.livePa (s : State) (pa : Nat) : Nat := s.forwarded s.moving.length pa

/-- What a home says to an access that reaches it. -/
inductive Gate where
  /-- it is performed at this address now -/
  | go (pa : Nat) (s : State)
  /-- it waits -/
  | later (s : State)
  /-- the hold queue of the controller is full -/
  | full
  | refused (st : Status)
deriving DecidableEq, Repr

/-- Entries of a controller's migration hold queue (R413). -/
def State.heldAt (s : State) (pa : Nat) : Nat := (s.holdq.filter fun h => hbmCtl h.pa = hbmCtl pa).length

/-- 256 mesh cycles, 204.8 ns, rounded up (R413). -/
def holdRetry : Nat := 205

/-- The source sends the refused access again at the time given; a store or packet is told (R413). -/
def State.fullHold (s : State) (key : AccKey) : Gate :=
  match key with
  | .store _ | .far _ _ => .full
  | _ => .later { s with fullq := s.fullq ++ [(key, s.now + holdRetry)] }

/-- The source of a refused access does not send it again yet (R413). -/
def State.fullWait (s : State) (key : AccKey) : Bool := s.fullq.any fun e => decide (e.1 = key) && decide (s.now < e.2)

/-- The access is on its way again. -/
def State.fullGone (s : State) (key : AccKey) : State := { s with fullq := s.fullq.filter fun e => e.1 ≠ key }

/-- An access of context `ctx` issued at core `from_` reaches its home on this chip; `cost` bytes are charged to its class
(R208). -/
def State.gateFor (s : State) (from_ : Nat) (key : AccKey) (ctx : Nat) (t : Target) (n cost : Nat) (write : Bool) : Gate :=
  match place t.pa with
  | .none | .ctl => .refused .denied
  | .spad core off =>
    if core ≠ from_ ∧ (s.ringHit core off n).isSome then .refused .denied
    else match s.rouse core with
      | (true, s) => .go t.pa s
      | (false, s) => .later s
  | .wstore off => if (refreshEnd s.now (wsBank off)).isSome then .later s else .go t.pa s
  | .hbm =>
    let pa := s.livePa t.pa
    match s.movingAt pa with
    | some m =>
      if (s.holdq.any fun h => h.key = key) || s.fullWait key then .later s
      else if write || s.writeHeld m pa then
        let s := s.fullGone key
        if 64 ≤ s.heldAt pa then s.fullHold key
        else .later { s with holdq := s.holdq ++ [{ key := key, ctx := ctx, pa := pa, write := write }] }
      else match s.admitBand key ctx t.bwc pa cost with
        | (true, s) => .go pa (s.fullGone key)
        | (false, s) => .later s
    | none =>
      match s.admitBand key ctx t.bwc pa cost with
      | (true, s) => .go pa (s.fullGone key)
      | (false, s) => .later s

/-- An access of `n` bytes that its class is charged for (R208). -/
def State.gate (s : State) (from_ : Nat) (key : AccKey) (ctx : Nat) (t : Target) (n : Nat) (write : Bool) : Gate :=
  s.gateFor from_ key ctx t n n write

/-- An access that the Starter, a core for its task queue or the RDMA adapter makes reaches its home on this chip. It waits where a
thread's would, outside the hold queues (R206, R208, R412, R438; log 24). -/
def State.agentGate (s : State) (t : Target) (n : Nat) (write : Bool) : Gate :=
  match place t.pa with
  | .none | .ctl => .refused .denied
  | .spad core off =>
    if (s.ringHit core off n).isSome then .refused .denied
    else match s.rouse core with
      | (true, s) => .go t.pa s
      | (false, s) => .later s
  | .wstore off => if (refreshEnd s.now (wsBank off)).isSome then .later s else .go t.pa s
  | .hbm =>
    let pa := s.livePa t.pa
    let behind := match s.movingAt pa with
      | some m => write || s.writeHeld m pa
      | none => false
    if behind then .later s
    else match s.chargeBand t.bwc pa n with
      | (true, s) => .go pa s
      | (false, s) => .later s

/-- The fetch of a line by the thread at `t` reaches the line's home on this chip (R29, R109, R206, R412). -/
def State.fetchGate (s : State) (t : Tid) (line : Target) : Gate :=
  match place line.pa with
  | .spad core _ => match s.rouse core with
    | (true, s) => .go line.pa s
    | (false, s) => .later s
  | _ => s.gate t.core (.fetch t) (s.thread t).ctx line 64 false

/-! ### Values of loads (R117) -/

/-- Bytes of a store that cover part of [pa, pa + n) laid over `d`. -/
def overlay (d : List Byte) (pa : Nat) (st : Nat) (b : List Byte) : List Byte :=
  (List.range d.length).map fun i =>
    if st ≤ pa + i ∧ pa + i < st + b.length then b.getD (pa + i - st) 0 else d.getD i 0

/-- A store on its way, not yet performed or refused at home. -/
def Phase.pending : Phase → Bool
  | .done | .refused _ => false
  | _ => true

/-- The thread's own stores that are still in a write-combining buffer, laid over what a load read (case 1 of R117). -/
def State.forward (s : State) (t : Tid) (chip pa : Nat) (d : List Byte) : List Byte :=
  s.stores.foldl (fun d x =>
    if x.tid = t ∧ x.gen = (s.slot t).gen ∧ x.tgt.chip = chip ∧ x.phase = .buffered then overlay d pa x.tgt.pa x.data
    else d) d

/-- Lines a cluster cache holds: 4 MiB (R8). -/
def cacheLines : Nat := 65536

/-- The cached line of (chip, line address) in a cluster (R110). -/
def State.cached (s : State) (k chip line : Nat) : Option (List Byte) :=
  ((s.cluster k).lines.find? fun l => l.1 = chip ∧ l.2.1 = line).map (·.2.2)

/-- The line filled, or replaced, in a cluster cache (R110, R117). The model's choice: the cache is fully associative, and a
full one drops the line that was filled longest ago; R117 names replacement and gives no policy (log 83). -/
def State.fillLine (s : State) (k chip line : Nat) (d : List Byte) : State :=
  s.modCluster k fun c =>
    let l := (chip, line, d) :: c.lines.filter fun l => !(decide (l.1 = chip) && decide (l.2.1 = line))
    { c with lines := l.take cacheLines, drops := if cacheLines < l.length then c.drops + 1 else c.drops }

/-- The line leaves a cluster cache (R110, R124). -/
def State.dropLine (s : State) (k chip line : Nat) : State :=
  s.modCluster k fun c =>
    { c with lines := c.lines.filter fun l => !(decide (l.1 = chip) && decide (l.2.1 = line)), drops := c.drops + 1 }

/-- Every line of a cluster cache leaves it (R122). -/
def State.dropLines (s : State) (k : Nat) : State := s.modCluster k fun c => { c with lines := [], drops := c.drops + 1 }

/-- Lines of another chip that are being read for a cluster do not fill its cache: a store of the cluster goes to that chip
behind the read (R117). -/
def State.passReads (s : State) (k : Nat) : State := s.modCluster k fun c => { c with drops := c.drops + 1 }

/-- A draining store updates the copy of its line in the issuing core's cluster cache (R110). -/
def State.updateLine (s : State) (k chip pa : Nat) (b : List Byte) : State :=
  s.modCluster k fun c =>
    { c with lines := c.lines.map fun l => if l.1 = chip ∧ l.2.1 = pa / 64 * 64 then (l.1, l.2.1, overlay l.2.2 l.2.1 pa b) else l }

/-- Bytes of the shape record of the executing thread's kernel; zeros without one (R103). -/
def State.shapeBytes (s : State) (core : Nat) (launch : Option Nat) (off n : Nat) : List Byte :=
  match launch.bind fun l => (s.core core).shapes.get? l with
  | some r => (r.drop (off - shapeBase)).take n
  | none => zeros n

end Sys2Proof.Machine
end

