-- ==== Sys2Proof/Machine/Operands.lean ====
section
/-! DEFINITION. Operand forms: the memory operand (R273), branch targets (R42, R288), the scalar values of lanes
(R74, R305), the vector window (R211, R212) and its holds (R218), and the registers a thread instruction
reads and writes (R51, R266, R308). -/

namespace Sys2Proof.Machine

/-- ea := x[XA] + sext(IMM48) mod 2^64 (R273). -/
def Thread.ea (t : Thread) (xa : XReg) (off : BitVec 48) : Word := t.xr xa + sext48 off

/-- The target of BR and CALL, from the PC of the branch (R42). -/
def branchTarget (pc : Word) (loff : BitVec 42) (ts : Fin 5) : Word :=
  (pc &&& ~~~(63 : Word)) + loff.signExtend 64 * 64 + word (ts.val * 12)

/-! ### Lanes -/

/-- Lane `i` of width `w` of a vector register (R74). -/
def VReg.lane (v : VReg) (w i : Nat) : Nat := v.toNat / 2 ^ (w * i) % 2 ^ w

/-- A vector register from its lanes of width `w`, lane 0 first (R74). -/
def vregOf (w : Nat) (l : List Nat) : VReg := BitVec.ofNat 1024 (l.foldr (fun x acc => x % 2 ^ w + 2 ^ w * acc) 0)

/-- The lanes of a vector register. -/
def VReg.lanes (v : VReg) (w n : Nat) : List Nat := (List.range n).map fun i => VReg.lane v w i

/-- The 128 bytes of a vector register. -/
def VReg.bytes (v : VReg) : List Byte := bytesOf 128 v.toNat

/-- Lane `i` is enabled: bit i of p[GP] XOR GN (R38, R305). -/
def Thread.laneOn (t : Thread) (g : Guard) (i : Nat) : Bool := Bool.xor ((t.pr g.p).getLsbD i) g.neg

/-- Some of the first `n` lanes is enabled (R306). -/
def Thread.anyLane (t : Thread) (g : Guard) (n : Nat) : Bool := (List.range n).any fun i => t.laneOn g i

/-! ### The vector window -/

/-- The window of the executing thread: its group's register count, 0 for a loose thread (R211, R307). -/
def State.window (s : State) : Nat := match s.myGroup? with | some g => g.vregs | none => 0

/-- The first of the indices beyond the window (R212). -/
def State.badIdx (s : State) (l : List Nat) : Option Nat := l.find? fun i => s.window ≤ i

/-- The first of the registers that is held (R218). -/
def State.heldIdx (s : State) (l : List Nat) : Option Nat :=
  match s.myGroup? with
  | some g => l.find? fun i => decide (g.arm.getD i 0 ≠ 0)
  | none => none

/-- Register `i` of the executing thread's window. -/
def State.vr (s : State) (i : Nat) : VReg := match s.myGroup? with | some g => g.v.getD i 0 | none => 0

/-- `s` with elements of width `w` of register `i` of the window written, those that are given; the others keep their
contents (R306). A protected word written whole has fresh check bits (R477). -/
def State.writeElems (s : State) (i w : Nat) (l : List (Option Nat)) : State :=
  match s.me.group with
  | some n =>
    let old := s.vr i
    let v := vregOf w ((List.range l.length).map fun j => match l[j]? with
      | some (some x) => x
      | _ => VReg.lane old w j)
    let whole := fun (word : Nat) => (List.range (64 / w)).all fun j =>
      match l[word * (64 / w) + j]? with
      | some (some _) => true
      | _ => false
    let s := { s with eccV := s.eccV.filter fun e => !(decide (e.1 = n) && decide (e.2.1 = i) && whole e.2.2) }
    s.modGroup n fun g => { g with v := g.v.set i v }
  | none => s

/-- The vector bank of the executing thread's window. -/
def State.myBank (s : State) : Nat := match s.myGroup? with | some g => g.bank | none => 0

/-- Vector bank `b` of core `c` (R213). -/
def State.vbank (s : State) (c b : Nat) : VBank := (s.core c).vbanks.getD b VBank.reset

/-- An access to a vector bank (R213): true when it is ON; from RET or OFF a wake begins, of 40 or 200 cycles. -/
def State.touchBank (s : State) (c b : Nat) : Bool × State :=
  let k := s.vbank c b
  let now := (s.core c).cyc
  match k.st with
  | .on => (true, s.modCore c fun x => { x with vbanks := x.vbanks.set b { k with last := now } })
  | .ret => (false, s.modCore c fun x => { x with vbanks := x.vbanks.set b { st := .waking, last := now, wakeAt := now + 40 } })
  | .off => (false, s.modCore c fun x => { x with vbanks := x.vbanks.set b { st := .waking, last := now, wakeAt := now + 200 } })
  | .waking => (false, s)

/-- A register of the executing thread's window holds a marked word (R477). -/
def State.eccVreg (s : State) (l : List Nat) : Bool :=
  s.eccV.any fun e => decide (some e.1 = s.me.group) && l.contains e.2.1

/-- The executing thread waits for its bank, and then `k` follows (R213). -/
def State.bankThen (s : State) (k : State → State) : State :=
  match s.touchBank s.cur.core s.myBank with
  | (true, s) => k s
  | (false, s) => s.stallOn (.vbank s.myBank)

/-- An instruction that reads the registers of `l`: a marked word raises ECC (R114, R477; log 15). -/
def State.readVThen (s : State) (l : List Nat) (k : State → State) : State :=
  if s.eccVreg l then ({ s with tick := s.tick + 1 } : State).trap .ecc (Config.eccNoAddr s.tick) else k s

/-! ### Registers an instruction names -/

/-- Registers for the pairing test (R51): x, predicate, vector and event-counter registers. -/
inductive RegRef where
  | x (r : XReg)
  | p (r : PReg)
  | v (i : Nat)
  | e (r : EReg)
deriving DecidableEq, Repr

/-- x registers of a second source. -/
def srcRefs (b : Src) : List RegRef := (srcRegs b).map .x

/-- A predicate destination; p0 counts as no write (R51). -/
def predDst (r : PReg) : List RegRef := if r = 0 then [] else [.p r]

/-- Counter written by a command (R375). -/
def doneDst : Done → List RegRef
  | .async e => [.e e]
  | .wait => []

/-- The result register of an atomic. -/
def adestDst : ADest → List RegRef
  | .res xd => [.x xd]
  | .drop => []

/-- Registers read and written, the guard predicate apart (R266, R308, R337, R358, R375); none for an unpaired
instruction. -/
def regsOf : Instr → Option (List RegRef × List RegRef)
  | .add _ d a b | .sub _ d a b | .mul _ d a b | .mulh _ _ d a b | .div _ _ d a b | .rem _ _ d a b
  | .and _ d a b | .or _ d a b | .xor _ d a b | .andn _ d a b | .orn _ d a b | .shl _ d a b | .shr _ d a b
  | .sar _ d a b | .rol _ d a b | .min _ _ d a b | .max _ _ d a b | .bext _ d a b => some (.x a :: srcRefs b, [.x d])
  | .bins _ d a b => some (.x a :: .x d :: srcRefs b, [.x d])
  | .clz _ d a | .ctz _ d a | .popc _ d a | .sext _ _ d a => some ([.x a], [.x d])
  | .mov _ d b => some (srcRefs b, [.x d])
  | .li _ d _ => some ([], [.x d])
  | .sel _ d pn _ a b => some (.x a :: .p pn :: srcRefs b, [.x d])
  | .cmp _ _ pd pe a b | .tstb _ pd pe a b => some (.x a :: srcRefs b, predDst pd ++ predDst pe)
  | .pand _ d a b | .por _ d a b | .pxor _ d a b | .pandn _ d a b => some ([.p a, .p b], predDst d)
  | .pnot _ d a => some ([.p a], predDst d)
  | .pmovPtox _ d a => some ([.p a], [.x d])
  | .pmovXtop _ d a => some ([.x a], predDst d)
  | .pany _ _ pd pe a b => some (.p a :: srcRefs b, predDst pd ++ predDst pe)
  | .pcnt _ d a b => some (.p a :: srcRefs b, [.x d])
  | .ld _ _ d a _ | .ldn _ _ d a _ | .lde _ d a _ | .ldeC _ d a _ => some ([.x a], [.x d])
  | .st _ _ a b _ | .stf _ a b _ => some ([.x a, .x b], [])
  | .empt _ a _ => some ([.x a], [])
  | .feq _ pd pe a _ => some ([.x a], predDst pd ++ predDst pe)
  | .aadd _ _ _ d a b _ | .aand _ _ _ d a b _ | .aor _ _ _ d a b _ | .axor _ _ _ d a b _ | .amin _ _ _ _ d a b _
  | .amax _ _ _ _ d a b _ | .aswap _ _ _ d a b _ | .afadd _ _ d a b _ => some ([.x a, .x b], adestDst d)
  | .acas _ _ _ d pd pe a b _ => some ([.x a, .x b, .x d], .x d :: (predDst pd ++ predDst pe))
  | .vadd _ _ _ d a b | .vsub _ _ _ d a b | .vmul _ _ _ d a b | .vmin _ _ d a b | .vmax _ _ d a b | .vand _ _ d a b
  | .vor _ _ d a b | .vxor _ _ d a b | .viadd _ _ d a b | .vimul _ _ d a b | .vshuf _ _ d a b _ =>
    some ([.v a.val, .v b.val], [.v d.val])
  | .vfma _ _ _ d a b c | .vfms _ _ _ d a b c | .vperm _ _ d a b c => some ([.v a.val, .v b.val, .v c.val], [.v d.val])
  | .vabs _ _ d a | .vneg _ _ d a | .vmov _ _ d a | .vrcp _ _ _ d a | .vrsq _ _ _ d a | .vexp2 _ _ _ d a
  | .vlog2 _ _ _ d a | .vcvt _ _ _ _ _ d a _ | .vred _ _ _ _ d a => some ([.v a.val], [.v d.val])
  | .vshl _ _ d a sh | .vshr _ _ d a sh | .vsar _ _ d a sh =>
    some (.v a.val :: (match sh with | .reg b => [.v b.val] | .imm _ => []), [.v d.val])
  | .vcmp _ _ _ pd pe a b => some ([.v a.val, .v b.val], predDst pd ++ predDst pe)
  | .vsel _ _ d pn _ a b => some ([.v a.val, .v b.val, .p pn], [.v d.val])
  | .vbcst _ _ d a | .vidx _ _ d a _ | .vins _ _ d a _ | .vld _ _ d a _ => some ([.x a], [.v d.val])
  | .vextr _ _ d a _ => some ([.v a.val], [.x d])
  | .vldg _ _ d b a _ => some ([.x a, .v b.val], [.v d.val])
  | .vst _ _ a xa _ => some ([.x xa, .v a.val], [])
  | .vsts _ _ a b xa _ => some ([.x xa, .v a.val, .v b.val], [])
  | .vclass _ _ d pd pe a _ => some ([.v a.val], .v d.val :: (predDst pd ++ predDst pe))
  | .topen _ _ _ | .tclose _ _ | .tzero _ _ _ _ | .mres _ _ _ => some ([], [])
  | .tload _ _ d _ a b _ _ _ | .tstore _ _ d _ a b _ _ _ => some ([.x a, .x b], doneDst d)
  | .tread _ _ vi b c _ => some ([.x b, .x c], [.v vi.val])
  | .twrite _ _ vi b c _ => some ([.x b, .x c, .v vi.val], [])
  | .midx _ _ vi a b => some ([.x a, .x b, .v vi.val, .v (vi.val + 1)], [])
  | .mma _ d _ b c _ _ _ | .mcnt _ d _ _ b c _ _ => some ([.x b, .x c], doneDst d)
  | .tsave _ d _ a | .trest _ d _ a => some ([.x a], doneDst d)
  | .tqry _ a _ | .mdep _ a _ | .portq _ a => some ([], [.x a])
  | .mmrg _ d | .mdrn _ d _ _ _ _ | .mclr _ d _ => some ([], doneDst d)
  | .cpy _ o a b c | .cpy2 _ o a b c | .cpym _ o a b c _ | .cpyw _ o a b c | .fill _ o a b c | .cpyr _ _ o a b c =>
    some ([.x a, .x b, .x c], doneDst o.done)
  | _ => none

/-- Pairing class: 0 scalar, 1 vector or engine, none for unpaired (R50). -/
def pairClass : Instr → Option Nat
  | .add _ _ _ _ | .sub _ _ _ _ | .mul _ _ _ _ | .mulh _ _ _ _ _ | .div _ _ _ _ _ | .rem _ _ _ _ _ | .and _ _ _ _
  | .or _ _ _ _ | .xor _ _ _ _ | .andn _ _ _ _ | .orn _ _ _ _ | .shl _ _ _ _ | .shr _ _ _ _ | .sar _ _ _ _
  | .rol _ _ _ _ | .min _ _ _ _ _ | .max _ _ _ _ _ | .clz _ _ _ | .ctz _ _ _ | .popc _ _ _ | .bext _ _ _ _
  | .bins _ _ _ _ | .sext _ _ _ _ | .mov _ _ _ | .li _ _ _ | .sel _ _ _ _ _ _ | .cmp _ _ _ _ _ _ | .tstb _ _ _ _ _
  | .pand _ _ _ _ | .por _ _ _ _ | .pxor _ _ _ _ | .pandn _ _ _ _ | .pnot _ _ _ | .pmovPtox _ _ _ | .pmovXtop _ _ _
  | .pany _ _ _ _ _ _ | .pcnt _ _ _ _ | .ld _ _ _ _ _ | .st _ _ _ _ _ | .ldn _ _ _ _ _ | .lde _ _ _ _ | .ldeC _ _ _ _
  | .stf _ _ _ _ | .empt _ _ _ | .feq _ _ _ _ _ | .aadd _ _ _ _ _ _ _ | .aand _ _ _ _ _ _ _ | .aor _ _ _ _ _ _ _
  | .axor _ _ _ _ _ _ _ | .amin _ _ _ _ _ _ _ _ | .amax _ _ _ _ _ _ _ _ | .aswap _ _ _ _ _ _ _
  | .acas _ _ _ _ _ _ _ _ _ | .afadd _ _ _ _ _ _ => some 0
  | i => (regsOf i).map fun _ => 1

/-- The guard predicate of an instruction, always a read (R51). -/
def guardOf : Instr → Option Guard
  | .add g _ _ _ | .sub g _ _ _ | .mul g _ _ _ | .mulh g _ _ _ _ | .div g _ _ _ _ | .rem g _ _ _ _ | .and g _ _ _
  | .or g _ _ _ | .xor g _ _ _ | .andn g _ _ _ | .orn g _ _ _ | .shl g _ _ _ | .shr g _ _ _ | .sar g _ _ _
  | .rol g _ _ _ | .min g _ _ _ _ | .max g _ _ _ _ | .clz g _ _ | .ctz g _ _ | .popc g _ _ | .bext g _ _ _
  | .bins g _ _ _ | .sext g _ _ _ | .mov g _ _ | .li g _ _ | .sel g _ _ _ _ _ | .cmp g _ _ _ _ _ | .tstb g _ _ _ _
  | .pand g _ _ _ | .por g _ _ _ | .pxor g _ _ _ | .pandn g _ _ _ | .pnot g _ _ | .pmovPtox g _ _ | .pmovXtop g _ _
  | .pany g _ _ _ _ _ | .pcnt g _ _ _ | .ld g _ _ _ _ | .st g _ _ _ _ | .ldn g _ _ _ _ | .lde g _ _ _ | .ldeC g _ _ _
  | .stf g _ _ _ | .empt g _ _ | .feq g _ _ _ _ | .aadd g _ _ _ _ _ _ | .aand g _ _ _ _ _ _ | .aor g _ _ _ _ _ _
  | .axor g _ _ _ _ _ _ | .amin g _ _ _ _ _ _ _ | .amax g _ _ _ _ _ _ _ | .aswap g _ _ _ _ _ _
  | .acas g _ _ _ _ _ _ _ _ | .afadd g _ _ _ _ _ => some g
  | .vadd g _ _ _ _ _ | .vsub g _ _ _ _ _ | .vmul g _ _ _ _ _ | .vmin g _ _ _ _ | .vmax g _ _ _ _ | .vand g _ _ _ _
  | .vor g _ _ _ _ | .vxor g _ _ _ _ | .viadd g _ _ _ _ | .vimul g _ _ _ _ | .vshuf g _ _ _ _ _
  | .vfma g _ _ _ _ _ _ | .vfms g _ _ _ _ _ _ | .vperm g _ _ _ _ _ | .vabs g _ _ _ | .vneg g _ _ _ | .vmov g _ _ _
  | .vrcp g _ _ _ _ | .vrsq g _ _ _ _ | .vexp2 g _ _ _ _ | .vlog2 g _ _ _ _ | .vcvt g _ _ _ _ _ _ _ | .vred g _ _ _ _ _
  | .vshl g _ _ _ _ | .vshr g _ _ _ _ | .vsar g _ _ _ _ | .vcmp g _ _ _ _ _ _ | .vsel g _ _ _ _ _ _ | .vbcst g _ _ _
  | .vidx g _ _ _ _ | .vins g _ _ _ _ | .vld g _ _ _ _ | .vextr g _ _ _ _ | .vldg g _ _ _ _ _ | .vst g _ _ _ _
  | .vsts g _ _ _ _ _ | .vclass g _ _ _ _ _ _ => some g
  | .topen g _ _ | .tclose g _ | .tzero g _ _ _ | .mres g _ _ | .tload g _ _ _ _ _ _ _ _ | .tstore g _ _ _ _ _ _ _ _
  | .tread g _ _ _ _ _ | .twrite g _ _ _ _ _ | .midx g _ _ _ _ | .mma g _ _ _ _ _ _ _ | .mcnt g _ _ _ _ _ _ _
  | .tsave g _ _ _ | .trest g _ _ _ | .tqry g _ _ | .mdep g _ _ | .portq g _ | .mmrg g _ | .mdrn g _ _ _ _ _
  | .mclr g _ _ | .cpy g _ _ _ _ | .cpy2 g _ _ _ _ | .cpym g _ _ _ _ _ | .cpyw g _ _ _ _ | .fill g _ _ _ _
  | .cpyr g _ _ _ _ _ => some g
  | _ => none

/-- A pair is legal (R51). -/
def pairLegal (a b : Instr) : Bool :=
  match pairClass a, pairClass b, regsOf a, regsOf b with
  | some 0, some 1, some (ra, wa), some (rb, wb) =>
    let ra := (match guardOf a with | some g => [.p g.p] | none => []) ++ ra
    let rb := (match guardOf b with | some g => [.p g.p] | none => []) ++ rb
    !(rb.any wa.contains) && !(ra.any wb.contains) && !(wa.any wb.contains)
  | _, _, _, _ => false

/-- The x registers an instruction of a pair reads or writes (R478). -/
def xregsOf (i : Instr) : List XReg :=
  match regsOf i with
  | some (r, w) => (r ++ w).filterMap fun e => match e with | .x r => some r | _ => none
  | none => []

end Sys2Proof.Machine
end

