-- ==== Sys2Proof/Machine/Flags.lean ====
section
/-! DEFINITION. Flag computations: sr.vflags of a group (R79, R309), the sticky flags of a tile (R327), and the
record of refused puts in sr.putfail (R222). -/

namespace Sys2Proof.Machine

/-- Flags ORed into sr.vflags of the executing thread's group at commit (R309). -/
def State.orVflags (s : State) (f : Flags) : State :=
  match s.me.group with
  | some n => s.modGroup n fun g => { g with vflags := g.vflags ||| f.zeroExtend 64 }
  | none => s

/-- The union of flags raised by lanes. -/
def orFlags (l : List Flags) : Flags := l.foldl (· ||| ·) 0

/-- NV and OF of a pass or drain set on its tile (R327, R333, R356). -/
def Tile.orFlags (t : Tile) (f : Flags) : Tile :=
  { t with nv := t.nv || f.getLsbD 0, of_ := t.of_ || f.getLsbD 2 }

/-- sr.putfail after a refusal (R222): TE kept, CNT saturating at 255, status, index and name of the latest. -/
def putfailNext (old : Word) (st : Status) (idx name : Nat) : Word :=
  let cnt := fld old.toNat 48 8
  word (fld old.toNat 63 1 * 2 ^ 63 + (if cnt < 255 then cnt + 1 else 255) * 2 ^ 48 + stCode st * 2 ^ 40
    + idx % 64 * 2 ^ 32 + name % 2 ^ 32)

end Sys2Proof.Machine
end

