-- ==== Sys2Proof/Machine/MemOps.lean ====
section
/-! DEFINITION. Accesses performed: atomics (R279), full bits and their queues (R100, R101), stores on their way
(R110, R113, R115, R118), loads at home and their results (R117, R275 to R281), release and acquire (R121,
R122). Shared by the memory, atomic and vector instructions and by the memory events. -/

namespace Sys2Proof.Machine

/-! ### Atomics -/

/-- The release that ORD places before an atomic or in a FENCE (R124, R137). -/
def Order.rel (o : Order) : Bool := decide (o.ord = .rel) || decide (o.ord = .ar)

/-- The acquire that ORD places after (R124, R137). -/
def Order.acq (o : Order) : Option Scope := if o.ord = .acq ∨ o.ord = .ar then some o.scp else none

/-- The new value of an atomic on `n` bytes, and whether it is written (R279). `c` is ACAS's compare value. -/
def atomNew (op : AtomOp) (n old b c : Nat) : Nat × Bool :=
  let m := 2 ^ (8 * n)
  let b := b % m
  let sg := fun v => intVal (8 * n) true v
  match op with
  | .add => ((old + b) % m, true)
  | .and => (old &&& b, true)
  | .or => (old ||| b, true)
  | .xor => (old ^^^ b, true)
  | .min => (if sg b < sg old then b else old, true)
  | .max => (if sg old < sg b then b else old, true)
  | .minu => (if b < old then b else old, true)
  | .maxu => (if old < b then b else old, true)
  | .swap => (b, true)
  | .cas => if old = c % m then (b, true) else (old, false)
  | .fadd => (addF32 old b, true)

/-- An atomic performed at `pa`: the old value, or none on a marked word, which is not written (R279, R477). -/
def State.doAtom (s : State) (op : AtomOp) (pa n b c : Nat) : Option Nat × State :=
  if s.eccHit pa n then (none, s)
  else
    let old := s.readN pa n
    let (new, wr) := atomNew op n old b c
    (some old, if wr then s.store pa (bytesOf n new) else s)

/-! ### Full bits -/

/-- The register value of a load (R275). -/
def loadVal (w : LdW) (d : List Byte) : Word :=
  let v := valOf d
  match w with
  | .s1 => BitVec.ofInt 64 (intVal 8 true v)
  | .s2 => BitVec.ofInt 64 (intVal 16 true v)
  | .s4 => BitVec.ofInt 64 (intVal 32 true v)
  | _ => word v

/-- Bytes of a load width. -/
def ldBytes : LdW → Nat
  | .b1 | .s1 => 1 | .b2 | .s2 => 2 | .b4 | .s4 => 4 | .b8 => 8

/-- Bytes of a store width. -/
def stBytes : StW → Nat
  | .b1 => 1 | .b2 => 2 | .b4 => 4 | .b8 => 8

/-- A served LDE completes: its thread gets the value and goes on, or the partner chip its answer (R101). On a marked word
the thread takes a precise ECC trap, and the partner chip learns of the error (R114, R273, R477). -/
def State.ldeDone (s : State) (w : LdeWait) : State :=
  let d := s.bytes w.pa 8
  let bad := s.eccHit w.pa 8
  match w.who with
  | .far p => s.post (if bad then Packet.answer p .rsp .fault 0 [] else Packet.answer p .rsp .ok 0 d)
  | .thread t =>
    match (s.thread t).wait with
    | .block (.lde _ xd _ va) =>
      (if bad then (s.at_ t).trap .ecc va else ((s.at_ t).modMe fun x => x.setX xd (word (valOf d))).commit).at_ s.cur
    | _ => s

/-- The queue of a granule served from the front while its bit stays set (R101). -/
def serveLde (g : Nat) : List LdeWait → State → State
  | [], s => s
  | w :: rest, s =>
    if w.pa / 16 = g ∧ s.isFull w.pa then
      let s := { s with ldeq := s.ldeq.erase w }
      let bad := s.eccHit w.pa 8
      let s := s.ldeDone w
      serveLde g rest (if w.clear && !bad then s.setFull w.pa false else s)
    else serveLde g rest s

/-- The full bit of the granule is set; a bit that was clear serves its queue (R101). -/
def State.fill (s : State) (pa : Nat) : State :=
  if s.isFull pa then s else serveLde (pa / 16) s.ldeq (s.setFull pa true)

/-! ### Stores -/

/-- Stores of the thread at `t` not yet acknowledged (R113). -/
def State.unacked (s : State) (t : Tid) : Nat :=
  ((s.stores.filter fun x => decide (x.tid = t) && decide (x.gen = (s.slot t).gen)).map (·.inst)).eraseDups.length

/-- A store to own-core scratchpad, or any home on this chip, performed at `pa` (R115, R275, R277, R279).
A marked word that an atomic reads ends it with FAULT (R477). The last 256 bytes of a scratchpad in device physical space
ignore the bytes of an STF; that its full bit, and an EMPT's, change there all the same is the model's choice (R103; log 84). -/
def State.perform (s : State) (x : Store) (pa : Nat) : Phase × State :=
  match x.kind with
  | .plain => (.done, s.storeFor x.ctx pa x.data)
  | .stf => (.done, (s.storeFor x.ctx pa x.data).fill pa)
  | .empt => (.done, s.setFull pa false)
  | .atom op b _ =>
    match s.doAtom op pa x.n b.toNat 0 with
    | (some _, s) => (.done, s.claim x.ctx pa x.n)
    | (none, s) => (.refused .fault, s)

/-- The packet of a store to another chip (R425). -/
def State.storePacket (s : State) (x : Store) : Packet :=
  let tag := (s.ctx x.ctx).tag
  let h := handleOf s.chip x.tid.core x.tid.slot x.gen
  match x.kind with
  | .plain => s.packet .wr x.tgt.chip tag h x.tgt.bwc .plain x.tgt.pa x.n 0 x.data
  | .stf => s.packet .fe x.tgt.chip tag h x.tgt.bwc .stf x.tgt.pa x.n 0 x.data
  | .empt => s.packet .fe x.tgt.chip tag h x.tgt.bwc .empt x.tgt.pa 1 0 []
  | .atom op b o => s.packet .at_ x.tgt.chip tag h x.tgt.bwc (.atom op x.n false o.ord) x.tgt.pa x.n 0 (bytesOf 8 b.toNat)

/-- Store `id` with its phase replaced. -/
def State.setPhase (s : State) (id : Nat) (p : Phase) : State :=
  { s with stores := s.stores.map fun x => if x.id = id then { x with phase := p } else x }

/-! ### Order of a thread's own accesses (R118) -/

/-- A load that the cluster cache may serve: no atomic, and no operation on full bits. -/
def Dest.plain : Dest → Bool
  | .atom _ _ _ _ _ _ _ _ | .feq _ _ | .lde _ _ => false
  | _ => true

/-- The store names bytes of [pa, pa + n), or, where full bits matter, a granule of them. -/
def Store.touches (x : Store) (chip pa n : Nat) (gran : Bool) : Bool :=
  let u := if gran then 16 else 1
  decide (x.tgt.chip = chip) && decide (x.tgt.pa / u ≤ (pa + n - 1) / u) && decide (pa / u ≤ (x.tgt.pa + x.n - 1) / u)

/-- Full-bit operations are ordered by granule. -/
def StoreKind.byGranule : StoreKind → Bool
  | .stf | .empt => true
  | _ => false

/-- An earlier store of the same thread to the same bytes has not been performed: the later one waits behind it (R118). -/
def State.storeBehind (s : State) (x : Store) : Bool :=
  s.stores.any fun y => decide (y.id < x.id) && decide (y.tid = x.tid) && decide (y.gen = x.gen) && y.phase.pending
    && y.touches x.tgt.chip x.tgt.pa x.n (x.kind.byGranule || y.kind.byGranule)

/-- An address lies in the old or the new frame of a move. -/
def Moving.holds (m : Moving) (pa : Nat) : Bool :=
  (decide (m.old ≤ pa) && decide (pa < m.old + m.size)) || (decide (m.new ≤ pa) && decide (pa < m.new + m.size))

/-- The address at which moves that have ended leave an access that names `pa` (R414). `fuel` bounds the moves. -/
def State.endedPa (s : State) : Nat → Nat → Nat
  | 0, pa => pa
  | fuel + 1, pa => match s.moving.find? fun m => m.ended && decide (m.old ≤ pa) && decide (pa < m.old + m.size) with
    | some m => s.endedPa fuel (m.new + (pa - m.old))
    | none => pa

/-- Two addresses of a context lie in one frame: those of one page that moves on this chip, whatever of it has been copied, or those of
the leaf that translated the first one on another (R413). -/
def State.sameFrame (s : State) (ctx : Nat) (va : Word) (t u : Target) : Bool :=
  let at_ := s.endedPa s.moving.length
  decide (t.chip = u.chip) &&
  (if t.chip = s.chip then s.moving.any fun m => m.holds (at_ t.pa) && m.holds (at_ u.pa)
  else match s.walk ctx va.toNat with
    | .leaf pte size => decide (pteFrame pte.toNat ≤ u.pa) && decide (u.pa < pteFrame pte.toNat + size)
    | .fail _ _ => decide (t.pa / 4096 = u.pa / 4096))

/-- An access of the thread at `t` that a full hold queue refused, store or LDN, holds the thread's later accesses to the same
frame; `ord` is the number of the access that asks (R413). -/
def State.heldBack (s : State) (t : Tid) (ord : Nat) (u : Target) : Bool :=
  (s.stores.any fun x => decide (x.tid = t) && decide (x.gen = (s.slot t).gen) && decide (x.id < ord)
    && (match x.phase with | .retry _ => true | _ => false) && s.sameFrame x.ctx x.va x.tgt u)
  || ((s.slot t).st.live && (s.thread t).owed.any fun o => decide (o.ord < ord)
    && (s.fullq.any fun e => e.1 = .ldn (s.handle t) o.x) && s.sameFrame (s.thread t).ctx o.va o.tgt u)

/-- An access of the thread at `t` with number `ord` must wait for earlier stores of the thread to its bytes: a plain load for
those that are past their write-combining buffer, from which it takes the others, anything else for all of them (R117, R118,
R280). -/
def State.behindStores (s : State) (t : Tid) (ord : Nat) (p : Part) (d : Dest) : Bool :=
  let plain := d.plain
  let gran := match d with | .feq _ _ | .lde _ _ => true | _ => false
  s.heldBack t ord p.tgt
  || s.stores.any fun x => decide (x.tid = t) && decide (x.gen = (s.slot t).gen) && decide (x.id < ord) && x.phase.pending
      && !(plain && decide (x.phase = .buffered)) && x.touches p.tgt.chip p.tgt.pa p.n (gran || x.kind.byGranule)

/-- A store leaves its core for its home. One to another chip goes out as a packet when no earlier store of its thread to
its bytes can still be overtaken by it (R118, R423). -/
def State.goHome (s : State) (x : Store) : State :=
  if x.tgt.chip = s.chip then s.setPhase x.id .sent
  else if s.storeBehind x || s.heldBack x.tid x.id x.tgt then s.setPhase x.id .waiting
  else ((s.setPhase x.id .sent).passReads (clusterOf x.tid.core)).sendTx x.ctx (.store x.id) (s.storePacket x)

/-- One buffered store leaves its write-combining buffer: the cluster's copy of the line is updated (R110). -/
def State.send (s : State) (x : Store) : State :=
  (s.updateLine (clusterOf x.tid.core) x.tgt.chip x.tgt.pa x.data).goHome x

/-- The buffered stores that `p` accepts drain, oldest first (R110). -/
def State.drain (s : State) (p : Store → Bool) : State :=
  (s.stores.filter fun x => decide (x.phase = .buffered) && p x).foldl State.send s

/-- The two stores share a write-combining buffer (R110). -/
def Store.shares (x y : Store) : Bool :=
  decide (x.tid.core = y.tid.core) && decide (x.tgt.chip = y.tgt.chip) && decide (x.tgt.pa / 64 = y.tgt.pa / 64)

/-- Every write-combining buffer that holds a store `p` accepts drains whole, with what other threads of the core wrote
there (R110, R121). -/
def State.drainBuffers (s : State) (p : Store → Bool) : State :=
  let held := s.stores.filter fun x => decide (x.phase = .buffered) && p x
  s.drain fun x => held.any fun y => y.shares x

/-- Lines in the write-combining buffers of a core (R110). -/
def State.wcLines (s : State) (core : Nat) : List (Nat × Nat) :=
  ((s.stores.filter fun x => decide (x.tid.core = core) && decide (x.phase = .buffered)).map fun x =>
    (x.tgt.chip, x.tgt.pa / 64)).eraseDups

/-- Every byte of a buffered line is covered by its stores (R110). -/
def State.lineWhole (s : State) (core chip line : Nat) : Bool :=
  (List.range 64).all fun i => s.stores.any fun x =>
    decide (x.tid.core = core) && decide (x.phase = .buffered) && decide (x.tgt.chip = chip)
    && decide (x.tgt.pa ≤ line * 64 + i) && decide (line * 64 + i < x.tgt.pa + x.data.length)

/-- The new store of the executing thread, a piece of instruction `inst`. -/
def State.newStore (s : State) (inst : Nat) (ea va : Word) (t : Target) (k : StoreKind) (d : List Byte) (n : Nat) (p : Phase) : Store :=
  { id := s.nextStore, inst := inst, tid := s.cur, gen := (s.slot s.cur).gen, ctx := s.me.ctx, launch := s.me.launch,
    va := va, ea := ea, tgt := t, kind := k, data := d, n := n, phase := p, cyc := s.myCore.cyc, priv := s.me.priv,
    told := false }

/-- The store stands in the list of those not acknowledged. -/
def State.addStore (s : State) (x : Store) : State := { s with stores := s.stores ++ [x], nextStore := s.nextStore + 1 }

/-- The home is the executing core's own scratchpad: the access is performed at issue (R113). -/
def State.atOwnCore (s : State) (t : Target) : Bool :=
  decide (t.chip = s.chip) && (match place t.pa with | .spad c _ => decide (c = s.cur.core) | _ => false)

/-- The write-combining buffer of the executing core that holds a store of the executing thread to a line drains
(R118, R280). -/
def State.drainLine (s : State) (chip line : Nat) : State :=
  let me := s.cur
  s.drainBuffers fun x => decide (x.tid = me) && decide (x.tgt.chip = chip) && decide (x.tgt.pa / 64 = line)

/-- A store to HBM4E needs a write-combining buffer and none is free (R113). -/
def State.noBuffer (s : State) (t : Target) (k : StoreKind) : Bool :=
  let ls := s.wcLines s.cur.core
  !s.atOwnCore t && decide (k = .plain) && decide (place t.pa = .hbm)
    && !ls.contains (t.chip, t.pa / 64) && decide (16 ≤ ls.length)

/-- A store, STF, EMPT or atomic without result, or a piece of a vector store, goes its way: performed on the issuing
core, into a write-combining buffer, or on its way to its home (R110, R113, R275, R277, R280). -/
def State.putStore (s : State) (inst : Nat) (ea va : Word) (t : Target) (kind : StoreKind) (d : List Byte) (n : Nat) : State :=
  if s.atOwnCore t then
    let x := s.newStore inst ea va t kind d n .done
    let (p, s) := s.perform x t.pa
    s.addStore { x with phase := p }
  else if kind = .plain ∧ place t.pa = .hbm ∧ s.noBuffer t kind = false then
    let core := s.cur.core
    let s := s.addStore (s.newStore inst ea va t kind d n .buffered)
    if s.lineWhole core t.chip (t.pa / 64) then
      s.drain fun x => decide (x.tid.core = core) && decide (x.tgt.chip = t.chip) && decide (x.tgt.pa / 64 = t.pa / 64)
    else s
  else
    let s := s.drainLine t.chip (t.pa / 64)
    let s := match kind with | .atom _ _ _ => s.dropLine (clusterOf s.cur.core) t.chip (t.pa / 64 * 64) | _ => s
    let x := s.newStore inst ea va t kind d n .sent
    let s := s.addStore x
    (if kind = .plain then s.updateLine (clusterOf s.cur.core) t.chip t.pa d else s).goHome x

/-- A store of the executing thread, and `k` after it. It waits first while the thread holds 32 unacknowledged stores,
or while all 16 write-combining buffers hold other lines (R113). -/
def State.issueStore (s : State) (va : Word) (t : Target) (kind : StoreKind) (d : List Byte) (n : Nat)
    (k : State → State) : State :=
  if 32 ≤ s.unacked s.cur ∨ s.noBuffer t kind then s.stallOn (.stores t (decide (kind = .plain)))
  else k (s.putStore s.nextStore va va t kind d n)

/-- A piece of a vector store can go its way: there is a place in the thread's store count, which the pieces of one VST
share, and a write-combining buffer (R113, R320, R321). -/
def State.pieceFits (s : State) (inst : Option Nat) (p : Piece) : Bool :=
  !s.noBuffer p.tgt .plain
  && (decide (s.unacked s.cur < 32)
      || match inst with
         | some i => s.stores.any fun x => decide (x.tid = s.cur) && decide (x.gen = (s.slot s.cur).gen) && decide (x.inst = i)
         | none => false)

/-- The pieces of a vector store of the executing thread go their way in their order, and the instruction commits; at the
first that finds no room the thread leaves the rotation with the rest (R113). -/
def State.putPiecesOf (s : State) (inst : Option Nat) (ea : Word) : List Piece → State
  | [] => s.commit
  | p :: rest =>
    if s.pieceFits inst p then
      (s.putStore (inst.getD s.nextStore) (if inst.isSome then ea else p.va) p.va p.tgt .plain p.data p.data.length).putPiecesOf inst ea rest
    else s.stallOp (.put inst ea (p :: rest))

/-! ### Release and acquire -/

/-- Everything the thread issued has returned or been acknowledged (R121). -/
def State.quiet (s : State) (t : Tid) : Bool :=
  decide (s.unacked t = 0) && (s.thread t).owed.isEmpty
  && !(s.items.any fun i => decide (i.tid = some t) && decide (i.gen = (s.slot t).gen)
        && (match i.kind with | .vput _ _ _ => true | _ => false))

/-- A release of the executing thread: its buffers drain, and it waits until it is quiet (R121). -/
def State.release (s : State) (k : State → State) : State :=
  if s.quiet s.cur then k s
  else
    let me := s.cur
    (s.drainBuffers fun x => decide (x.tid = me)).stallOn .released

/-- An acquire waits for earlier loads, LDN included, before it completes (R122). -/
def State.acquireWait (s : State) (k : State → State) : State :=
  if s.me.owed.isEmpty then k s else s.stallOn .loads

/-- The invalidation of an acquire at a scope, in the cluster of a core (R122). -/
def State.acquireAt (s : State) (core : Nat) (sc : Scope) : State :=
  match sc with
  | .dev | .pod => s.dropLines (clusterOf core)
  | _ => s

/-! ### Loads at home -/

/-- What reading one part gives. -/
inductive PartRes where
  | data (d : List Byte) (s : State)
  | err (st : Status)
  | later (s : State)
deriving DecidableEq, Repr

/-- The line of an HBM4E address as the cluster cache of a core holds it (R110, R117). -/
def State.lineAt (s : State) (core : Nat) (t : Target) : Option (List Byte) :=
  if place t.pa = .hbm then s.cached (clusterOf core) t.chip (t.pa / 64 * 64) else none

/-- The bytes of a load of the thread `th`, now at `t`, that was issued at `core`: its own buffered stores, the shape record, the cluster
cache, or home, whose line fills the cache unless a word of it is marked (R103, R117, R477). Its class is charged for `cost` bytes,
unless that has been done. A part on another chip that is not cached waits for its packet. -/
def State.readPart (s : State) (t : Tid) (core : Nat) (th : Thread) (key : AccKey) (p : Part) (cost : Nat) : PartRes :=
  let off := p.va.toNat
  if p.tgt.loc && decide (shapeBase < off + p.n) then .data (s.shapeBytes core th.launch off p.n) s
  else
    let k := clusterOf core
    let line := p.tgt.pa / 64 * 64
    let hbm := decide (place p.tgt.pa = .hbm)
    match s.lineAt core p.tgt with
    | some l => .data (s.forward t p.tgt.chip p.tgt.pa ((l.drop (p.tgt.pa - line)).take p.n)) s
    | none =>
      if p.tgt.chip ≠ s.chip then .later s
      else match s.gateFor core key th.ctx { p.tgt with bwc := if p.paid then none else p.tgt.bwc } p.n cost false with
        | .later s => .later s
        | .full => .later s
        | .refused st => .err st
        | .go pa s =>
          if s.eccHit pa p.n then .err .fault
          else
            let s := if hbm && !s.eccHit (pa / 64 * 64) 64 then s.fillLine k p.tgt.chip line (s.bytes (pa / 64 * 64) 64) else s
            .data (s.forward t p.tgt.chip p.tgt.pa (s.bytes pa p.n)) s

/-- The cause of an error that comes back with a reply (R114, R273). -/
def replyCause (st : Status) : Cause := if st = .fault then .ecc else .remote

/-- The bytes of a part. -/
def Part.bytes (p : Part) : List Byte := match p.got with | some (_, d) => d | none => []

/-- The lane a vector load writes: from its own part when gathered, else from the part that holds its 8-byte word
(R320, R321). -/
def vecLane (w : Nat) (on : List Nat) (g : Bool) (parts : List Part) (i : Nat) : Option Nat :=
  if !on.contains i then none
  else if g then (parts[on.findIdx fun j => j = i]?).map fun p => valOf (Part.bytes p)
  else
    let o := i * w / 8
    (parts.find? fun p => p.va.toNat % 128 = o / 8 * 8).map fun p => getLe (Part.bytes p) (o % 8) (w / 8)

/-- The executing thread's waited-for access has all its bytes: the result is written and the instruction commits
(R275, R277, R279, R320). -/
def State.finish (s : State) (parts : List Part) (d : Dest) : State :=
  let bytes := match parts with | p :: _ => Part.bytes p | [] => []
  match d with
  | .load w xd => (s.modMe fun t => t.setX xd (loadVal w bytes)).commit
  | .atom op n _ c xd pd pe o =>
    let old := valOf bytes
    let s := s.modMe fun t => t.setX xd (word old)
    let s := match pd, pe with
      | some pd, some pe => s.modMe fun t => t.setPP pd pe (decide (op = AtomOp.cas) && decide (old = c.toNat % 2 ^ (8 * n)))
      | _, _ => s
    let s := match Order.acq o with | some sc => s.acquireAt s.cur.core sc | none => s
    s.commit
  | .feq pd pe => (s.modMe fun t => t.setPP pd pe (decide (valOf bytes % 2 = 1))).commit
  | .lde xd _ => (s.modMe fun t => t.setX xd (word (valOf bytes))).commit
  | .vec vd ty on g =>
    let w := 1024 / ty.lanes
    (s.writeElems vd w ((List.range ty.lanes).map (vecLane w on g parts))).commit
  | .acq sc => (s.acquireAt s.cur.core sc).commit
  | .record =>
    (s.modMe fun t => { t with fetched := parts.head?.map fun p => (p.va, parts.flatMap Part.bytes), reissue := true }).ready

/-- The scope of the acquire that ends an access, if it has one (R124). -/
def Dest.acquires : Dest → Option Scope
  | .atom _ _ _ _ _ _ _ o => Order.acq o
  | .acq sc => some sc
  | _ => none

/-- The first part, in the order of the lanes, whose reply brought an error. -/
def firstErr (parts : List Part) : Option (Part × Status) :=
  parts.findSome? fun p => match p.got with
    | some (.ok, _) => none
    | some (st, _) => some (p, st)
    | none => none

/-- sr.taddr of such an error: the address of a scalar access or of a lane of a gather, the whole footprint's for VLD, the record's for an
instruction that reads one (R273, R320, R321). -/
def errAddr (d : Dest) (parts : List Part) (p : Part) : Word :=
  match d with
  | .record => match parts with | q :: _ => q.va | [] => p.va
  | .vec _ _ _ false => word (p.va.toNat / 128 * 128)
  | _ => p.va

/-- Packets of the thread's access, or of one part of it, whose answers nothing waits for any more: the value came from a line that had
filled the cluster cache meanwhile (R117, R118). -/
def State.dropLoads (s : State) (t : Tid) (i : Option Nat) : State :=
  { s with txs := s.txs.filter fun x => match x.what with
      | .load u j => !(decide (u = t) && (i.isNone || decide (i = some j)))
      | _ => true }

/-- The executing thread's access completes when all its replies are there and, where it ends in an acquire, when
every LDN of the thread has been answered (R122); until then it waits in STALL. A reply with an error traps
precisely (R273). -/
def State.tryFinish (s : State) (parts : List Part) (d : Dest) : State :=
  if (parts.all fun p => p.got.isSome) && (d.acquires.isNone || s.me.owed.isEmpty) then
    match firstErr parts with
    | some (p, st) => s.trap (replyCause st) (errAddr d parts p)
    | none => s.finish parts d
  else s.stallOp (.mem parts d)

/-- The packet that reads or performs part of an access on another chip (R425). A load of HBM4E asks for its line, so that a marked word
anywhere in the line makes the load trap ECC: the model's choice (R477; log 100). -/
def State.partPacket (s : State) (p : Part) (d : Dest) : Packet :=
  let tag := s.myTag
  let h := s.handle s.cur
  match d with
  | .atom op n b c _ _ _ o =>
    s.packet .at_ p.tgt.chip tag h p.tgt.bwc (.atom op n true o.ord) p.tgt.pa n 1 (bytesOf 8 b.toNat ++ bytesOf 8 c.toNat)
  | .feq _ _ => s.packet .fe p.tgt.chip tag h p.tgt.bwc .feq p.tgt.pa 1 0 []
  | .lde _ c => s.packet .fe p.tgt.chip tag h p.tgt.bwc (.lde c) p.tgt.pa 8 0 []
  | _ =>
    if place p.tgt.pa = .hbm then s.packet .rd p.tgt.chip tag h p.tgt.bwc .plain (p.tgt.pa / 64 * 64) 64 0 []
    else s.packet .rd p.tgt.chip tag h p.tgt.bwc .plain p.tgt.pa p.n 0 []

/-- The packet for part `i` of the access of the thread at `t` goes out to another chip, once, and behind the thread's
earlier stores to its bytes; a load of a line that the cluster cache holds needs none (R117, R118, R425). -/
def State.sendPart (s : State) (t : Tid) (d : Dest) (i : Nat) (p : Part) : State :=
  if decide (p.tgt.chip = s.chip) || p.got.isSome || (s.txs.any fun x => x.what = .load t i)
      || (d.plain && (s.lineAt t.core p.tgt).isSome) || s.behindStores t s.nextStore p d then s
  else s.sendTx (s.thread t).ctx (.load t i) ((s.at_ t).partPacket p d)

/-- The part that an LDE reads. -/
def ldePart (ea : Word) (t : Target) : Part := { va := ea, tgt := t, n := 8, got := none }

/-- The packet for the LDE at which the thread at `t` waits goes out to another chip, once, and behind the thread's earlier stores to
the granule (R118, R277, R425). -/
def State.sendLde (s : State) (t : Tid) (ea : Word) (tgt : Target) (xd : XReg) (clear : Bool) : State :=
  let p := ldePart ea tgt
  if decide (tgt.chip = s.chip) || (s.txs.any fun x => x.what = .lde (s.handle t)) || s.behindStores t s.nextStore p (.lde xd clear) then s
  else s.sendTx (s.thread t).ctx (.lde (s.handle t)) ((s.at_ t).partPacket p (.lde xd clear))

/-- The packets for the parts of an access that lie on other chips. -/
def State.sendParts (s : State) (t : Tid) (parts : List Part) (d : Dest) : State :=
  (List.range parts.length).foldl (fun s i => match parts[i]? with | some p => s.sendPart t d i p | none => s) s

/-- The executing thread waits in STALL for the parts of an access; those on other chips go out as packets. -/
def State.waitParts (s : State) (parts : List Part) (d : Dest) : State :=
  (s.stallOp (.mem parts d)).sendParts s.cur parts d

/-- The part that an LDN reads. -/
def Owed.part (o : Owed) : Part := { va := o.va, tgt := o.tgt, n := ldBytes o.w, got := none }

/-- The packet for an LDN of the thread of handle `h`, whose slot is or was `t`, goes out to another chip, once, unless the cluster cache
of the core that issued it holds the line (R117, R118, R276, R425). -/
def State.sendLdn (s : State) (t : Tid) (h : Nat) (o : Owed) : State :=
  if decide (o.tgt.chip = s.chip) || o.got.isSome || (s.txs.any fun x => x.what = .ldn h o.x)
      || (s.lineAt o.core o.tgt).isSome || s.behindStores t o.ord o.part (.load o.w o.x) then s
  else s.sendTxFor o.core ((s.byHandle h).map (·.ctx) |>.getD 0) (.ldn h o.x) ((s.at_ t).partPacket o.part (.load o.w o.x))

/-- What performing an access part at its home on this chip gives (loads, atomics, FEQ, LDE); `cost` bytes of a load are charged to
its class. -/
def State.performPart (s : State) (t : Tid) (p : Part) (d : Dest) (cost : Nat) : PartRes :=
  match d with
  | .atom op n b c _ _ _ _ =>
    if p.tgt.chip ≠ s.chip then .later s
    else match s.gate t.core (.load t) (s.thread t).ctx p.tgt n true with
      | .later s => .later s
      | .full => .later s
      | .refused st => .err st
      | .go pa s =>
        match s.doAtom op pa n b.toNat c.toNat with
        | (some old, s) => .data (bytesOf n old) (s.claim (s.thread t).ctx pa n)
        | (none, _) => .err .fault
  | .feq _ _ =>
    if p.tgt.chip ≠ s.chip then .later s
    else match s.gate t.core (.load t) (s.thread t).ctx p.tgt 1 false with
      | .later s => .later s
      | .full => .later s
      | .refused st => .err st
      | .go pa s => .data [BitVec.ofNat 8 (b2n (s.isFull pa))] s
  | .lde _ clear =>
    if p.tgt.chip ≠ s.chip then .later s
    else match s.gate t.core (.load t) (s.thread t).ctx p.tgt 8 false with
      | .later s => .later s
      | .full => .later s
      | .refused st => .err st
      | .go pa s =>
        if s.isFull pa then
          if s.eccHit pa 8 then .err .fault
          else .data (s.bytes pa 8) (if clear then s.setFull pa false else s)
        else .later s
  | _ => s.readPart t t.core (s.thread t) (.load t) p cost

/-- The 8-byte words of [ea, ea + n), each a part of its own (R116). -/
def wordParts (ea : Word) (t : Target) (n : Nat) : List Part :=
  (cutBy 8 t.pa n).map fun b => { va := ea + word (b.1 - t.pa), tgt := { t with pa := b.1 }, n := b.2, got := none }

/-- An instruction that reads a record of `n` bytes as a load does: at once from its own scratchpad; otherwise the
bytes are fetched, word by word, and the instruction issues again with them (R116, R181, R205, R246; log 14). -/
def State.readRecord (s : State) (ea : Word) (t : Target) (n : Nat) (k : List Byte → State → State) : State :=
  match s.me.fetched with
  | some (a, d) => if a = ea then k d s else (s.modMe fun x => { x with fetched := none }).waitParts (wordParts ea t n) .record
  | none =>
    if s.atOwnCore t then
      if t.loc && decide (shapeBase < ea.toNat + n) then k (s.shapeBytes s.cur.core s.me.launch ea.toNat n) s
      else if s.eccHit t.pa n then s.trap .ecc ea
      else k (s.bytes t.pa n) s
    else s.waitParts (wordParts ea t n) .record

end Sys2Proof.Machine
end

