-- ==== Sys2Proof/Machine/Room.lean ====
section
/-! DEFINITION. What a core can hold: column blocks (R104, R323, R324), vector windows (R211), the spill map and
save areas (R142, R224, R259), and the candidates of an eviction (R223, R256, R260). -/

namespace Sys2Proof.Machine

/-! ### Column blocks -/

/-- A group, and not the table of a handler's tiles. -/
def realGroup (name : Nat) : Bool := decide (name < 2 ^ 32)

/-- The group holds its column blocks on its core: it is RUNNING, SPILLED or EXITING (R210). -/
def Group.onCore (g : Group) : Bool := decide (g.st = .running) || decide (g.st = .spilled) || decide (g.st = .exiting)

/-- The group holds its window and slots (R210). -/
def Group.resident (g : Group) : Bool := decide (g.st = .running) || decide (g.st = .exiting)

/-- Blocks of the tiles of a group. -/
def Group.tileBlocks (g : Group) : List Nat := g.tiles.vals.flatMap fun x => x.blocks ++ x.next.flatten

/-- Blocks a group holds: those of its launch record, and those its tiles took beyond them (R324). -/
def Group.blocks (g : Group) : List Nat := g.pool ++ g.tileBlocks.filter fun b => !g.pool.contains b

/-- Groups, handlers' tables included, that hold something on a core. -/
def State.groupsOn (s : State) (core : Nat) : List (Nat × Group) := s.groups.filter fun e => decide (e.2.core = core) && e.2.onCore

/-- Blocks held by groups and handlers on a core. -/
def State.heldBlocks (s : State) (core : Nat) : List Nat := (s.groupsOn core).flatMap fun e => e.2.blocks

/-- Blocks that neither a tile, a group nor the spill map holds, rising. -/
def State.freeBlocks (s : State) (core : Nat) : List Nat :=
  let held := s.heldBlocks core ++ (s.core core).spillBlk.keys
  (List.range 32).filter fun b => !held.contains b

/-- Blocks that count against the context's quota on a core (R142, R324). -/
def State.blocksOf (s : State) (c core : Nat) : Nat :=
  ((s.groupsOn core).flatMap fun e => if e.2.ctx = c then e.2.blocks else []).length

/-! ### Vector windows -/

/-- Registers of a window, rounded up to 8 (R211). -/
def windowLen (vregs : Nat) : Nat := ceilDiv vregs 8 * 8

/-- Windows in a bank of a core: base, length, context. -/
def State.windowsIn (s : State) (core bank : Nat) : List (Nat × Nat × Nat) :=
  s.groups.filterMap fun e =>
    if e.2.core = core ∧ e.2.resident ∧ 0 < e.2.vregs ∧ e.2.bank = bank then some (e.2.base, windowLen e.2.vregs, e.2.ctx)
    else none

/-- The context whose image, by its key in the spill map, this is. -/
def State.imageCtx (s : State) (key : Nat) : Option Nat :=
  match s.images.get? key with
  | some i => some i.th.ctx
  | none => (s.groups.get? key).map (·.ctx)

/-- A bank that holds neither a window nor a spilled image. -/
def State.bankEmpty (s : State) (core bank : Nat) : Bool :=
  (s.windowsIn core bank).isEmpty && ((s.core core).spillBank.get? bank).isNone

/-- Banks of a core that count against the context's quota (R211). -/
def State.banksOf (s : State) (c core : Nat) : Nat :=
  ((List.range 16).filter fun b =>
    (s.windowsIn core b).any (fun w => w.2.2 = c)
    || (match (s.core core).spillBank.get? b with | some k => decide (s.imageCtx k = some c) | none => false)).length

/-- The first start, a multiple of 8, of a free run of `n` registers among windows (R211). -/
def gapIn (ws : List (Nat × Nat × Nat)) (n : Nat) : Option Nat :=
  ((List.range 16).map (· * 8)).find? fun b =>
    decide (b + n ≤ 128) && ws.all fun w => decide (b + n ≤ w.1) || decide (w.1 + w.2.1 ≤ b)

/-- Bank and base for a window of the context on a core: the lowest bank with room, the context's banks first
(R211). -/
def State.findWindow (s : State) (c core vregs : Nat) : Option (Nat × Nat) :=
  if vregs = 0 then some (0, 0)
  else
    let n := windowLen vregs
    let mine := (List.range 16).filterMap fun b =>
      let ws := s.windowsIn core b
      if ws.any (fun w => w.2.2 = c) then (gapIn ws n).map fun g => (b, g) else none
    match mine with
    | m :: _ => some m
    | [] =>
      if s.banksOf c core < (s.ctx c).quota.banks then
        ((List.range 16).find? fun b => s.bankEmpty core b).map fun b => (b, 0)
      else none

/-- A window or spilled image is allocated in a bank, or written into it: one that is OFF or RET begins its wake, and one that is ON
has an access (R213). -/
def State.wakeBank (s : State) (core bank : Nat) : State := (s.touchBank core bank).2

/-! ### Images -/

/-- Width of a tile in blocks, as the instructions that name it meet it: that of the last TREST that took blocks for it (R338). -/
def Tile.width (x : Tile) : Nat := (x.next.getLast?.getD x.blocks).length

/-- Bytes of a TSAVE image (R345). -/
def Tile.imageLen (t : Tile) : Nat := 2048 + 16384 * t.width

/-- Bytes of a group image in the spill map (R224). -/
def Group.spillLen (g : Group) (threads : Nat) : Nat := 256 + 128 * g.vregs + 256 * threads

/-- Bytes of a group image in the save area: the images of its open tiles are added (R224). -/
def Group.saveLen (g : Group) (threads : Nat) : Nat :=
  g.spillLen threads + ((g.tiles.vals.filter fun t => decide (t.st = .opened)).map Tile.imageLen).sum

/-- Key of a saved loose thread: apart from every group name. -/
def imageKey (h : Nat) : Nat := 2 ^ 40 + h

/-- 16 KiB units for an image of `n` bytes: column blocks first, then banks that hold no window (R259). -/
def State.spillUnits (s : State) (core n : Nat) : Option (List Nat × List Nat) :=
  let u := ceilDiv n 16384
  let fb := (s.freeBlocks core).take u
  let ban := ((List.range 16).filter fun b => s.bankEmpty core b).take (u - fb.length)
  if fb.length + ban.length = u then some (fb, ban) else none

/-- The accumulator entries that hold bytes `lo` up to `hi` of the image of a key: its units are its column blocks, rising, and then
banks (R103, R259). -/
def State.spillEntry (s : State) (core key lo hi : Nat) (e : Nat × Nat × Nat) : Bool :=
  decide (e.1 = core) && match ((s.core core).spillBlk.keep fun _ o => o = key).keys.findIdx? fun b => b = e.2.1 with
    | some j => decide (lo < (j * 4096 + e.2.2 + 1) * 4) && decide ((j * 4096 + e.2.2) * 4 < hi)
    | none => false

/-- The first `n` bytes of an image in the spill map hold a marked word (R477). -/
def State.spillMarked (s : State) (core key n : Nat) : Bool := s.eccAcc.any (s.spillEntry core key 0 n)

/-- Bytes `lo` up to `hi` of an image in the spill map are written, with fresh check bits (R477). -/
def State.spillFresh (s : State) (core key lo hi : Nat) : State :=
  { s with eccAcc := s.eccAcc.filter fun e => !s.spillEntry core key lo hi e }

/-- The spill map takes the units for the image of a key, `n` bytes long, which is written there. -/
def State.takeSpill (s : State) (core key n : Nat) (u : List Nat × List Nat) : State :=
  let s := u.2.foldl (fun s b => s.wakeBank core b) s
  (s.modCore core fun k =>
    { k with spillBlk := u.1.foldl (fun t b => t.set b key) k.spillBlk,
             spillBank := u.2.foldl (fun t b => t.set b key) k.spillBank }).spillFresh core key 0 n

/-- The spill map gives up the units of a key. -/
def State.freeSpill (s : State) (core key : Nat) : State :=
  s.modCore core fun k =>
    { k with spillBlk := k.spillBlk.keep fun _ o => o ≠ key, spillBank := k.spillBank.keep fun _ o => o ≠ key }

/-- An access to an image in the spill map: true when every bank that holds some of it is ON (R213). -/
def State.touchSpill (s : State) (core key : Nat) : Bool × State :=
  ((s.core core).spillBank.filter fun e => e.2 = key).foldl (fun r e =>
    let (ok, s) := r.2.touchBank core e.1
    (r.1 && ok, s)) (true, s)

/-- The lowest place in the context's save area for `n` bytes, a multiple of 64 (R142, R224; log 49). -/
def Context.saveGap (k : Context) (n : Nat) : Option Nat :=
  (0 :: k.saves.map fun e => e.1 + e.2.1).foldl (fun best o =>
    if o + n ≤ k.quota.save && (k.saves.all fun e => decide (e.1 + e.2.1 ≤ o) || decide (o + n ≤ e.1))
        && (match best with | some b => decide (o < b) | none => true)
    then some o else best) none

/-- The context's save area has room for `n` bytes more (R142). -/
def State.saveRoom (s : State) (c n : Nat) : Bool := ((s.ctx c).saveGap n).isSome

/-- The save area gains what a key names, `n` bytes long. -/
def State.useSave (s : State) (c n key : Nat) : State :=
  s.modCtx c fun k => match k.saveGap n with
    | some o => { k with saves := k.saves ++ [(o, n, key)] }
    | none => k

/-- The save area loses what a key names. -/
def State.unuseSave (s : State) (c key : Nat) : State :=
  s.modCtx c fun k => { k with saves := k.saves.filter fun e => e.2.2 ≠ key }

/-- Device physical address of what a key names in the save area of a context. -/
def State.saveAt (s : State) (c key : Nat) : Nat :=
  match (s.ctx c).saves.find? fun e => e.2.2 = key with
  | some e => (s.ctx c).saveBase + e.1
  | none => 0

/-! ### Candidates (R256, R260) -/

/-- Live slots of a group's resident threads. -/
def State.groupSlots (s : State) (name : Nat) : List Tid := s.liveSlots.filter fun t => (s.thread t).group = some name

/-- A thread that may be evicted: in WAIT, not privileged, with no reserved position (R256); a context whose watchdog
has expired starts no save (R152). -/
def State.evictable (s : State) (t : Tid) : Bool :=
  decide ((s.slot t).st = .wait) && !(s.ctx (s.thread t).ctx).wdLate && !(s.thread t).priv && !((s.core t.core).resv.any fun o => o.2.1 = t.slot)

/-- An engine command of the group is in flight (R209). -/
def State.groupBusy (s : State) (name : Nat) : Bool := s.cores.any fun k => k.2.cmds.any fun c => c.group = some name

/-- An engine command of the thread is in flight. -/
def State.threadBusy (s : State) (t : Tid) : Bool :=
  s.cores.any fun k => k.2.cmds.any fun c => decide (c.tid = t) && decide (c.gen = (s.slot t).gen)

/-- The thread waits for an owed register: its image goes to the spill map only (R259). -/
def State.spillOnly (s : State) (t : Tid) : Bool := match (s.thread t).wait with | .block (.owed _) => true | _ => false

/-- A candidate: group or not, key (group name or slot key), time of the latest entry to WAIT, lowest slot. -/
abbrev Cand := Bool × Nat × Nat × Nat

/-- Loose threads of a core that may be evicted; `only` names a context when its quota alone stands in the way. -/
def State.looseCands (s : State) (core : Nat) (only : Option Nat) : List Cand :=
  s.liveSlots.filterMap fun t =>
    let th := s.thread t
    if t.core = core ∧ th.group = none ∧ s.evictable t ∧ (only = none ∨ only = some th.ctx)
        ∧ ((s.spillUnits core 256).isSome ∨ (s.spillOnly t = false ∧ s.saveRoom th.ctx 256)) then
      some (false, t.key, (s.slot t).waitAt, t.slot)
    else none

/-- What a core wants room for: a slot, a vector bank, or column blocks (R223, R260). -/
inductive Room where
  | slot | bank | block
deriving DecidableEq, Repr

/-- The group holds some of what is wanted (R223). -/
def Group.holds (g : Group) (r : Room) : Bool :=
  match r with
  | .slot => true
  | .bank => decide (0 < g.vregs)
  | .block => decide (g.blocks ≠ [])

/-- Groups of a core that may be evicted. One that holds the counting array is none of them: its array would move with it
(R209, R223, R350). -/
def State.groupCands (s : State) (core : Nat) (only : Option Nat) : List Cand :=
  s.groups.filterMap fun e =>
    let ts := s.groupSlots e.1
    let g := e.2
    if realGroup e.1 ∧ g.core = core ∧ g.st = .running ∧ g.saving = false ∧ ts ≠ [] ∧ ts.all s.evictable
        ∧ s.groupBusy e.1 = false ∧ (s.core core).holder ≠ some e.1 ∧ (only = none ∨ only = some g.ctx)
        ∧ ((s.spillUnits core (g.spillLen ts.length)).isSome
            ∨ (ts.all (fun t => !s.spillOnly t) ∧ s.saveRoom g.ctx (g.saveLen ts.length))) then
      some (true, e.1, (ts.map fun t => (s.slot t).waitAt).foldl Nat.max 0, (ts.map (·.slot)).foldl Nat.min 256)
    else none

/-- The candidate that goes first: the earliest, and the lowest slot on a tie (R260). -/
def firstCand (l : List Cand) : Option Cand :=
  l.foldl (fun best c =>
    match best with
    | none => some c
    | some b => if c.2.2.1 < b.2.2.1 ∨ (c.2.2.1 = b.2.2.1 ∧ c.2.2.2 < b.2.2.2) then some c else some b) none

/-- Candidates for a want of room: loose threads as well as groups for a slot; for a bank or blocks the groups that hold some
(R223, R260). -/
def State.cands (s : State) (core : Nat) (only : Option Nat) (room : Room) : List Cand :=
  (if room = .slot then s.looseCands core only else []) ++ (s.groupCands core only).filter fun c => (s.group c.2.1).holds room

/-- The slots of a candidate. -/
def State.candSlots (s : State) (c : Cand) : List Tid := if c.1 then s.groupSlots c.2.1 else [Tid.ofKey c.2.1]

/-- An eviction is decided on a core: the slots go to SAVING, with a commit cycle one cycle on (R259). -/
def State.decide_ (s : State) (core : Nat) (c : Cand) : State :=
  let s := (s.candSlots c).foldl (fun s t => s.modSlot t fun x => { x with st := .saving }) s
  s.modCore core fun k => { k with evict := some (c.1, c.2.1, k.cyc + 1) }

/-- An eviction for slots on a core, if none is in progress there and a candidate exists (R260). -/
def State.startEvict (s : State) (core : Nat) (only : Option Nat) (room : Room) : State :=
  if (s.core core).evict.isSome then s
  else match firstCand (s.cands core only room) with
    | some c => s.decide_ core c
    | none => s

/-- A slot for one more thread of the context on a core: none when it can be made now, or whose candidates stand in
the way of it (R243, R260). -/
def State.slotBlock (s : State) (c core : Nat) : Option (Option Nat) :=
  if (s.freeSlots core).isEmpty then some none
  else if s.slotQuota c core 1 then none
  else some (some c)

/-- Waiting for a slot can be of use: an eviction is in progress, or a candidate exists (R243). -/
def State.slotHope (s : State) (core : Nat) (only : Option Nat) : Bool :=
  (s.core core).evict.isSome || !(s.cands core only .slot).isEmpty

end Sys2Proof.Machine
end

