-- ==== Sys2Proof/Machine/Barrier.lean ====
section
/-! DEFINITION. The barrier: its object, its phases, parties and bindings (16_barrier R385 to R399), and BINIT, BARR,
BEXP, BWAIT, BTEST, BIND, UNBIND. -/

namespace Sys2Proof.Machine

/-! ### The object (R385, R386) -/

/-- A barrier object read from its granule. -/
structure BarObj where
  st : Nat
  scp : Nat
  ph : Bool
  pend : Nat
  arr : Nat
  exp : Nat
  tag : Nat
  gname : Nat
  zeros : Bool
deriving DecidableEq, Repr

/-- The object of two words. -/
def barOf (w0 w1 : Nat) : BarObj :=
  { st := fld w0 52 3, scp := fld w0 49 3, ph := bitN w0 48, pend := fld w0 24 24, arr := fld w0 12 12, exp := fld w0 0 12,
    tag := fld w1 32 16, gname := fld w1 0 32, zeros := decide (fld w0 55 9 = 0) && decide (fld w1 48 16 = 0) }

/-- The bytes of an object. -/
def BarObj.bytes (b : BarObj) : List Byte :=
  bytesOf 8 (b.st * 2 ^ 52 + b.scp * 2 ^ 49 + b2n b.ph * 2 ^ 48 + b.pend * 2 ^ 24 + b.arr * 2 ^ 12 + b.exp)
    ++ bytesOf 8 (b.tag * 2 ^ 32 + b.gname)

/-- OPEN or HELD, and valid (R386). -/
def BarObj.live (b : BarObj) : Bool :=
  b.zeros && (decide (b.st = 1) || decide (b.st = 2)) && decide (b.scp < 5) && decide (b.exp ≠ 0) && decide (b.arr ≤ b.exp)
  && (decide (b.st ≠ 2) || (decide (b.arr = b.exp) && decide (b.pend ≠ 0)))

/-- The object at a granule. -/
def State.barAt (s : State) (pa : Nat) : BarObj := barOf (s.readN pa 8) (s.readN (pa + 8) 8)

/-- `s` with the object written; barrier operations leave the full bit alone (R385). -/
def State.setBar (s : State) (pa : Nat) (b : BarObj) : State := s.store pa b.bytes

/-! ### Parties (R391) -/

/-- Who operates on a barrier: pod tag, chip, core, and its group's name when it has one. -/
structure Party where
  tag : Nat
  chip : Nat
  core : Nat
  group : Option Nat
deriving DecidableEq, Repr

/-- The party lies in the instance of a scope that holds the barrier's home core, or is the group named. -/
def State.inScope (s : State) (p : Party) (scp gname home : Nat) : Bool :=
  match scopeOfNum scp with
  | some .grp => decide (p.group = some gname)
  | some .core => decide (p.chip = s.chip) && decide (p.core = home)
  | some .clu => decide (p.chip = s.chip) && decide (clusterOf p.core = clusterOf home)
  | some .dev => decide (p.chip = s.chip)
  | some .pod => true
  | none => false

/-- The party check against the stored fields. -/
def State.partyOk (s : State) (p : Party) (b : BarObj) (pa : Nat) : Bool :=
  decide (b.tag = p.tag) && s.inScope p b.scp b.gname (homeCore pa)

/-- The executing thread as a party. -/
def State.myParty (s : State) : Party := { tag := s.myTag, chip := s.chip, core := s.cur.core, group := s.me.group }

/-! ### Bindings (R126, R398, R399) -/

/-- Leaves of a context's page tables below a table: virtual address, size, PTE. -/
def leavesFrom (s : State) : List Nat → Nat → Nat → List (Nat × Nat × Nat)
  | [], _, _ => []
  | l :: ls, tbl, base =>
    (List.range 512).flatMap fun i =>
      let e := s.readN (tbl + 8 * i) 8
      let va := base + i * 2 ^ (39 - 9 * l)
      if !pteV e then []
      else if pteSz e = 15 then (if ptrOk s e l then leavesFrom s ls (pteFrame e) va else [])
      else match leafSize e l with | some size => [(va / size * size, size, e)] | none => []

/-- The leaves of a context. -/
def State.leaves (s : State) (c : Nat) : List (Nat × Nat × Nat) := leavesFrom s [0, 1, 2, 3] (s.ctx c).root 0

/-- Where a barrier address of a thread of context `c` on a core resolves to: chip and physical address (R399). -/
def State.resolveBar (s : State) (c core : Nat) (a : Word) : Option (Nat × Nat) :=
  if a.toNat < spadSize then some (s.chip, localPa core a.toNat)
  else if 2 ^ 48 ≤ a.toNat then none
  else match s.walk c a.toNat with
    | .leaf pte size => some (pteChip pte.toNat, pteFrame pte.toNat + a.toNat % size)
    | .fail _ _ => none

/-- Regions, base and end, that a group binds to a granule (R399). -/
def State.regionsOf (s : State) (grp : Option Nat) (c core chip pa : Nat) : List (Nat × Nat) :=
  match grp.bind fun n => s.groups.get? n with
  | none => []
  | some g => g.binds.vals.filterMap fun b =>
      if s.resolveBar c core b.bar = some (chip, pa) then some (b.base.toNat, b.base.toNat + b.len.toNat) else none

/-- The lines of the regions leave the cluster cache; unmapped pages are skipped (R126, R399). -/
def State.dropRegions (s : State) (c core : Nat) (rs : List (Nat × Nat)) : State :=
  if rs.isEmpty then s
  else
    let lv := s.leaves c
    s.modCluster (clusterOf core) fun k =>
      { k with
        lines := k.lines.filter fun l => !(lv.any fun e =>
          let f := pteFrame e.2.2
          decide (pteChip e.2.2 = l.1) && decide (f ≤ l.2.1) && decide (l.2.1 < f + e.2.1)
          && rs.any fun r => decide (r.1 ≤ e.1 + (l.2.1 - f)) && decide (e.1 + (l.2.1 - f) < r.2)),
        drops := k.drops + 1 }

/-- The regions that the executing thread's group binds to a barrier, resolved now (R399). -/
def State.myRegions (s : State) (t : Target) : List (Nat × Nat) := s.regionsOf s.me.group s.me.ctx s.cur.core t.chip t.pa

/-- The invalidation that ends a BWAIT, or a BTEST that finds its phase over, for the executing thread: the regions bound
when the instruction issued (R126, R396, R399). -/
def State.barAcquire (s : State) (rs : List (Nat × Nat)) : State := s.dropRegions s.me.ctx s.cur.core rs

/-! ### Phases (R388, R389) -/

/-- A waiter is woken: the wake goes to its thread, which completes its BWAIT at BARRIER_WAKE or keeps the wake in its
record; a thread of another chip gets its answer (R396, R397). -/
def State.wakeWaiter (s : State) (w : BarWaiter) (broken : Bool) : State :=
  match w.far with
  | some p => s.post (Packet.answer p .rsp .ok (if broken then 1 else 0) (bytesOf 8 1))
  | none =>
    match (s.byHandle w.h).map fun (x : Thread) => x.wait with
    | some (Wait.block (.bwait _ _ _ _)) =>
      s.modHandle w.h fun x => { x with bwaitDone := some (if broken then some .bpend else none) }
    | _ => s

/-- Every waiter at a granule that `p` accepts leaves the table and is woken, in entry order. -/
def State.wakeBar (s : State) (pa : Nat) (p : BarWaiter → Bool) (broken : Bool) : State :=
  let home := homeCore pa
  let ws := (s.core home).bwt.filter fun w => decide (w.pa = pa) && p w
  let s := s.modCore home fun k => { k with bwt := k.bwt.filter fun w => !(decide (w.pa = pa) && p w) }
  ws.foldl (fun s w => s.wakeWaiter w broken) s

/-- The phase completes (R389). -/
def State.complete (s : State) (pa : Nat) (b : BarObj) : State :=
  (s.setBar pa { b with ph := !b.ph, arr := 0, st := 1, pend := 0 }).wakeBar pa (fun w => w.phase == b.ph) false

/-- What a barrier operation ends with at its home. -/
inductive BarRes where
  | ok (v : Nat) (s : State)
  | wait (s : State)
  | err (c : Cause)
deriving DecidableEq, Repr

/-- A barrier operation in its bank access (R388 to R396). `h` and `far` are the waiter a BWAIT would record. BIND makes the
party check alone: R399 says that it does not check the barrier itself, and one that is not OPEN or HELD has no party (R391,
R394; log 85). -/
def State.barOp (s : State) (op : BarOp) (pa : Nat) (p : Party) (h : Nat) (far : Option Packet) : BarRes :=
  let b := s.barAt pa
  let home := homeCore pa
  if s.eccHit pa 16 then .err .ecc
  else match op with
    | .init scp e =>
      let scpN := scopeNum scp
      let gname := match scp, p.group with | .grp, some n => n | _, _ => 0
      if b.live && !s.partyOk p b pa then .err .prot
      else if decide (scp = .grp ∧ p.group = none) || !s.inScope p scpN gname home then .err .prot
      else if e.toNat = 0 ∨ 4095 < e.toNat then .err .bpend
      else if (s.core home).bwt.any (fun w => w.pa = pa) || (b.live && decide (b.pend ≠ 0)) then .err .bpend
      else .ok 0 ((s.setBar pa { st := 1, scp := scpN, ph := b.live && b.ph, pend := 0, arr := 0, exp := e.toNat,
                                 tag := p.tag, gname := gname, zeros := true }).claim ((s.ctxOfTag p.tag).getD 256) pa 16)
    | _ =>
      if !b.live then (match op with | .bind _ _ => .ok 0 s | _ => .err .bpend)
      else if !s.partyOk p b pa then .err .prot
      else match op with
        | .arr =>
          if b.st = 2 then .err .bpend
          else
            let v := (b.arr + 1) * 2 + b2n b.ph
            let b' := { b with arr := b.arr + 1 }
            if b.arr + 1 < b.exp then .ok v (s.setBar pa b')
            else if b.pend = 0 then .ok v (s.complete pa b')
            else .ok v (s.setBar pa { b' with st := 2 })
        | .exp d =>
          let n : Int := b.exp + d.toInt
          if n < 1 ∨ 4095 < n ∨ n < b.arr then .err .bpend
          else
            let b' := { b with exp := n.toNat }
            if n = b.arr then
              (if b.pend = 0 then .ok n.toNat (s.complete pa b') else .ok n.toNat (s.setBar pa { b' with st := 2 }))
            else .ok n.toNat (s.setBar pa { b' with st := 1 })
        | .wait ph =>
          if b.ph ≠ ph then .ok 1 s
          else if 256 ≤ (s.core home).bwt.length then .wait s
          else .wait (s.modCore home fun k => { k with bwt := k.bwt ++ [{ pa := pa, phase := ph, h := h, far := far }] })
        | .test ph => .ok (b2n (b.ph != ph)) s
        | _ => .ok 0 s

/-- A completed command subtracts its bytes (R388, R390). -/
def State.barSub (s : State) (pa n : Nat) : State :=
  let b := s.barAt pa
  if !b.live then s
  else if n < b.pend then s.setBar pa { b with pend := b.pend - n }
  else if n = b.pend then (if b.st = 2 then s.complete pa b else s.setBar pa { b with pend := 0 })
  else (s.setBar pa { b with st := 3, pend := 0 }).wakeBar pa (fun _ => true) true

/-- A command of the executing thread names a barrier of its core with `n` bytes: the trap, or the state with the
bytes pending (R388, R391, R392). -/
def State.barName (s : State) (pa n : Nat) : Except Cause State :=
  let b := s.barAt pa
  if s.eccHit pa 16 then .error .ecc
  else if !b.live then .error .bpend
  else if !s.partyOk s.myParty b pa then .error .prot
  else if 2 ^ 24 ≤ b.pend + n then .error .bpend
  else .ok (s.setBar pa { b with pend := b.pend + n })

/-! ### Instructions -/

/-- BIND once its checks are over: the lowest free slot of the executing thread's group takes the region, or the refusal of
R399. -/
def State.bindTo (s : State) (scp : Scope) (len : Word) (a : Word) (xd : XReg) (pd pe : PReg) : State :=
  let base := s.me.xr xd
  match s.me.group, s.myGroup? with
  | some n, some grp =>
    if base.toNat % 64 ≠ 0 ∨ len.toNat % 64 ≠ 0 ∨ len.toNat = 0 ∨ 2 ^ 40 < len.toNat ∨ 2 ^ 48 < base.toNat + len.toNat then
      s.refuse xd pd pe .fault
    else match grp.binds.lowestFree 16 with
      | none => s.refuse xd pd pe .full
      | some k =>
        if !grp.bindRec && !s.saveRoom grp.ctx 512 then s.refuse xd pd pe .quota
        else
          let s := if grp.bindRec then s else s.useSave grp.ctx 512 (bindKey grp.name)
          (s.modGroup n fun g =>
            { g with bindRec := true, binds := g.binds.set k { scp := scp, bar := a, len := len, base := base } }).accept
            xd pd pe (word k)
  | _, _ => s.refuse xd pd pe .denied

/-- The executing thread's barrier operation ends as its home said (R394 to R399). -/
def State.barDone (s : State) (op : BarOp) (t : Target) (va : Word) (xd : Option XReg) (pd pe : PReg) (rs : List (Nat × Nat))
    (r : BarRes) : State :=
  match r with
  | .err c => s.trap c va
  | .wait s => match op with | .wait ph => (s.modMe fun x => { x with askAt := s.now + mesh1024 }).blockOn (.bwait t ph va rs) | _ => s
  | .ok v s =>
    match op with
    | .test _ =>
      let s := if v = 1 then s.barAcquire rs else s
      (s.modMe fun x => x.setPP pd pe (decide (v = 1))).commit
    | .wait _ => (s.barAcquire rs).commit
    | .bind scp len => s.bindTo scp len va (xd.getD 0) pd pe
    | _ => (match xd with | some x => s.modMe fun th => th.setX x (word v) | none => s).commit

/-- The number that a barrier operation carries: an expectation, a count, a length, or a phase. -/
def BarOp.operand : BarOp → Nat
  | .init _ e => e.toNat
  | .arr => 0
  | .exp d => d.toNat
  | .wait p | .test p => b2n p
  | .bind _ len => len.toNat
  | .sub n => n

/-- The packet that asks another chip for a barrier operation of the thread at `u`; its payload holds the operation's number and the
group name (R425; log 13). -/
def State.barPacket (s : State) (u : Tid) (op : BarOp) (t : Target) : Packet :=
  let th := s.thread u
  s.packet .bar t.chip (s.ctx th.ctx).tag (s.handle u) t.bwc (.bar op (th.group.getD 0)) t.pa 16 0
    (bytesOf 8 (BarOp.operand op) ++ bytesOf 4 (th.group.getD 0))

/-- The operation is performed at once on the issuing core, and waited for elsewhere: in STALL, but for a BWAIT on another
chip, which waits at its blocking point from its issue on (R237, R387, R394; log 42). -/
def State.barIssue (s : State) (op : BarOp) (t : Target) (va : Word) (xd : Option XReg) (pd pe : PReg) (rs : List (Nat × Nat)) :
    State :=
  if s.atOwnCore t then s.barDone op t va xd pd pe rs (s.barOp op t.pa s.myParty (s.handle s.cur) none)
  else if t.chip = s.chip then s.stallOp (.bar op t va xd pd pe rs)
  else
    let s' := s.sendTx s.me.ctx (.bar (s.handle s.cur)) (s.barPacket s.cur op t)
    match op with
    | .wait ph => s'.blockOn (.bwait t ph va rs)
    | _ => s'.stallOp (.bar op t va xd pd pe rs)

/-- The checks of R394 before an operation. -/
def barIns (g : Guard) (regs : List XReg) (xa : XReg) (s : State) (k : Word → Target → State → State) :
    Host.Outcome State Fault Refusal :=
  guarded g regs s fun s =>
    let a := s.me.xr xa
    match s.check a 16 16 .bar with
    | .stop s => s
    | .go t s => k a t s

/-- BINIT (R394). -/
def execBinit (g : Guard) (scp : Scope) (xa : XReg) (b : Src) (s : State) : Host.Outcome State Fault Refusal :=
  barIns g (xa :: srcRegs b) xa s fun a t s => s.barIssue (.init scp (s.me.src b)) t a none 0 0 []

/-- A store of the thread at `t` to one of the regions (R126, R395). -/
def State.boundStore (s : State) (t : Tid) (rs : List (Nat × Nat)) (x : Store) : Bool :=
  decide (x.tid = t) && decide (x.gen = (s.slot t).gen) && rs.any fun r => decide (x.va.toNat < r.2) && decide (r.1 < x.va.toNat + x.n)

/-- BARR: the thread's writes to the regions its group binds at its issue are acknowledged first (R395, R399). -/
def execBarr (g : Guard) (xd xa : XReg) (s : State) : Host.Outcome State Fault Refusal :=
  barIns g [xd, xa] xa s fun a t s =>
    let rs := s.myRegions t
    let hit := s.boundStore s.cur rs
    if s.stores.any hit then (s.drainBuffers hit).stallOp (.arrive t a xd rs)
    else s.barIssue .arr t a (some xd) 0 0 []

/-- BEXP (R395). -/
def execBexp (g : Guard) (xd xa : XReg) (b : Src) (s : State) : Host.Outcome State Fault Refusal :=
  barIns g (xd :: xa :: srcRegs b) xa s fun a t s => s.barIssue (.exp (s.me.src b)) t a (some xd) 0 0 []

/-- BWAIT; one that was woken while its thread was saved completes on the recorded phase (R396, R397). -/
def execBwait (g : Guard) (xa : XReg) (b : Src) (s : State) : Host.Outcome State Fault Refusal :=
  barIns g (xa :: srcRegs b) xa s fun a t s =>
    match s.me.bwaitDone with
    | some (some c) => s.trap c a
    | some none => (s.barAcquire (s.myRegions t)).commit
    | none => s.barIssue (.wait ((s.me.src b).getLsbD 0)) t a none 0 0 (s.myRegions t)

/-- BTEST (R396). -/
def execBtest (g : Guard) (pd pe : PReg) (xa : XReg) (b : Src) (s : State) : Host.Outcome State Fault Refusal :=
  barIns g (xa :: srcRegs b) xa s fun a t s => s.barIssue (.test ((s.me.src b).getLsbD 0)) t a none pd pe (s.myRegions t)

/-- BIND: the checks of R394 with the party check at the home, then R399. -/
def execBind (g : Guard) (scp : Scope) (xd : XReg) (pd pe : PReg) (xa : XReg) (b : Src) (s : State) :
    Host.Outcome State Fault Refusal :=
  barIns g (xd :: xa :: srcRegs b) xa s fun a t s => s.barIssue (.bind scp (s.me.src b)) t a (some xd) pd pe []

/-- UNBIND (R399). -/
def execUnbind (g : Guard) (xd : XReg) (pd pe : PReg) (b : Src) (s : State) : Host.Outcome State Fault Refusal :=
  guarded g (xd :: srcRegs b) s fun s =>
    let k := (s.me.src b).toNat
    if 15 < k then s.refuse xd pd pe .fault
    else match s.me.group, s.myGroup?.bind fun grp => grp.binds.get? k with
      | some n, some _ => (s.modGroup n fun g => { g with binds := g.binds.erase k }).accept xd pd pe 0
      | _, _ => s.refuse xd pd pe .denied

end Sys2Proof.Machine
end

