-- ==== Sys2Proof/Machine/SendPort.lean ====
section
/-! DEFINITION. The send port of a thread and what its items meet: messages at mailboxes (06_queue R163 to R170),
spawn messages at channels (09_thread_life R247), puts at groups (08_group R217 to R222). -/

namespace Sys2Proof.Machine

/-! ### Items (R134, R167, R247) -/

/-- Items of one thread with the same lane keep their order: one mailbox; one core for spawn messages; one name and
register for puts. -/
def ItemKind.lane : ItemKind → Nat × Nat × Nat
  | .send box _ _ _ => (0, box, 0)
  | .spnr chip core _ _ _ => (1, chip * 256 + core, 0)
  | .vput name idx _ => (2, name, idx)

/-- The item has been answered. -/
def ItemSt.isAnswered : ItemSt → Bool
  | .answered _ _ => true
  | _ => false

/-- Item `id`. -/
def State.item? (s : State) (id : Nat) : Option Item := s.items.find? fun i => i.id = id

/-- `s` with `f` applied to item `id`. -/
def State.modItem (s : State) (id : Nat) (f : Item → Item) : State :=
  { s with items := s.items.map fun i => if i.id = id then f i else i }

/-- `s` without item `id`. -/
def State.dropItem (s : State) (id : Nat) : State := { s with items := s.items.filter fun i => i.id ≠ id }

/-- Items in the send port of the thread at `t`. -/
def State.portItems (s : State) (t : Tid) : List Item :=
  s.items.filter fun i => decide (i.tid = some t) && decide (i.gen = (s.slot t).gen)

/-- The thread's port holds 4 (R167). -/
def State.portFull (s : State) (t : Tid) : Bool := decide (4 ≤ (s.portItems t).length)

/-- An earlier item of the same thread and lane is not answered yet. -/
def State.itemHeld (s : State) (i : Item) : Bool :=
  i.tid.isSome && s.items.any fun j =>
    decide (j.id < i.id) && decide (j.tid = i.tid) && decide (j.gen = i.gen) && decide (j.kind.lane = i.kind.lane)
    && !j.st.isAnswered

/-- The packet of an item for another chip (R424, R425; log 13 for the places of its operands). -/
def State.itemPacket (s : State) (i : Item) (chip : Nat) : Packet :=
  match i.kind with
  | .send box _ prio d => s.packet .msg chip i.tag i.hnd none .plain 0 0 (box + prio * 2 ^ 24) d
  | .spnr _ core ch regs _ =>
    s.packet .spn chip i.tag i.hnd none .plain 0 0 (core * 256 + ch) (regs.flatMap fun r => bytesOf 8 r.toNat)
  | .vput name idx d => s.packet .put chip i.tag i.hnd none .plain idx 0 name (VReg.bytes d)

/-- The core of this chip that an item goes to, or the other chip's number: for a put, where the sender's name cache has the
group, else its home agent (R217). -/
def State.itemGoal (s : State) (i : Item) : Except Nat Nat :=
  match i.kind with
  | .send box _ _ _ => if fld box 14 10 = s.chip then .ok (fld box 6 8) else .error (fld box 14 10)
  | .spnr chip core _ _ _ => if chip = s.chip then .ok core else .error chip
  | .vput name _ _ =>
    match (s.core (match i.tid with | some t => t.core | none => 0)).names.find? fun e => e.1 = name with
    | some e => if e.2.1 = s.chip then .ok e.2.2 else .error e.2.1
    | none => if fld name 22 10 = s.chip then .ok (fld name 14 8) else .error (fld name 22 10)

/-- An item leaves its port: to a core of this chip, or as a packet, the same one when another chip has sent it back
(R167, R217, R219, R247, R425). -/
def State.launchItem (s : State) (i : Item) : State :=
  match s.itemGoal i with
  | .ok core => s.modItem i.id fun i => { i with st := .flying core }
  | .error chip =>
    match s.txs.find? fun t => t.what = TxFor.item i.id with
    | some t => (s.modItem i.id fun i => { i with st := .far }).post t.pkt
    | none =>
      if s.inPod chip then (s.modItem i.id fun i => { i with st := .far }).sendTx i.ctx (.item i.id) (s.itemPacket i chip)
      else s.modItem i.id fun i => { i with st := .answered .linkdown 0 }

/-- The executing thread's new item takes a port entry; it leaves at once unless an earlier one holds it back. One with
a bad target is answered FAULT without leaving (R229, R247). -/
def State.addItem (s : State) (kind : ItemKind) (ev : EvSel) (bad : Bool) : State :=
  let i : Item := { id := s.nextItem, kind := kind, tid := some s.cur, gen := (s.slot s.cur).gen, ctx := s.me.ctx,
                    tag := s.myTag, hnd := s.handle s.cur, priv := s.me.priv, ev := ev, st := if bad then .answered .fault 0 else .port, pkt := none }
  let s := { s with items := s.items ++ [i], nextItem := s.nextItem + 1 }
  if bad || s.itemHeld i then s else s.launchItem i

/-- Item `id` is answered: its sender on this chip hears of it later, a sender on another chip gets a packet. -/
def State.answerItem (s : State) (id : Nat) (st : Status) (h : Nat) : State :=
  match s.item? id with
  | none => s
  | some i =>
    match i.tid, i.pkt with
    | none, some p =>
      let word := 2 ^ 63 + stCode st * 2 ^ 40 + (if st = .ok then h else 0)
      (s.dropItem id).post (match i.kind with
        | .spnr _ _ _ _ _ => Packet.answer p .rsp st 0 (bytesOf 8 word)
        | _ => Packet.answer p .rsp st h [])
    | _, _ => s.modItem id fun i => { i with st := .answered st h }

/-! ### Mailboxes -/

/-- The message RECV takes: the oldest of the highest priority (R164). -/
def takeMsg (l : List Msg) : Option (Msg × List Msg) :=
  let top := l.foldl (fun a m => Nat.max a m.prio) 0
  match l.findIdx? fun m => m.prio = top with
  | some i => l[i]?.map fun m => (m, l.eraseIdx i)
  | none => none

/-- Size code of a message size (R179). -/
def sizeCode (n : Nat) : Nat := if n = 32 then 0 else if n = 64 then 1 else if n = 128 then 2 else 3

/-- x[XD] of a RECV (R182). -/
def recvInfo (size : Nat) (m : Msg) : Word := word (2 ^ 38 + sizeCode size * 2 ^ 36 + m.prio * 2 ^ 34 + m.sender)

/-- Mailbox `k` of a core. -/
def State.box? (s : State) (core k : Nat) : Option Mailbox := (s.core core).boxes.get? k

/-- `s` with a mailbox replaced. -/
def State.setBox (s : State) (core k : Nat) (m : Mailbox) : State := s.modCore core fun c => { c with boxes := c.boxes.set k m }

/-- What an RTY tells the sender of a message in AUX (R166, R425; log 13): send it again now, or after 1,024 mesh cycles, or when it
is signalled. -/
def rtyNow : Nat := 0
def rtyLater : Nat := 1
def rtyListed : Nat := 2

/-- The freed entry goes to the oldest listed sender, which is signalled (R166). -/
def State.signalNext (s : State) (core k : Nat) : State :=
  match s.box? core k with
  | none => s
  | some m =>
    match m.waits with
    | [] => s
    | id :: rest =>
      if m.msgs.length + m.resv.length < m.depth then
        let s := s.setBox core k { m with waits := rest, resv := m.resv ++ [(id, s.now + mesh1024)] }
        let s := s.modItem id fun i => { i with st := .later s.now }
        match s.item? id with
        | some i => match i.tid, i.pkt with
          | none, some p => s.post (Packet.answer p .rty .ok rtyNow [])
          | _, _ => s
        | none => s
      else s

/-- Another message that is due has reached the core of a mailbox: RECVs are served after every acceptance of the cycle (R165). -/
def State.msgDue (s : State) (core k : Nat) : Bool :=
  s.agenda.any fun e => decide (e.1 ≤ s.now) && (match e.2 with
    | .messageArrival id => (match s.item? id with
        | some i => (match i.kind with
            | .send box _ _ _ => decide (i.st = .flying core) && decide (fld box 6 8 = core) && decide (fld box 0 6 = k)
            | _ => false)
        | none => false)
    | _ => false)

/-- A message is delivered to the thread at `t`, whose RECV commits (R182). -/
def State.deliverMsg (s : State) (t : Tid) (addr : Nat) (xd : XReg) (pd pe : PReg) (size : Nat) (m : Msg) : State :=
  let s := s.storeFor (s.thread t).ctx (localPa t.core addr) m.data
  (((s.at_ t).modMe fun x => (x.setX xd (recvInfo size m)).setPP pd pe true).commit).at_ s.cur

/-- The first waiting RECV takes a message (R165, R169). -/
def State.serveRecv (s : State) (core k : Nat) : State :=
  match s.box? core k with
  | none => s
  | some b =>
    match b.recvs, takeMsg b.msgs with
    | w :: rest, some (m, ms) =>
      let s := s.setBox core k { b with recvs := rest, msgs := ms }
      (s.deliverMsg w.tid w.addr w.xd w.pd w.pe b.size m).signalNext core k
    | _, _ => s

/-- Waiting RECVs take messages in the order of their queue, once no other message of this cycle is still to be accepted (R165,
R169). -/
def State.serveRecvs (s : State) (core k : Nat) : State :=
  match s.box? core k with
  | some b => if s.msgDue core k then s else b.recvs.foldl (fun s _ => s.serveRecv core k) s
  | none => s

/-- The tests of R168 on an arriving message, in order: the status it is refused with, or none. -/
def State.mboxTest (s : State) (core k tag size id : Nat) : Option Status :=
  match s.box? core k with
  | none => some .denied
  | some b =>
    if b.tag ≠ tag then some .denied
    else if b.size ≠ size then some .fault
    else if b.msgs.length + (b.resv.filter fun r => r.1 ≠ id).length < b.depth then none
    else some .full

/-- A message enters the ring; a waiting RECV takes it (R165, R168). -/
def State.mboxAccept (s : State) (core k id : Nat) (m : Msg) : State :=
  match s.box? core k with
  | none => s
  | some b =>
    let s := s.setBox core k { b with msgs := b.msgs ++ [m], resv := b.resv.filter fun r => r.1 ≠ id,
                                      waits := b.waits.filter (· ≠ id) }
    s.serveRecvs core k

/-- The context of a pod tag is being killed on this chip. -/
def State.tagKilling (s : State) (tag : Nat) : Bool :=
  match s.ctxOfTag tag with
  | some c => decide ((s.ctx c).st = CtxSt.killing)
  | none => false

/-- Item `id` carries a message that reaches its mailbox (R166, R168). -/
def State.arriveMsg (s : State) (id : Nat) : State :=
  match s.item? id with
  | none => s
  | some i =>
    match i.kind with
    | .send box size prio d =>
      let core := fld box 6 8
      let k := fld box 0 6
      if s.tagKilling i.tag then
        s.answerItem id .killed 0
      else match s.mboxTest core k i.tag size id with
        | none => (s.mboxAccept core k id { prio := prio, sender := i.hnd, data := d }).answerItem id .ok 0
        | some .full =>
          match s.box? core k with
          | some b =>
            let b := { b with resv := b.resv.filter fun r => r.1 ≠ id }
            if b.waits.length < 16 then
              let s := (s.setBox core k { b with waits := b.waits ++ [id] }).modItem id fun i => { i with st := .listed }
              match i.tid, i.pkt with
              | none, some p => s.post (Packet.answer p .rty .ok rtyListed [])
              | _, _ => s
            else
              let s := (s.setBox core k b).modItem id fun i => { i with st := .later (s.now + mesh1024) }
              match i.tid, i.pkt with
              | none, some p => (s.dropItem id).post (Packet.answer p .rty .ok rtyLater [])
              | _, _ => s
          | none => s
        | some st => s.answerItem id st 0
    | _ => s

/-! ### Spawn messages (R247) -/

/-- The state of a thread that a spawn message makes. -/
def chanThread (s : State) (c : Chan) (regs : List Word) : Thread :=
  let t := newThread s c.ctx c.entry regs c.prio
  if c.loose then t
  else { t with group := some c.group, launch := some (s.group c.group).launch, spawned := true,
                wid := (s.group c.group).wid }

/-- What a spawn message meets at a core: a status, or the thread it makes. -/
def State.spawnMsg (s : State) (core ch tag : Nat) (regs : List Word) : (Status × Nat) × State :=
  if s.tagKilling tag then ((.killed, 0), s)
  else match (s.core core).chans.get? ch with
    | none => ((.nochan, 0), s)
    | some c =>
      if (s.ctx c.ctx).tag ≠ tag then ((.denied, 0), s)
      else if c.blocked then ((.blocked, 0), s)
      else if !c.loose && (match s.groups.get? c.group with | some g => decide (g.st = GroupSt.exiting) | none => true) then
        ((.dead, 0), s)
      else if !c.loose && (decide ((s.group c.group).core ≠ core) || decide ((s.group c.group).st ≠ GroupSt.running)
          || (s.group c.group).saving || decide (64 ≤ s.members c.group)) then ((.full, 0), s)
      else match s.slotBlock c.ctx core with
        | some none => ((.full, 0), s.startEvict core none .slot)
        | some (some _) => ((.full, 0), s)
        | none =>
          match s.create core (chanThread s c regs) with
          | some (t, s) => ((.ok, s.handle t), s)
          | none => ((.full, 0), s)

/-! ### Puts (R217 to R222) -/

/-- Arm count of a register. -/
def Group.armOf (g : Group) (i : Nat) : Nat := g.arm.getD i 0

/-- A put applied to a register and its arm count (R220, R221). -/
def Group.putReg (g : Group) (i : Nat) (d : VReg) : Group :=
  { g with v := g.v.set i d, arm := if g.armOf i ≤ 1 then g.arm.erase i else g.arm.set i (g.armOf i - 1) }

/-- What a put meets at a core. -/
inductive PutRes where
  | reply (st : Status) (core : Nat) (s : State)
  /-- sent on to another core, or to another chip -/
  | goOn (core : Nat)
  | away (chip : Nat)
  /-- held: in the home agent's queue, or in the core's input queue -/
  | queue (home : Bool) (s : State)
deriving DecidableEq, Repr

/-- A put applied to a group it has reached: the last rows of R219. A register in a bank, or in an image in the spill map, must
find the bank ON (R213). -/
def State.putAt (s : State) (name idx core : Nat) (d : VReg) : PutRes :=
  let g := s.group name
  if g.vregs ≤ idx then .reply .fault core s
  else if g.armOf idx = 0 then .reply .unarmed core s
  else
    let bank := if g.resident then s.touchBank g.core g.bank else s.touchSpill g.core name
    if !bank.1 then .queue false bank.2
    else
      let s := { bank.2 with eccV := bank.2.eccV.filter fun e => !(decide (e.1 = name) && decide (e.2.1 = idx)) }
      let s := if g.resident then s else s.spillFresh g.core name (256 + 128 * idx) (384 + 128 * idx)
      .reply .ok core (s.modGroup name fun g => g.putReg idx d)

/-- A forwarding entry of a core for a moved group (R217, R225). -/
def State.fwdOf (s : State) (core name : Nat) : Option Nat :=
  (s.core core).fwd.vals.findSome? fun e => match e with
    | .group n c _ => if n = name then some c else none
    | _ => none

/-- Puts but `id` that wait in the put queue of a home agent (R216). -/
def State.putsQueued (s : State) (core id : Nat) : Nat :=
  (s.items.filter fun i => decide (i.id ≠ id) && match i.st with | .queued k home _ => decide (k = core) && home | _ => false).length

/-- The group of a name that is neither stale nor DEAD (R214, R219). -/
def State.liveGroup (s : State) (name : Nat) : Option Group :=
  (s.groups.get? name).filter fun g => realGroup name && decide (name % 256 ≠ 0) && decide (g.st ≠ .exiting)

/-- A put to a group that is not at the core and not forwarded from it, at the name's home agent (R216, R217, R221). -/
def State.putHome (s : State) (core name idx : Nat) (d : VReg) : PutRes :=
  match s.dir.get? (dirKey name) with
  | none => .reply .dead core s
  | some e =>
    if e.gen ≠ name % 256 ∨ e.st = DirSt.dead then .reply .dead core s
    else if e.locked then .queue true s
    else match e.st with
      | .evicted => s.putAt name idx core d
      | _ => if e.core = core then .reply .dead core s else .goOn e.core

/-- The rows DEAD, DENIED and KILLED of R219, for the name and the sender's pod tag. -/
def State.putRefused (s : State) (name tag : Nat) : Option Status :=
  match s.liveGroup name with
  | none => some .dead
  | some g =>
    if (s.ctx g.ctx).tag ≠ tag then some .denied
    else if (s.ctx g.ctx).st = .killing then some .killed
    else none

/-- The group of a name is at a core: RUNNING or SPILLED there, or on its way out of it to the core the Farrier named, until the
forwarding entry stands (R217, R225). -/
def State.groupAt (s : State) (core name : Nat) : Bool :=
  match s.liveGroup name with
  | some g => decide (g.core = core) && (g.onCore || (decide (g.st = .restoring) && g.moveTo.isSome))
  | none => false

/-- A put resolved at a core: it goes on to the home agent where nothing here knows the name, and else meets the rows of R219 in
their order. Behind the commit of an eviction it waits at the core, through a move until it can be forwarded (R217, R219, R223, R225). -/
def State.putMeets (s : State) (core name idx tag : Nat) (d : VReg) : PutRes :=
  let here := s.groupAt core name
  let fwd := s.fwdOf core name
  if !here && fwd.isNone && decide (fld name 22 10 ≠ s.chip) then .away (fld name 22 10)
  else if !here && fwd.isNone && decide (fld name 14 8 ≠ core) then .goOn (fld name 14 8)
  else match s.putRefused name tag with
    | some st => .reply st core s
    | none =>
      let g := s.group name
      if here then (if g.saving || decide (g.st = .restoring) then .queue false s else s.putAt name idx core d)
      else match fwd with
        | some c => .goOn c
        | none => s.putHome core name idx d

/-- Where a group is, as an answer to a put says it: chip and core (R217, R425). -/
def State.placeNo (s : State) (core : Nat) : Nat := s.chip * 256 + core

/-- The name cache of a send engine refreshed by an acknowledgement (R217). -/
def State.refreshName (s : State) (at_ name loc : Nat) : State :=
  s.modCore at_ fun k => { k with names := ((name, fld loc 8 10, fld loc 0 8) :: k.names.filter fun e => e.1 ≠ name).take 64 }

end Sys2Proof.Machine
end

