-- ==== Sys2Proof/Machine/ThreadOps.lean ====
section
/-! DEFINITION. SPAWN, SPNR, JOIN, EXIT, YIELD, PRIO, SLOT, MIGR, SEMA and CHAN (09_thread_life R240 to R255).
SEMW stands with the tiles, whose stopped passes it observes (R335). -/

namespace Sys2Proof.Machine

/-! ### Creation -/

/-- x1 to x4 of a thread. -/
def Thread.firstFour (t : Thread) : List Word := [t.xr 1, t.xr 2, t.xr 3, t.xr 4]

/-- SPAWN and SPAWN.loose; x1 to x4 are read for the child, so that an owed one is waited for (R242, R243, R276). -/
def spawnOp (loose : Bool) (g : Guard) (xd : XReg) (pd pe : PReg) (xa : XReg) (b : Src) (s : State) :
    Host.Outcome State Fault Refusal :=
  guarded g (xd :: xa :: srcRegs b ++ [1, 2, 3, 4]) s fun s =>
    let t := s.me
    let e := t.xr xa
    let q := (t.src b).toNat
    if !loose && t.group.isNone then s.refuse xd pd pe .denied
    else if !pcOk e || decide (127 < q) then s.refuse xd pd pe .fault
    else if !loose && (match t.group with | some n => decide (64 ≤ s.members n) | none => false) then
      s.refuse xd pd pe .full
    else match s.slotBlock t.ctx s.cur.core with
      | some only => if s.slotHope s.cur.core only then s.stallOn .slot else s.refuse xd pd pe .full
      | none =>
        let child := newThread s t.ctx e t.firstFour q
        let child := if loose then child
          else { child with group := t.group, launch := t.launch, spawned := true,
                            wid := match s.myGroup? with | some g => g.wid | none => 0 }
        match s.create s.cur.core child with
        | some (id, s) => s.accept xd pd pe (word (s.handle id))
        | none => s.refuse xd pd pe .full

/-- SPAWN (R243). -/
def execSpawn := spawnOp false
/-- SPAWN.loose (R243). -/
def execSpawnLoose := spawnOp true

/-- SPNR; a reply word in the shape record raises PROT as a store there does (R103, R247; log 16). -/
def execSpnr (g : Guard) (xa xb : XReg) (ev : EvSel) (s : State) : Host.Outcome State Fault Refusal :=
  guarded g [xa, xb, 1, 2, 3, 4] s fun s =>
    let t := (s.me.xr xa).toNat
    let a := s.me.xr xb
    if a.toNat % 8 ≠ 0 then s.trap .align a
    else if spadSize ≤ a.toNat then s.trap .addr a
    else if shapeBase < a.toNat + 8 then s.trap .prot a
    else match s.ringHit s.cur.core a.toNat 8 with
      | some i => s.trap .mbox (mboxAddr .fault (boxId s.chip s.cur.core i))
      | none =>
        let pa := localPa s.cur.core a.toNat
        if s.bridleHit s.cur.core s.chip pa 8 false then s.trap .range a
        else if s.portFull s.cur then s.stallOn .sendPort
        else (s.addItem (.spnr (fld t 16 10) (fld t 8 8) (fld t 0 8) s.me.firstFour pa) ev (decide (2 ^ 26 ≤ t))).commit

/-! ### End -/

/-- The thread at `t` exits: its slot goes FREE, its handler's tiles close, its commands lose their adds, its stopped
passes are abandoned, and a group whose last thread exits goes to EXITING with its name DEAD (R209, R248, R336). The tiles of its handler
close at once, with commands to them in flight too: R248 gives no time (log 109). -/
def State.exitThread (s : State) (t : Tid) : State :=
  let gen := (s.slot t).gen
  let grp := (s.thread t).group
  let h := s.handle t
  let s := (s.closeHandler t).dropVia (s.thread t).owed
  let s : State := { s with
    txs := s.txs.filter fun (e : Tx) => match e.what with | .ldn k _ => decide (k ≠ h) | _ => true,
    cores := s.cores.mapVals fun _ k =>
      { k with cmds := k.cmds.map fun (c : Cmd) => if c.tid = t ∧ c.gen = gen then { c with orphan := true } else c } }
  let s := s.leaveSlot t .exited
  match grp with
  | none => s
  | some n =>
    let s := s.modGroup n fun g => { g with tiles := g.tiles.mapVals fun _ x =>
      match x.pass with
      | some p => if p.tid = t ∧ p.gen = gen then x.abandon else x
      | none => x }
    if s.members n = 0 then (s.dirDead n).modGroup n fun g => { g with st := .exiting } else s

/-- EXIT (R248). -/
def execExit (g : Guard) (s : State) : Host.Outcome State Fault Refusal :=
  guarded g [] s fun s =>
    let me := s.cur
    if s.unacked me = 0 then s.exitThread me else (s.drainBuffers fun x => decide (x.tid = me)).stallOn .drained

/-- The test of JOIN: what it ends with, or none while it waits (R249). -/
def State.joinTest (s : State) (h : Nat) (xd : XReg) (pd pe : PReg) : Option State :=
  let t : Tid := { core := fld h 16 8, slot := fld h 8 8 }
  let x := s.slot t
  if x.st.live && decide (x.gen = fld h 0 8) then
    if x.th.ctx ≠ s.me.ctx then some (s.refuse xd pd pe .denied) else none
  else match x.dep with
    | some (gen, d, _) =>
      if gen ≠ fld h 0 8 then some (s.refuse xd pd pe .dead)
      else match d with
        | .exited => some (s.accept xd pd pe 0)
        | .moved n => some ((s.modMe fun m => (m.setX xd (word (2 ^ 62 + n))).setPP pd pe false).commit)
        | .saved => none
    | none => some (s.refuse xd pd pe .dead)

/-- JOIN (R249). -/
def execJoin (g : Guard) (xd : XReg) (pd pe : PReg) (xa : XReg) (s : State) : Host.Outcome State Fault Refusal :=
  guarded g [xd, xa] s fun s =>
    let h := (s.me.xr xa).toNat
    if 2 ^ 34 ≤ h then s.refuse xd pd pe .fault
    else if fld h 24 10 ≠ s.chip ∨ fld h 0 8 = 0 ∨ h = s.handle s.cur then s.refuse xd pd pe .denied
    else match s.joinTest h xd pd pe with
      | some s => s
      | none => s.blockOn (.join h xd pd pe)

/-! ### Priority and positions -/

/-- YIELD (R254). -/
def execYield (g : Guard) (b : Src) (s : State) : Host.Outcome State Fault Refusal :=
  guarded g (srcRegs b) s fun s =>
    let n := Nat.min (s.me.src b).toNat 255
    let cyc := s.me.lastIssue.getD s.myCore.cyc
    let s := s.commit.modMe fun t => { t with readyAt := cyc }
    if n = 0 then s
    else
      let x := s.slot s.cur
      s.setSlot s.cur { x with st := .stall, th := { x.th with wait := .retry (.rotations (cyc + 16 * n)) } }

/-- PRIO. A thread whose slot is still SAVING after the commit cycle of its eviction is changed in its record (R253, R259;
log 90). -/
def execPrio (g : Guard) (xd : XReg) (pd pe : PReg) (xa : XReg) (b : Src) (s : State) : Host.Outcome State Fault Refusal :=
  guarded g (xd :: xa :: srcRegs b) s fun s =>
    let q := (s.me.src b).toNat
    let h := (s.me.xr xa).toNat
    if 127 < q then s.refuse xd pd pe .fault
    else if h = 0 then
      let old := s.me.prio
      (s.modMe fun t => { t with prio := q }).accept xd pd pe (word old)
    else if 2 ^ 34 ≤ h then s.refuse xd pd pe .fault
    else if fld h 24 10 ≠ s.chip ∨ fld h 16 8 ≠ s.cur.core then s.refuse xd pd pe .denied
    else match s.byHandle h with
      | none => s.refuse xd pd pe .dead
      | some t =>
        if t.ctx ≠ s.me.ctx then s.refuse xd pd pe .denied
        else if !((s.slot (tidOf h)).st.live && decide ((s.slot (tidOf h)).gen = fld h 0 8)) then s.refuse xd pd pe .dead
        else (s.modHandle h fun t => { t with prio := q }).accept xd pd pe (word t.prio)

/-- The position a thread holds on a core (R235). -/
def Core.posOf (k : Core) (slot : Nat) : Option Nat := (k.resv.find fun _ o => o.1 = slot).map (·.1)

/-- SLOT: a thread that holds a reservation is answered DENIED, also where the position is taken: R255 gives no order (log 104). A new
reservation holds from the first cycle after the one it issued in whose number is a multiple of 16; the core's
cycle count has moved past the issue (R233, R255). -/
def execSlot (g : Guard) (xd : XReg) (pd pe : PReg) (b : Src) (s : State) : Host.Outcome State Fault Refusal :=
  guarded g (xd :: srcRegs b) s fun s =>
    let q := (s.me.src b).toNat
    let k := s.myCore
    let mine := k.posOf s.cur.slot
    if 5 < q then s.refuse xd pd pe .fault
    else if q = 5 then
      match mine with
      | none => s.refuse xd pd pe .fault
      | some p => (s.modMyCore fun k => { k with resv := k.resv.erase p }).accept xd pd pe (word p)
    else if mine.isSome then s.refuse xd pd pe .denied
    else
      let want := if q = 4 then k.resv.lowestFree 4 else if (k.resv.get? q).isNone then some q else none
      match want with
      | none => s.refuse xd pd pe .full
      | some p =>
        let slot := s.cur.slot
        let s := s.modMyCore fun k => { k with resv := k.resv.set p (slot, (k.cyc + 15) / 16 * 16) }
        (s.raiseFloor s.cur.core).accept xd pd pe (word p)

/-! ### Migration -/

/-- Forwarding entries of a core that are in use, of 32 (R133). -/
def Core.fwdFree (k : Core) : Option Nat := k.fwd.lowestFree 32

/-- MIGR's waits: no engine command of the thread, no unacknowledged store, and a forwarding entry when LDN replies
are owed (R131, R133, R250). -/
def State.mayMove (s : State) (t : Tid) : Bool :=
  !s.threadBusy t && decide (s.unacked t = 0) && ((s.thread t).owed.isEmpty || (s.core t.core).fwdFree.isSome)

/-- MIGR (R250). The core asked answers at MIGRATION_ARRIVAL. -/
def execMigr (g : Guard) (xd : XReg) (pd pe : PReg) (xa : XReg) (s : State) : Host.Outcome State Fault Refusal :=
  guarded g [xd, xa] s fun s =>
    if s.me.group.isSome then s.trap .bound s.me.pc
    else
      let c := (s.me.xr xa).toNat
      let me := s.cur
      if 255 < c then s.refuse xd pd pe .fault
      else if c = me.core then s.accept xd pd pe (word (s.handle me))
      else if !s.mayMove me then (s.drainBuffers fun x => decide (x.tid = me)).stallOn .engines
      else
        let s : State := { s with moves := s.moves ++ [{ tid := me, dest := c, xd := some xd, pd := pd, pe := pe }] }
        s.stallOp (.migr c xd)

/-! ### Event counters -/

/-- A SEMA of context `c` reaches the thread of handle `h`: its status (R252). Where the handle names the issuing thread in its
handler, the counters of the interrupted code get the add: R295 names only another thread, and the model takes the same (log 103). -/
def State.semaTo (s : State) (c h : Nat) (k : EReg) (n : Nat) : Status × State :=
  match (s.byHandle h).filter fun _ => s.knownAt h with
  | none => (.dead, s)
  | some t =>
    let v := if t.priv then t.eb[k] else t.e[k]
    if t.ctx ≠ c then (.denied, s)
    else if 65535 < v.toNat + n then (.full, s)
    else
      let v' := BitVec.ofNat 16 (v.toNat + n)
      (.ok, s.modHandle h fun t => if t.priv then { t with eb := t.eb.set k v' } else { t with e := t.e.set k v' })

/-- The executing thread's SEMA is answered. -/
def State.semaDone (s : State) (h : Nat) (k : EReg) (n : Nat) (xd : XReg) (pd pe : PReg) : State :=
  match s.semaTo s.me.ctx h k n with
  | (.ok, s) => s.accept xd pd pe 0
  | (st, s) => s.refuse xd pd pe st

/-- SEMA (R252). With h = 0 it adds to the counters in view (R295); a target on this core is reached at once. -/
def execSema (g : Guard) (xd : XReg) (pd pe : PReg) (k : EReg) (xa : XReg) (b : Src) (s : State) :
    Host.Outcome State Fault Refusal :=
  guarded g (xd :: xa :: srcRegs b) s fun s =>
    let h := (s.me.xr xa).toNat
    let n := (s.me.src b).toNat
    if 65535 < n then s.refuse xd pd pe .fault
    else if h = 0 then
      if 65535 < s.me.e[k].toNat + n then s.trap .evovf (word k.val)
      else (s.modMe fun t => { t with e := t.e.set k (t.e[k] + BitVec.ofNat 16 n) }).accept xd pd pe 0
    else if 2 ^ 34 ≤ h then s.refuse xd pd pe .fault
    else if fld h 24 10 ≠ s.chip then s.refuse xd pd pe .denied
    else if fld h 16 8 = s.cur.core then s.semaDone h k n xd pd pe
    else s.stallOp (.sema h k n xd pd pe)

/-! ### Channels -/

/-- The channel a record of 32 bytes describes; none when it breaks R246. -/
def State.chanOf (s : State) (core c : Nat) (d : List Byte) : Option Chan :=
  let entry := word (getLe d 0 8)
  let grp := getLe d 8 4
  let prio := getLe d 12 1
  let fl := getLe d 13 1
  let loose := bitN fl 0
  let groupOk := match s.groups.get? grp with
    | some g => decide (g.ctx = c) && decide (g.core = core) && decide (g.st = GroupSt.running) && realGroup grp
    | none => false
  if ((d.drop 14).all fun b => b = 0) && decide (fl < 4) && decide (prio < 128) && pcOk entry
      && (if loose then decide (grp = 0) else groupOk) then
    some { ctx := c, entry := entry, group := grp, prio := prio, loose := loose, blocked := bitN fl 1 }
  else none

/-- The core and index a CHAN names, with the FAULT of R246. -/
def chanKey (s : State) (xd : XReg) (pd pe : PReg) (k : Word) (f : Nat → Nat → State) : State :=
  if 65536 ≤ k.toNat then s.refuse xd pd pe .fault else f (fld k.toNat 8 8) (fld k.toNat 0 8)

/-- The executing thread's context holds the entry; DENIED otherwise (R245, R246). -/
def State.ownChan (s : State) (core i : Nat) : Option Chan :=
  ((s.core core).chans.get? i).filter fun c => decide (c.ctx = s.me.ctx)

/-- CHAN install at the core named (R246). Where several refusals apply R246 gives no order, and the model takes DENIED, FAULT and
QUOTA in that order (log 104). -/
def State.installChan (s : State) (core i : Nat) (d : List Byte) (xd : XReg) (pd pe : PReg) : State :=
  let c := s.me.ctx
  let k := s.core core
  let held := (k.chans.filter fun e => e.2.ctx = c).length
  if (k.chans.get? i).any fun o => o.ctx ≠ c then s.refuse xd pd pe .denied
  else match s.chanOf core c d with
    | none => s.refuse xd pd pe .fault
    | some ch =>
      if (k.chans.get? i).isNone && decide ((s.ctx c).quota.chans ≤ held) then s.trap .quota 0
      else (s.modCore core fun k => { k with chans := k.chans.set i ch }).accept xd pd pe 0

/-- The other modes at the core named: an entry of the context, changed by `f` or removed, with a result (R245, R246). -/
def State.changeChan (s : State) (core i : Nat) (f : Chan → Option Chan) (r : Chan → Word) (xd : XReg) (pd pe : PReg) : State :=
  match s.ownChan core i with
  | none => s.refuse xd pd pe .denied
  | some c =>
    (s.modCore core fun k => { k with chans := match f c with
      | some c => k.chans.set i c
      | none => k.chans.erase i }).accept xd pd pe (r c)

/-- A CHAN is done at the core it names, and answered (R245, R246). -/
def State.chanDone (s : State) (r : ChanReq) (core i : Nat) (xd : XReg) (pd pe : PReg) : State :=
  match r with
  | .install d => s.installChan core i d xd pd pe
  | .block => s.changeChan core i (fun c => some { c with blocked := true }) (fun _ => 0) xd pd pe
  | .unblock => s.changeChan core i (fun c => some { c with blocked := false }) (fun _ => 0) xd pd pe
  | .remove => s.changeChan core i (fun _ => none) (fun _ => 0) xd pd pe
  | .query => s.changeChan core i some (fun c => c.entry) xd pd pe

/-- The thread's own core is asked at once; another core answers at LOAD_REPLY, and the thread waits in STALL (R246). -/
def State.askChan (s : State) (r : ChanReq) (core i : Nat) (xd : XReg) (pd pe : PReg) : State :=
  if core = s.cur.core then s.chanDone r core i xd pd pe else s.stallOp (.chan r core i xd pd pe)

/-- CHAN with mode install (R246). -/
def execChanInstall (g : Guard) (xd : XReg) (pd pe : PReg) (xa : XReg) (b : Src) (s : State) :
    Host.Outcome State Fault Refusal :=
  guarded g (xd :: xa :: srcRegs b) s fun s =>
    chanKey s xd pd pe (s.me.src b) fun core i =>
      let ea := s.me.xr xa
      match s.check ea 32 32 .ld with
      | .stop s => s
      | .go t s => s.readRecord ea t 32 fun d s => s.askChan (.install d) core i xd pd pe

/-- The other modes of CHAN (R245, R246). -/
def chanOp (r : ChanReq) (g : Guard) (xd : XReg) (pd pe : PReg) (b : Src) (s : State) : Host.Outcome State Fault Refusal :=
  guarded g (xd :: srcRegs b) s fun s =>
    chanKey s xd pd pe (s.me.src b) fun core i => s.askChan r core i xd pd pe

/-- CHAN with mode block (R245). -/
def execChanBlock := chanOp .block
/-- CHAN with mode unblock (R245). -/
def execChanUnblock := chanOp .unblock
/-- CHAN with mode remove (R245). -/
def execChanRemove := chanOp .remove
/-- CHAN with mode query (R246). -/
def execChanQuery := chanOp .query

end Sys2Proof.Machine
end

