-- ==== Sys2Proof/Machine/Engine.lean ====
section
/-! DEFINITION. Engine commands: ports and tags (15_port R366, R367), the Bridle (R370 to R373), the checks of their
ranges (R376), their issue, their reads and their completion (R368, R369; 04_order R127, R128). -/

namespace Sys2Proof.Machine

/-! ### Commands -/

/-- Command `id` of a core. -/
def State.cmd? (s : State) (core id : Nat) : Option Cmd := (s.core core).cmds.find? fun c => c.id = id

/-- `s` with `f` applied to command `id` of a core. -/
def State.modCmd (s : State) (core id : Nat) (f : Cmd → Cmd) : State :=
  s.modCore core fun k => { k with cmds := k.cmds.map fun c => if c.id = id then f c else c }

/-- Bytes of an element of an operand format (R330). -/
def fmtBytes (code : Nat) : Nat := if code = 1 then 2 else 1

/-- A and B formats and accumulate mode of sr.mfmt (R328). -/
def mfA (v : Word) : Nat := fld v.toNat 0 4
def mfB (v : Word) : Nat := fld v.toNat 4 4
def mfAcm (v : Word) : Bool := bitN v.toNat 8

/-- E4M3 or E5M2. -/
def isFp8 (code : Nat) : Bool := decide (code = 8) || decide (code = 9)

/-- Bridle entries a command takes (R371). -/
def CmdOp.entries : CmdOp → Nat
  | .cpy _ _ _ _ _ _ | .cpy2 _ _ _ _ _ _ _ _ _ | .cpyw _ _ _ _ _ | .cpyr _ _ _ _ _ _ _ => 2
  | .cpym _ _ _ cores _ _ => 1 + cores.length
  | .fill _ _ _ _ _ | .tload _ _ _ _ _ _ _ _ | .tstore _ _ _ _ _ _ _ _ | .tsave _ _ _ _ | .trest _ _ _ _ => 1
  | .mma _ p _ => if isFp8 (mfA p.fmt) then 4 else 2
  | .mcnt _ _ _ => 2
  | .marker | .mmrg | .mdrn _ _ _ _ _ _ | .mclr _ => 0

/-- The tile a command names in its table, as far as it queues on it (R325, R357). -/
def CmdOp.tile? : CmdOp → Option Nat
  | .tload _ t _ _ _ _ _ _ | .tstore _ t _ _ _ _ _ _ | .mma t _ _ | .tsave t _ _ _ | .trest t _ _ _ | .mdrn _ t _ _ _ _ => some t
  | _ => none

/-- The command writes the entries of its tile (R325). -/
def CmdOp.writesTile : CmdOp → Bool
  | .tload _ _ _ _ _ _ _ _ | .mma _ _ _ | .trest _ _ _ _ | .mdrn _ _ _ _ _ _ => true
  | _ => false

/-- The command is a TSAVE. -/
def CmdOp.saves : CmdOp → Bool
  | .tsave _ _ _ _ => true
  | _ => false

/-- The banks of the counting array a command queues on (R357). -/
def CmdOp.banks : CmdOp → List Nat
  | .mcnt b _ _ | .mdrn b _ _ _ _ _ | .mclr b => [b]
  | .mmrg => [0, 1]
  | _ => []

/-- The command queues on tile `t` of table `own`. -/
def Cmd.onTile (c : Cmd) (own t : Nat) : Bool := decide (c.own = own) && decide (c.op.tile? = some t)

/-- Entries of a core's Bridle in use (R370). -/
def Core.bridleUsed (k : Core) : Nat := (k.cmds.map fun c => c.op.entries).sum

/-- Commands of one port in flight (R366). -/
def Core.portCount (k : Core) (copy : Bool) : Nat := (k.cmds.filter fun c => c.copy = copy).length

/-- Commands of the thread at `t` in flight (R367). -/
def State.cmdsOf (s : State) (t : Tid) : List Cmd :=
  s.cores.flatMap fun k => k.2.cmds.filter fun c => decide (c.tid = t) && decide (c.gen = (s.slot t).gen)

/-- Bridle entries that are free for the thread at `t`: those that earlier stalled commands need are not (R372). -/
def State.bridleFor (s : State) (t : Tid) : Nat :=
  let k := s.core t.core
  64 - k.bridleUsed - ((k.bwaits.takeWhile fun w => w.tid ≠ t).map (·.need)).sum

/-- A tag, room in the port's queue and `need` Bridle entries are there (R367, R372). -/
def State.portRoom (s : State) (t : Tid) (copy : Bool) (need : Nat) : Bool :=
  decide ((s.cmdsOf t).length < 64) && decide ((s.core t.core).portCount copy < (if copy then 128 else 64))
  && decide (need ≤ s.bridleFor t)

/-- The executing thread's command has its room, or the thread waits for it in STALL (R367, R372). -/
def State.engRoom (s : State) (copy : Bool) (need : Nat) (k : State → State) : State :=
  let me := s.cur
  if s.portRoom me copy need then k s
  else
    let s := if need ≤ s.bridleFor me ∨ (s.myCore.bwaits.any fun w => w.tid = me) then s
      else s.modMyCore fun k => { k with bwaits := k.bwaits ++ [{ tid := me, need := need }] }
    s.stallOn (.port copy need)

/-! ### Ranges -/

/-- What a range of a command is for. -/
inductive EngUse where
  /-- source of a copy -/
  | src
  /-- source of a CPYW -/
  | srcW
  /-- operand B of a pass -/
  | opnd
  | dst
  | dstW
  /-- destination of a CPYR -/
  | dstR
deriving DecidableEq, Repr

/-- The permission a range needs (R376). -/
def EngUse.perm : EngUse → Perm
  | .src | .srcW | .opnd => .read
  | _ => .write

/-- The checks of the target of a range beyond R404. Another chip's weight store is refused by that chip (R95, R107, R380,
R382). -/
def State.engPlace (s : State) (u : EngUse) (pte : Nat) (t : Target) : Option Cause :=
  match place t.pa with
  | .hbm => match u with
    | .dstW => some .addr
    | .dstR => if pteA pte then none else some .prot
    | _ => none
  | .spad _ _ => if u = .dstW then some .addr else none
  | .wstore _ =>
    let own := decide (t.chip = s.chip)
    match u with
    | .src | .opnd => if own && !s.wsReadable s.me.ctx t.pa then some .prot else none
    | .srcW => some .addr
    | .dstW =>
      if !own then none
      else match s.regionAt t.pa with
        | some (_, r) => if r.ctx = s.me.ctx ∧ r.serving = false then none else some .wsw
        | none => some .wsw
    | _ => if own then some .wsw else none
  | .ctl => some .prot
  | .none => some .addr

/-- A shootdown of the page waits for this core, or the page is moving: a command that would register a range in it
waits at issue (R410, R411). -/
def State.pageBusy (s : State) (core ctx va : Nat) : Bool :=
  (s.shoots.any fun h => decide (h.ctx = ctx) && decide (h.va ≤ va) && decide (va < h.va + h.size) && h.cores.contains core)
  || s.moving.any fun m => decide (m.ctx = ctx) && decide (m.va ≤ va) && decide (va < m.va + m.size) && !m.ended

/-- A translation at the issue of a command, from the walks it has waited for or from the TLBs: a range can have more pages than a
TLB holds at once (R376, R406; log 20). -/
def State.xlateEng (s : State) (a : Nat) : Xlated :=
  match s.me.pages.find? fun e => e.covers s.me.ctx a with
  | some e => .ok e s
  | none => s.xlate a

/-- What the checks of a range end with. -/
inductive Ranged where
  | ok (l : List Seg) (s : State)
  | stop (s : State)
deriving DecidableEq, Repr

/-- The open ring of the executing core that a target touches (R163). -/
def State.ownRing (s : State) (t : Target) (n : Nat) : Option Nat :=
  match place t.pa with
  | .spad core off => if t.chip = s.chip ∧ core = s.cur.core then s.ringHit core off n else none
  | _ => none

/-- Bytes of a page, up to `m`, that lie in one scratchpad or one 256 KiB of weight store from `pa`. -/
def spanAt (pa m : Nat) : Nat :=
  match place pa with
  | .spad _ off => Nat.min m (spadSize - off)
  | .wstore off => Nat.min m (0x40000 - off % 0x40000)
  | _ => m

/-- The checks 2 to 6 of R273 for every page of a range, in rising order, as a command makes them at issue
(R376, R408). `fuel` bounds the pages. -/
def State.rangeFrom (s : State) (u : EngUse) : Nat → Nat → Nat → List Seg → Ranged
  | 0, _, _, acc => .ok acc.reverse s
  | fuel + 1, va, n, acc =>
    if n = 0 then .ok acc.reverse s
    else if 2 ^ 48 ≤ va then .stop (s.trap .addr (word va))
    else if va < spadSize then
      if shapeBase < va + n then .stop (s.trap .prot (word (Nat.max va shapeBase)))
      else if u = .dstW then .stop (s.trap .addr (word va))
      else
        let t : Target := { chip := s.chip, pa := localPa s.cur.core va, bwc := none, loc := true }
        match s.ownRing t n with
        | some i => .stop (s.trap .mbox (mboxAddr .fault (boxId s.chip s.cur.core i)))
        | none => .ok (({ va := va, len := n, tgt := t } : Seg) :: acc).reverse s
    else if s.pageBusy s.cur.core s.me.ctx va then .stop (s.stallOn (.shoot va))
    else match s.xlateEng va with
      | .wait s => .stop s
      | .fault c _ s => .stop (s.trap c (word va))
      | .ok e s =>
        let pa := e.pa va
        let t : Target := { chip := pteChip e.pte.toNat, pa := pa, bwc := some (pteBwc e.pte.toNat), loc := false }
        match (permCheck s s.me.ctx e.pte.toNat pa u.perm).or (s.engPlace u e.pte.toNat t) with
        | some c => .stop (s.trap c (word va))
        | none =>
          let m := spanAt pa (Nat.min n (e.va + e.size - va))
          match s.ownRing t m with
          | some i => .stop (s.trap .mbox (mboxAddr .fault (boxId s.chip s.cur.core i)))
          | none => s.rangeFrom u fuel (va + m) (n - m) ({ va := va, len := m, tgt := t } :: acc)

/-- The translated segments of [va, va + n). -/
def State.range (s : State) (u : EngUse) (va n : Nat) : Ranged :=
  s.rangeFrom u (n / 4096 + 2) va n []

/-- `k` after the checks of a range. -/
def State.rangeThen (s : State) (u : EngUse) (va n : Nat) (k : List Seg → State → State) : State :=
  match s.range u va n with
  | .stop s => s
  | .ok l s => k l s

/-- The target of a virtual address in segments. -/
def segAt (l : List Seg) (va : Nat) : Option Target :=
  (l.find? fun g => decide (g.va ≤ va) && decide (va < g.va + g.len)).map fun g =>
    { g.tgt with pa := g.tgt.pa + (va - g.va) }

/-- Locks of segments (R370). -/
def locksOf (dst : Bool) (l : List Seg) : List Lock :=
  l.map fun g => { dst := dst, chip := g.tgt.chip, lo := g.tgt.pa / 64, hi := (g.tgt.pa + g.len - 1) / 64 }

/-- A segment of the local window of a core of this chip. -/
def State.localSeg (s : State) (core va n : Nat) : Seg :=
  { va := va, len := n, tgt := { chip := s.chip, pa := localPa core va, bwc := none, loc := true } }

/-- The first byte of a destination that a source shares (R376). -/
def overlapVa (dst src : List Seg) : Option Nat :=
  let hits := dst.flatMap fun d => src.filterMap fun g =>
    if d.tgt.chip = g.tgt.chip ∧ d.tgt.pa < g.tgt.pa + g.len ∧ g.tgt.pa < d.tgt.pa + d.len then
      some (d.va + (Nat.max d.tgt.pa g.tgt.pa - d.tgt.pa))
    else none
  hits.min?

/-- Two locks of which one is a destination name a common line (R373). -/
def Lock.clash (a b : Lock) : Bool :=
  (a.dst || b.dst) && decide (a.chip = b.chip) && decide (a.lo ≤ b.hi) && decide (b.lo ≤ a.hi)

/-! ### Issue -/

/-- The lowest free tag of the thread at `t` (R367). -/
def State.freeTag (s : State) (t : Tid) : Nat :=
  let used := (s.cmdsOf t).map (·.tag)
  ((List.range 64).find? fun i => !used.contains i).getD 0

/-- The executing thread's command is queued at its port with its entries made; `front` names the tile ahead of whose
queued commands it goes (R336, R342). Its tag comes with it. -/
def State.addCmd (s : State) (copy : Bool) (op : CmdOp) (dn : Done) (locks : List Lock) (bar : Option (Nat × Nat))
    (own : Nat) (front : Option Nat) : Nat × State :=
  let me := s.cur
  let tag := s.freeTag me
  let gen := (s.slot me).gen
  let c : Cmd :=
    { id := s.myCore.nextCmd, copy := copy, op := op, tid := me, gen := gen, orphan := false, ctx := s.me.ctx, group := s.me.group,
      launch := s.me.launch, tag := tag, dn := dn, priv := s.me.priv, locks := locks, bar := bar,
      after := (s.stores.filter fun x => decide (x.tid = me) && decide (x.gen = gen) && decide (x.phase ≠ Phase.done)).map (·.id),
      started := false, words := [], buf := [], did := false, own := own, fail := none }
  let there := fun (d : Cmd) => match front with | some t => d.onTile own t | none => false
  (tag, s.modMyCore fun k =>
    { k with cmds := k.cmds.takeWhile (fun d => !there d) ++ c :: k.cmds.dropWhile (fun d => !there d),
             nextCmd := k.nextCmd + 1, bwaits := k.bwaits.filter fun w => w.tid ≠ me })

/-- After its issue an asynchronous form commits, and a .w form waits in STALL (R326, R376). -/
def State.cmdIssued (s : State) (dn : Done) (tag : Nat) : State :=
  match dn with
  | .async _ => s.commit
  | .wait => s.stallOp (.cmd tag)

/-! ### Start (R127, R373, R383) -/

/-- Every store the thread made before the command has been performed at home (R127). -/
def State.afterDone (s : State) (c : Cmd) : Bool :=
  c.after.all fun id => s.stores.all fun x => decide (x.id ≠ id) || decide (x.phase = Phase.done)
    || (match x.phase with | .refused _ => true | _ => false)

/-- A command of length 0 (R383). -/
def Cmd.isMarker (c : Cmd) : Bool := decide (c.op = CmdOp.marker)

/-- The port may release the command: R127 is met, no earlier command holds it by its ranges, and no earlier command
of its port is held (R373). -/
def State.mayStart (s : State) (core : Nat) (c : Cmd) : Bool :=
  let earlier := (s.core core).cmds.filter fun d => d.id < c.id
  s.afterDone c && (c.isMarker ||
    (earlier.all fun d => (decide (d.copy ≠ c.copy) || d.started || d.isMarker)
      && !(d.locks.any fun a => c.locks.any fun b => Lock.clash a b)))

/-! ### Reads of a command -/

/-- [va, va + n) cut at 64-byte lines. -/
def cut (va n : Nat) : List (Nat × Nat) := cutBy 64 va n

/-- Bytes of a piece of a command's reads: lines, or the 16 bytes on which an MCNT's columns are aligned (R360). -/
def CmdOp.grain : CmdOp → Nat
  | .mcnt _ _ _ => 16
  | _ => 64

/-- Number of elements K of a K code (R337). -/
def kLen : KCode → Nat
  | .k32 => 32 | .k64 => 64 | .k128 => 128

/-- Bytes of an element of TLOAD and TSTORE (R343). -/
def TFmt.size : TFmt → Nat
  | .f32 => 4
  | _ => 2

/-- Runs of consecutive bytes of a column range in memory: address and first entry (row, column) (R343). -/
def tileRuns (f : TFmt) (xa xb nc : Nat) (rmaj : Bool) : List (Nat × Nat) :=
  if rmaj then (List.range 128).map fun i => (xa + i * xb, nc * TFmt.size f)
  else (List.range nc).map fun c => (xa + c * xb, 128 * TFmt.size f)

/-- What a command reads, apart from rows and scales in the local window: pieces by virtual address. -/
def CmdOp.reads : CmdOp → List (Nat × Nat)
  | .cpy _ sa len _ _ _ | .cpym _ sa len _ _ _ | .cpyw _ sa len _ _ | .cpyr _ _ sa len _ _ _ => cut sa len
  | .cpy2 _ sa rows rl _ ss _ _ _ => ((List.range rows).flatMap fun r => cut (sa + r * ss) rl).eraseDups
  | .tload f _ xa xb _ nbm rmaj _ => ((tileRuns f xa xb (32 * (nbm + 1)) rmaj).flatMap fun r => cut r.1 r.2).eraseDups
  | .trest _ xa segs _ => cut (xa + 2048) ((segs.map (·.len)).sum - 2048)
  | .mma _ p from_ =>
    let e := fmtBytes (mfB p.fmt)
    ((List.range (32 * (p.nbm + 1))).flatMap fun j =>
      cut (p.xb.toNat + j * p.xc.toNat + 32 * e * from_) ((kLen p.k - 32 * from_) * e)).eraseDups
  | .mcnt _ _ p => ((List.range (32 * (p.nbm + 1))).flatMap fun j => cutBy 16 (p.xb.toNat + j * p.xc.toNat) (kLen p.k / 2)).eraseDups
  | _ => []

/-- Row address of an index of a descriptor; none for a zero row (R330). -/
def Desc.row (d : Desc) (i : Nat) : Option Nat :=
  let x := d.idx.getD i 0xFFFF
  if x = 0xFFFF then none else some (d.base.toNat + x.toNat * d.stride.toNat)

/-- Row addresses of a descriptor in rising position. -/
def Desc.rows (d : Desc) : List Nat := (List.range 128).filterMap d.row

/-- Bytes of a row of operand A for an MMA, and of a column of B. -/
def Pass.aLen (p : Pass) : Nat := kLen p.k * fmtBytes (mfA p.fmt)
def Pass.bLen (p : Pass) : Nat := kLen p.k * fmtBytes (mfB p.fmt)

/-- What a command reads in the local window of its core: the rows of operand A, and the scales of an FP8 pass, by the aligned
8-byte words that hold them (R329, R330). -/
def CmdOp.locals : CmdOp → List (Nat × Nat)
  | .mma _ p _ => (p.desc.rows.map fun r => (r, p.aLen)).eraseDups
      ++ (if isFp8 (mfA p.fmt) && p.sa.isEmpty then [(p.ascl.toNat, 512), (p.bscl.toNat / 8 * 8, 8)] else [])
  | .mcnt _ _ p => (p.desc.rows.map fun r => (r, kLen p.k / 2)).eraseDups
  | _ => []

/-- Source segments of a command. -/
def CmdOp.srcSegs : CmdOp → List Seg
  | .cpy _ _ _ _ src _ | .cpy2 _ _ _ _ _ _ _ src _ | .cpym _ _ _ _ src _ | .cpyw _ _ _ _ src | .cpyr _ _ _ _ _ src _ => src
  | .tload _ _ _ _ _ _ _ segs | .trest _ _ segs _ => segs
  | .mma _ p _ | .mcnt _ _ p => p.segs
  | _ => []

/-- Destination segments of a command that is no CPYM. -/
def CmdOp.dstSegs : CmdOp → List Seg
  | .cpy _ _ _ dst _ _ | .cpy2 _ _ _ _ _ _ dst _ _ | .cpyw _ _ _ dst _ | .fill _ _ _ dst _ | .cpyr _ _ _ _ dst _ _ => dst
  | .tstore _ _ _ _ _ _ _ segs | .tsave _ _ segs _ => segs
  | _ => []

/-- The pod handle of the thread that issued a command. -/
def State.cmdHnd (s : State) (c : Cmd) : Nat := handleOf s.chip c.tid.core c.tid.slot c.gen

/-- The packet tag of a read of a command at `va`, and of a write. -/
def readKey (va : Nat) : Nat := 2 * va
def writeKey (va : Nat) : Nat := 2 * va + 1

/-- The command starts: reads of other chips go out as packets (R373, R425). -/
def State.startCmd (s : State) (core : Nat) (c : Cmd) : State :=
  let s := s.modCmd core c.id fun c => { c with started := true }
  let segs := c.op.srcSegs
  if segs.all fun g => g.tgt.chip = s.chip then s
  else c.op.reads.foldl (fun s p =>
    match segAt segs p.1 with
    | some t =>
      if t.chip = s.chip then s
      else s.sendTx c.ctx (.word core c.id (readKey p.1))
        (s.packet .rd t.chip (s.ctx c.ctx).tag (s.cmdHnd c) t.bwc .plain t.pa p.2 0 [])
    | none => s) s

/-- A packet of a command is answered (R369, R434). -/
def State.wordReply (s : State) (core id w : Nat) (st : Status) (d : List Byte) : State :=
  s.modCmd core id fun c =>
    { c with buf := if w % 2 = 0 then c.buf.set (w / 2) (st, d) else c.buf,
             fail := if st = .ok ∨ c.fail.isSome then c.fail else some (st, word (w / 2)) }

/-- What a read of a command gives. -/
inductive Got where
  | data (d : List Byte) (s : State)
  | later (s : State)
  | err (st : Status) (s : State)
deriving DecidableEq, Repr

/-- Another word of the line at an address has been read by the command: its class has paid for the line (R208). -/
def Cmd.readPaid (c : Cmd) (va : Nat) : Bool := (List.range 8).any fun i => (c.buf.get? (va / 64 * 64 + 8 * i)).isSome

/-- A word of a source read at its home on this chip, or a piece as its packet brought it (R116, R127, R331). -/
def State.engRead (s : State) (core : Nat) (c : Cmd) (t : Target) (va n : Nat) : Got :=
  if t.chip ≠ s.chip then
    match c.buf.get? va with
    | some (.ok, d) => .data d s
    | some (st, _) => .err st s
    | none => .later s
  else match s.gateFor core (.word core c.id (readKey va)) c.ctx (if c.readPaid va then { t with bwc := none } else t) n 64 false with
    | .later s => .later s
    | .full => .later s
    | .refused st => .err st s
    | .go pa s => if s.eccHit pa n then .err .fault s else .data (s.bytes pa n) s

/-- Where a command finds what it reads at `va`: in its source's pages, or for rows and scales in the local window. -/
def Cmd.sourceAt (c : Cmd) (chip core va : Nat) : Option Target :=
  (segAt c.op.srcSegs va).or (if va < spadSize then some { chip := chip, pa := localPa core va, bwc := none, loc := true } else none)

/-- What a command reads: each aligned 8-byte word on this chip by itself, and the pieces that other chips send (R116). -/
def CmdOp.readList (chip : Nat) (op : CmdOp) : List (Nat × Nat) :=
  (op.locals.flatMap fun p => cutBy 8 p.1 p.2) ++ op.reads.flatMap fun p => match segAt op.srcSegs p.1 with
    | some t => if t.chip = chip then cutBy 8 p.1 p.2 else [p]
    | none => []

/-- One word or piece taken into the command's buffer; false while it must wait. A failure is recorded, and counts as read. -/
def State.takeWord (s : State) (core id : Nat) (p : Nat × Nat) : Bool × State :=
  match s.cmd? core id with
  | none => (false, s)
  | some c =>
    if (c.buf.get? p.1).isSome then (true, s)
    else match c.sourceAt s.chip core p.1 with
      | none => (true, s)
      | some t => match s.engRead core c t p.1 p.2 with
        | .later s => (false, s)
        | .data d s => (true, s.modCmd core id fun c => { c with buf := c.buf.set p.1 (.ok, d) })
        | .err st s => (true, s.modCmd core id fun c =>
            { c with buf := c.buf.set p.1 (st, []), fail := c.fail.or (some (st, word p.1)) })

/-- Everything a command reads is taken into its buffer as far as the homes allow; true when all is there. -/
def State.gather (s : State) (core id : Nat) : Bool × State :=
  match s.cmd? core id with
  | none => (false, s)
  | some c =>
    (c.op.readList s.chip).foldl (fun r p =>
      let (ok, s) := r.2.takeWord core id p
      (r.1 && ok, s)) (true, s)

/-- Bytes of a word that a command has read; a failing one brought free bytes (R347; log 10). -/
def Cmd.wordBytes (c : Cmd) (va n : Nat) : List Byte :=
  match c.buf.get? va with
  | some (.ok, d) => d
  | _ => (List.range n).map fun i => Config.failedByte c.id (va + i)

/-- Bytes of [va, va + n) from what a command has read: a piece that another chip sent, or words (R347; log 10). -/
def Cmd.bufBytes (c : Cmd) (va n : Nat) : List Byte :=
  (cutBy c.op.grain va n).flatMap fun p => match c.buf.get? p.1 with
    | some (.ok, d) => if d.length = p.2 then d else (cutBy 8 p.1 p.2).flatMap fun q => c.wordBytes q.1 q.2
    | _ => (cutBy 8 p.1 p.2).flatMap fun q => c.wordBytes q.1 q.2

/-- The bytes of a piece are all there, and none failed. -/
def Cmd.hasPiece (c : Cmd) (p : Nat × Nat) : Bool :=
  match c.buf.get? p.1 with
  | some (.ok, d) => decide (d.length = p.2) || (cutBy 8 p.1 p.2).all fun q => match c.buf.get? q.1 with
    | some (st, _) => decide (st = .ok)
    | none => false
  | _ => false

/-- What a write of a command meets. -/
inductive Put where
  | done (s : State)
  | later (s : State)
  | err (st : Status) (s : State)
deriving DecidableEq, Repr

/-- Every granule of a line is set full (R374). -/
def State.fillLineBits (s : State) (pa n : Nat) : State :=
  (List.range (n / 16)).foldl (fun s i => s.fill (pa + 16 * i)) s

/-- The bytes a command leaves where it writes `d`: after a failure each is the new one or the old one, as a free choice
says (R369; log 10). -/
def State.mixed (s : State) (c : Cmd) (va pa : Nat) (d : List Byte) : List Byte :=
  if c.fail.isNone then d
  else d.zipIdx.map fun e => if Config.keptOld c.id (va + e.2) then s.byte (pa + e.2) else e.1

/-- A write packet of the command to some of these bytes of another chip has not been answered: it might still be sent again, so a later
write to them waits (R378, R343, R413). -/
def State.writeOut (s : State) (core id : Nat) (t : Target) (n : Nat) : Bool :=
  s.txs.any fun x => match x.what with
    | .word k i w => decide (k = core) && decide (i = id) && decide (w % 2 = 1) && decide (x.pkt.dst = t.chip)
        && decide (x.pkt.addr < t.pa + n) && decide (t.pa < x.pkt.addr + x.pkt.bytes)
    | _ => false

/-- Bytes written at their home by a command: on this chip now, with full bits when asked, or in a packet whose answer
the command waits for. `paid`: its class has paid for the line (R208, R374, R425). -/
def State.engWrite (s : State) (core : Nat) (c : Cmd) (t : Target) (va : Nat) (d : List Byte) (full paid : Bool) : Put :=
  if t.chip ≠ s.chip then
    if s.writeOut core c.id t d.length then .later s
    else .done (s.sendTx c.ctx (.word core c.id (writeKey va))
      (s.packet .wr t.chip (s.ctx c.ctx).tag (s.cmdHnd c) t.bwc (if full then .stf else .plain) t.pa d.length 0 d))
  else match s.gateFor core (.word core c.id (writeKey va)) c.ctx (if paid then { t with bwc := none } else t) d.length 64 true with
    | .later s => .later s
    | .full => .later s
    | .refused st => .err st s
    | .go pa s =>
      let s := s.storeFor c.ctx pa (s.mixed c va pa d)
      .done (if full then s.fillLineBits pa d.length else s)

/-! ### Completion -/

/-- The HBM4E destination lines of a command leave the issuing core's cluster cache (R128). -/
def State.dropDst (s : State) (core : Nat) (c : Cmd) : State :=
  let ls := c.locks.filter (·.dst)
  if ls.isEmpty then s
  else s.modCluster (clusterOf core) fun k =>
    { k with lines := k.lines.filter fun l => !(ls.any fun a =>
        decide (a.chip = l.1) && decide (a.lo ≤ l.2.1 / 64) && decide (l.2.1 / 64 ≤ a.hi)) }

/-- The thread of a command waits for it in its .w form. -/
def State.cmdWaiter (s : State) (c : Cmd) : Bool :=
  let x := s.slot c.tid
  x.st.live && decide (x.gen = c.gen) && decide (x.th.wait = .op (.cmd c.tag))

/-- The failure of a completed command: its record, PORTQ, and the trap (R347, R349, R369). -/
def State.cmdFailed (s : State) (c : Cmd) (st : Status) (va : Word) : State :=
  let cause := replyCause st
  let s := s.record c.ctx 2 (cmdItem c.tid c.gen c.dn c.tag) st (causeCode cause) 0 va
  if c.orphan then s
  else
    let h := s.cmdHnd c
    let waits := s.cmdWaiter c
    let s := s.modHandle h fun t => { t with failed := some (st, c.tag), failNew := true }
    if waits then ((s.at_ c.tid).trap cause va).at_ s.cur else s.raise h cause va

/-- The group on which the counting array's last command has completed gives the array up when both banks are EMPTY
(R350). -/
def Core.releaseArray (k : Core) : Core :=
  let idle := fun (b : CountBank) => decide (b.meter = 0) && b.key.isNone
  if k.holder.isSome && idle k.bank0 && idle k.bank1 && !(k.cmds.any fun c => !c.op.banks.isEmpty) then k.freeArray else k

/-- The command completes: entries, barrier bytes, event counter or .w wait, tag (R368). -/
def State.finishCmd (s : State) (core : Nat) (c : Cmd) : State :=
  let s := s.dropDst core c
  let s := s.modCore core fun k => { k with cmds := k.cmds.filter fun d => d.id ≠ c.id }
  let s := s.modCore core fun k => if c.op.banks.isEmpty then k else k.releaseArray
  let s := match c.bar with | some (pa, n) => if (s.ringHit core (pa % spadSize) 16).isSome then s else s.barSub pa n | none => s
  let waits := s.cmdWaiter c
  let s := match c.fail with | some (st, va) => s.cmdFailed c st va | none => s
  let s := match c.dn with
    | .async e => if c.orphan then s else s.addEvent (s.cmdHnd c) e c.priv
    | .wait => s
  if waits && c.fail.isNone then ((s.at_ c.tid).commit).at_ s.cur else s

/-- An answer to a packet of the command is still out. -/
def State.cmdOut (s : State) (core id : Nat) : Bool :=
  s.txs.any fun t => match t.what with | .word k i _ => decide (k = core) && decide (i = id) | _ => false

/-- The engines of a core make progress: it is clocked, and neither paused nor stopped (R153, R445). -/
def State.engRuns (s : State) (core : Nat) : Bool := (s.core core).clockRuns

end Sys2Proof.Machine
end

