-- ==== Sys2Proof/Machine/Tile.lean ====
section
/-! DEFINITION. The tile (13_tile R323 to R346): its blocks, its lock, the stop and resumption of a pass, and TOPEN,
TCLOSE, TZERO, TLOAD, TSTORE, TREAD, TWRITE, MIDX, MMA, MRES, TSAVE, TREST, TQRY; SEMW, which observes a stopped pass
(R251, R335). -/

namespace Sys2Proof.Machine

/-! ### Tiles and their tables -/

/-- Tile `t` of table `own`. -/
def State.tile (s : State) (own t : Nat) : Tile := (s.group own).tiles.getD t Tile.reset

/-- `s` with `f` applied to tile `t` of table `own`. -/
def State.modTile (s : State) (own t : Nat) (f : Tile → Tile) : State :=
  match s.groups.get? own with
  | some g => s.setGroup own { g with tiles := g.tiles.set t (f (s.tile own t)) }
  | none => s

/-- The table of a handler's tiles, made when its first tile opens (R295). -/
def State.tileTable (s : State) (own : Nat) : State :=
  match s.groups.get? own with
  | some _ => s
  | none => s.setGroup own { Group.reset with name := own, core := s.cur.core, ctx := s.me.ctx, st := .running }

/-- The table in which the executing thread's instruction names tile `t`: none where R295 raises TILE. `save` is for
TSAVE and TREST, which a handler may use on the tiles its group holds open. -/
def State.tileOwner (s : State) (t : Nat) (save : Bool) : Option Nat :=
  if s.me.priv then
    match s.me.group with
    | some n => if (s.tile n t).st ≠ TileSt.closed then (if save then some n else none) else some (handlerKey s.cur)
    | none => some (handlerKey s.cur)
  else s.me.group

/-- Commands queued or in flight on a tile (R325). -/
def State.tileCmds (s : State) (own t : Nat) : List Cmd :=
  (s.core (s.group own).core).cmds.filter fun c => c.onTile own t

/-- Those that lock it: commands that wait behind a stopped pass do not (R325, R334). -/
def State.lockCmds (s : State) (own t : Nat) : List Cmd :=
  let x := s.tile own t
  (s.tileCmds own t).filter fun c => !x.part || decide (x.stopAt ≤ c.id)

/-- The lock of a tile: BUSY or DRAINING (R325). -/
def State.tileLocked (s : State) (own t : Nat) : Bool := !(s.lockCmds own t).isEmpty

/-- A TSAVE is queued or in flight on the tile. -/
def State.tileSaving (s : State) (own t : Nat) : Bool := (s.tileCmds own t).any fun c => c.op.saves

/-- A pass stopped on the command's tile holds it back; a TSAVE issued after the stop saves the stop with the tile (R325,
R345). -/
def State.tileHeld (s : State) (c : Cmd) : Bool :=
  match c.op.tile? with
  | some t => let x := s.tile c.own t; x.part && !(c.op.saves && decide (x.stopAt ≤ c.id))
  | none => false

/-- The pass that stopped on a tile is the executing thread's. -/
def State.passMine (s : State) (x : Tile) : Bool :=
  x.part && (match x.pass with | some p => decide (p.tid = s.cur) && decide (p.gen = (s.slot s.cur).gen) | none => false)

/-- An instruction on the entries of a tile goes on; otherwise it retries (R326). -/
def State.tileFree (s : State) (own t : Nat) : Bool :=
  let x := s.tile own t
  !s.tileLocked own t && (!x.part || s.passMine x)

/-- TILE with the tile number (R290). -/
def State.trapTile (s : State) (t : Nat) : State := s.trap .tile (word t)

/-- A tile instruction: the guard, TILE for a loose thread outside a handler, and the table it names (R295, R338). -/
def tileIns (g : Guard) (regs : List XReg) (t : TileNo) (save : Bool) (s : State) (k : Nat → State → State) :
    Host.Outcome State Fault Refusal :=
  guarded g regs s fun s =>
    if !s.me.priv && s.me.group.isNone then s.trapTile t.val
    else match s.tileOwner t.val save with
      | none => s.trapTile t.val
      | some own => k own s

/-- `k` when the tile is OPEN, BUSY or DRAINING (R338). -/
def State.needOpen (s : State) (own t : Nat) (k : State → State) : State :=
  if (s.tile own t).st = .opened then k s else s.trapTile t

/-- Columns of the blocks a tile holds. -/
def Tile.cols (x : Tile) : Nat := 32 * x.blocks.length

/-- The blocks are zeroed: their marks go with their contents (R154, R477). -/
def State.zeroBlocks (s : State) (core : Nat) (l : List Nat) : State :=
  { s with eccAcc := s.eccAcc.filter fun e => !(decide (e.1 = core) && l.contains e.2.1) }

/-- Block and entry of the store that hold entry (i, c) of a tile (R104, R323). -/
def Tile.place (x : Tile) (i c : Nat) : Nat × Nat := (x.blocks.getD (c / 32) 0, c % 32 * 128 + i)

/-- Entry (i, c) of a tile. -/
def Tile.entry (x : Tile) (i c : Nat) : BitVec 32 := x.ent.getD (128 * c + i) 0

/-- Every entry of a tile replaced by `f` of its row, column and old value. -/
def Tile.mapEnt (x : Tile) (f : Nat → Nat → BitVec 32 → BitVec 32) : Tile :=
  { x with ent := (List.range x.cols).flatMap fun c => (List.range 128).filterMap fun i =>
      let v := f i c (x.entry i c)
      if v = 0 then none else some (128 * c + i, v) }

/-- One of the entries holds a marked word (R477). -/
def State.accHit (s : State) (core : Nat) (x : Tile) (l : List (Nat × Nat)) : Bool :=
  s.eccAcc.any fun e => decide (e.1 = core) && l.any fun p => decide (x.place p.1 p.2 = e.2)

/-- Written entries have fresh check bits (R477). -/
def State.accFresh (s : State) (core : Nat) (x : Tile) (l : List (Nat × Nat)) : State :=
  { s with eccAcc := s.eccAcc.filter fun e => !(decide (e.1 = core) && l.any fun p => decide (x.place p.1 p.2 = e.2)) }

/-! ### Blocks (R324) -/

/-- Blocks of the launch record that no tile of the group holds. -/
def Group.poolFree (g : Group) : List Nat := g.pool.filter fun b => !g.tileBlocks.contains b

/-- What a claim for blocks ends with. -/
inductive Blocks where
  | got (l : List Nat)
  | quota
  /-- blocks that the spill map holds are reclaimed first -/
  | reclaim (n : Nat)
deriving DecidableEq, Repr

/-- `w` blocks for a tile of table `own` on the executing core. -/
def State.claimBlocks (s : State) (own w : Nat) : Blocks :=
  let core := s.cur.core
  let mine := ((s.group own).poolFree).take w
  let n := w - mine.length
  let free := s.freeBlocks core
  if n = 0 then .got mine
  else if (s.ctx s.me.ctx).quota.blocks < s.blocksOf s.me.ctx core + n then .quota
  else if n ≤ free.length then .got (mine ++ free.take n)
  else if n ≤ free.length + (s.core core).spillBlk.length then .reclaim n
  else .quota

/-- `k` with `w` blocks; QUOTA or the wait of R324 otherwise. -/
def State.blocksThen (s : State) (own w : Nat) (k : List Nat → State → State) : State :=
  match s.claimBlocks own w with
  | .quota => s.trap .quota 0
  | .reclaim n => s.stallOn (.blocks n)
  | .got l => k l (s.zeroBlocks s.cur.core l)

/-! ### Passes (R329, R341) -/

/-- The accepted format pairs of MMA (R328). -/
def mmaFormats (v : Word) : Bool :=
  let a := mfA v
  let b := mfB v
  (decide (a = 1) && decide (b = 1)) || (decide (a = 12) && decide (b = 12)) || (isFp8 a && isFp8 b)

/-- The bounding range of the rows, as a lock. -/
def State.rowLock (s : State) (rows : List Nat) (n : Nat) : List Lock :=
  match rows.min?, rows.max? with
  | some lo, some hi => locksOf false [s.localSeg s.cur.core lo (hi + n - lo)]
  | _, _ => []

/-- The first open ring that one of the local ranges touches (R163). -/
def State.ringIn (s : State) (l : List (Nat × Nat)) : Option Nat := l.findSome? fun r => s.ringHit s.cur.core r.1 r.2

/-- The checks of an operand A, an operand B of `n` columns and the scales of a pass, in the order of R341 and R360:
`al` is the alignment of x[XB] and x[XC], `a` and `b` the bytes of a row and a column. -/
def State.passChecks (s : State) (p : Pass) (n al a b : Nat) (scales : Bool) (k : List Seg → List Lock → State → State) :
    State :=
  let rows := p.desc.rows
  match rows.find? fun r => shapeBase < r + a with
  | some r => s.trap .addr (word r)
  | none =>
    match s.ringIn (rows.map fun r => (r, a)) with
    | some i => s.trap .mbox (mboxAddr .fault (boxId s.chip s.cur.core i))
    | none =>
      match [p.xb, p.xc].find? fun v => v.toNat % al ≠ 0 with
      | some v => s.trap .align v
      | none =>
        s.rangeThen .opnd p.xb.toNat ((n - 1) * p.xc.toNat + b) fun segs s =>
          let done := fun (s : State) => k segs (s.rowLock rows a ++ locksOf false segs) s
          if !scales then done s
          else if p.ascl.toNat % 64 ≠ 0 then s.trap .align p.ascl
          else if p.bscl.toNat % 4 ≠ 0 then s.trap .align p.bscl
          else if shapeBase < p.ascl.toNat + 512 then s.trap .addr p.ascl
          else if shapeBase < p.bscl.toNat + 4 then s.trap .addr p.bscl
          else match s.ringIn [(p.ascl.toNat, 512), (p.bscl.toNat, 4)] with
            | some i => s.trap .mbox (mboxAddr .fault (boxId s.chip s.cur.core i))
            | none => done s

/-- Locks of the scale ranges of an FP8 pass (R341). -/
def State.scaleLocks (s : State) (p : Pass) : List Lock :=
  if isFp8 (mfA p.fmt) then
    locksOf false [s.localSeg s.cur.core p.ascl.toNat 512, s.localSeg s.cur.core p.bscl.toNat 4]
  else []

/-- A pass of MMA issues: checks, entries, queue (R341, R342). A resumed pass goes ahead of the commands that wait on the
tile. -/
def State.passIssue (s : State) (own t : Nat) (p : Pass) (from_ : Nat) (resumed : Bool) (k : Nat → State → State) : State :=
  s.engRoom false (if isFp8 (mfA p.fmt) then 4 else 2) fun s =>
    s.passChecks p (32 * (p.nbm + 1)) 64 p.aLen p.bLen (isFp8 (mfA p.fmt)) fun segs locks s =>
      let (tag, s) := s.addCmd false (.mma t { p with segs := segs } from_) p.dn (locks ++ s.scaleLocks p) none own
        (if resumed then some t else none)
      k tag s

/-- sr.taddr of REMOP; free in status and address after a TREST, whose image holds neither (R335, R345; log 22). -/
def remopAddr (tick t : Nat) (x : Tile) : Word :=
  match x.stop with
  | some (st, va) => word (t * 2 ^ 60 + stCode st * 2 ^ 48 + va.toNat % 2 ^ 48)
  | none => word (t * 2 ^ 60 + (Config.stopLost tick).toNat)

/-- The executing thread observes the stop of its pass (R335). -/
def State.remop (s : State) (own t : Nat) : State :=
  let a := remopAddr s.tick t (s.tile own t)
  (({ s with tick := s.tick + 1 } : State).modTile own t fun x => { x with dlv := true }).trap .remop a

/-- The stopped pass of a tile is resumed, and `k` follows with its tag: the sampled formats and operands are checked as at
the issue of an MMA (R341, R342). A TSAVE that is saving the stop stands before a resume: TILE (R325). -/
def State.resumePass (s : State) (own t : Nat) (k : Nat → State → State) : State :=
  let x := s.tile own t
  match x.pass with
  | none => s.commit
  | some p =>
    if isNarrowCore s.cur.core || !mmaFormats p.fmt then s.trap .fmt s.me.pc
    else if x.width < p.cb + p.nbm + 1 then s.trapTile t
    else if ((s.tileCmds own t).take 1).any fun c => c.op.saves && !s.tileHeld c then s.trapTile t
    else s.passIssue own t p x.prog true fun tag s =>
      k tag ((s.modTile own t fun x => { x with part := false, dlv := false, pass := none, stop := none }).modMe fun m =>
        { m with resumed := true })

/-- The observer rule, before an instruction of the issuing thread goes on (R335, R336). -/
def State.observed (s : State) (own t : Nat) (k : State → State) : State :=
  let x := s.tile own t
  if !s.passMine x then k s
  else if !x.dlv then s.remop own t
  else s.resumePass own t fun _ s => k s

/-! ### TOPEN, TCLOSE, TZERO (R339) -/

/-- TOPEN. -/
def execTopen (g : Guard) (t : TileNo) (w : Fin 16) (s : State) : Host.Outcome State Fault Refusal :=
  tileIns g [] t false s fun own s =>
    if (s.tile own t.val).st ≠ .closed then s.trapTile t.val
    else s.blocksThen own (w.val + 1) fun l s =>
      ((s.tileTable own).modTile own t.val fun _ => { Tile.reset with st := .opened, blocks := l }).commit

/-- TCLOSE. -/
def execTclose (g : Guard) (t : TileNo) (s : State) : Host.Outcome State Fault Refusal :=
  tileIns g [] t false s fun own s =>
    let x := s.tile own t.val
    if x.st = .closed then s.trapTile t.val
    else if !s.tileFree own t.val then s.stallOn (.tile own t.val)
    else ((s.zeroBlocks s.cur.core x.blocks).modTile own t.val fun x => x.emptied).commit

/-- TZERO. -/
def execTzero (g : Guard) (t : TileNo) (cb nbm : Fin 16) (s : State) : Host.Outcome State Fault Refusal :=
  tileIns g [] t false s fun own s => s.needOpen own t.val fun s =>
    let x := s.tile own t.val
    if x.width < cb.val + nbm.val + 1 then s.trapTile t.val
    else if !s.tileFree own t.val then s.stallOn (.tile own t.val)
    else
      let lo := 32 * cb.val
      let n := 32 * (nbm.val + 1)
      let all := decide (nbm.val + 1 = x.blocks.length)
      let hit := (List.range n).flatMap fun c => (List.range 128).map fun i => (i, lo + c)
      ((s.accFresh s.cur.core x hit).modTile own t.val fun x =>
        let y := (x.mapEnt fun _ c v => if lo ≤ c ∧ c < lo + n then 0 else v).abandon
        if all then { y with nv := false, of_ := false, sat := false, err := false } else y).commit

/-! ### TLOAD and TSTORE (R343) -/

/-- Bytes of the bounding range. -/
def tileSpan (f : TFmt) (xb nc : Nat) (rmaj : Bool) : Nat :=
  if rmaj then 127 * xb + nc * TFmt.size f else (nc - 1) * xb + 128 * TFmt.size f

/-- TLOAD and TSTORE share their checks. A TLOAD that has resumed a stopped pass queues behind it (R336, R343). -/
def tileMove (load : Bool) (g : Guard) (f : TFmt) (d : Done) (t : TileNo) (xa xb : XReg) (cb nbm : Fin 16) (rmaj : Bool)
    (s : State) : Host.Outcome State Fault Refusal :=
  tileIns g [xa, xb] t false s fun own s => s.needOpen own t.val fun s =>
    if load && s.tileLocked own t.val && !s.me.resumed then s.trapTile t.val
    else s.observed own t.val fun s => s.engRoom false 1 fun s =>
      let a := s.me.xr xa
      let b := s.me.xr xb
      if (s.tile own t.val).width < cb.val + nbm.val + 1 then s.trapTile t.val
      else if a.toNat % 64 ≠ 0 then s.trap .align a
      else if b.toNat % 64 ≠ 0 then s.trap .align b
      else s.rangeThen (if load then .src else .dst) a.toNat (tileSpan f b.toNat (32 * (nbm.val + 1)) rmaj) fun segs s =>
        let op : CmdOp := if load then .tload f t.val a.toNat b.toNat cb.val nbm.val rmaj segs
          else .tstore f t.val a.toNat b.toNat cb.val nbm.val rmaj segs
        let (tag, s) := s.addCmd false op d (locksOf (!load) segs) none own none
        s.cmdIssued d tag

/-- TLOAD. -/
def execTload := tileMove true
/-- TSTORE. -/
def execTstore := tileMove false

/-! ### TREAD, TWRITE, MIDX (R340, R344) -/

/-- The entries a TREAD or TWRITE names, lane 0 first; none where R344 raises TILE. -/
def laneEntries (x : Tile) (c r : Nat) (row : Bool) : Option (List (Nat × Nat)) :=
  if row then
    if 127 < r ∨ c % 32 ≠ 0 ∨ 32 * x.width < c + 32 then none else some ((List.range 32).map fun k => (r, c + k))
  else
    if ! [0, 32, 64, 96].contains r ∨ 32 * x.width ≤ c then none else some ((List.range 32).map fun k => (r + k, c))

/-- What TREAD and TWRITE share: window, tile, observer, entries, hold, lock, bank. -/
def tileLanes (g : Guard) (t : TileNo) (vi : VIdx) (xb xc : XReg) (row : Bool) (s : State)
    (k : Nat → Tile → List (Nat × Nat) → State → State) : Host.Outcome State Fault Refusal :=
  tileIns g [xb, xc] t false s fun own s =>
    match s.badIdx [vi.val] with
    | some i => s.trap .win (word i)
    | none => s.needOpen own t.val fun s => s.observed own t.val fun s =>
      let x := s.tile own t.val
      match laneEntries x (s.me.xr xb).toNat (s.me.xr xc).toNat row with
      | none => s.trapTile t.val
      | some l =>
        match s.heldIdx [vi.val] with
        | some i => s.blockOn (.vhold i)
        | none =>
          if !s.tileFree own t.val then s.stallOn (.tile own t.val)
          else s.bankThen fun s => k own x l s

/-- TREAD. -/
def execTread (g : Guard) (t : TileNo) (vi : VIdx) (xb xc : XReg) (row : Bool) (s : State) : Host.Outcome State Fault Refusal :=
  tileLanes g t vi xb xc row s fun _ x l s =>
    if s.accHit s.cur.core x l then ({ s with tick := s.tick + 1 } : State).trap .ecc (Config.eccNoAddr s.tick)
    else (s.writeElems vi.val 32 (l.map fun p => some (x.entry p.1 p.2).toNat)).commit

/-- TWRITE. -/
def execTwrite (g : Guard) (t : TileNo) (vi : VIdx) (xb xc : XReg) (row : Bool) (s : State) : Host.Outcome State Fault Refusal :=
  tileLanes g t vi xb xc row s fun own x l s => s.readVThen [vi.val] fun s =>
    let v := s.vr vi.val
    ((s.accFresh s.cur.core x l).modTile own t.val fun x => x.mapEnt fun i c old =>
      match l.findIdx? fun p => p = (i, c) with
      | some k => BitVec.ofNat 32 (VReg.lane v 32 k)
      | none => old).commit

/-- MIDX. -/
def execMidx (g : Guard) (t : TileNo) (vi : VIdx) (xa xb : XReg) (s : State) : Host.Outcome State Fault Refusal :=
  tileIns g [xa, xb] t false s fun own s =>
    match s.badIdx [vi.val, vi.val + 1] with
    | some i => s.trap .win (word i)
    | none => s.needOpen own t.val fun s =>
      let x := s.tile own t.val
      if x.part && !s.passMine x then s.trapTile t.val
      else s.observed own t.val fun s =>
        let base := s.me.xr xa
        let stride := s.me.xr xb
        if base.toNat % 64 ≠ 0 then s.trap .align base
        else if stride.toNat % 64 ≠ 0 then s.trap .align stride
        else if spadSize ≤ base.toNat then s.trap .addr base
        else match s.heldIdx [vi.val, vi.val + 1] with
          | some i => s.blockOn (.vhold i)
          | none => s.bankThen fun s => s.readVThen [vi.val, vi.val + 1] fun s =>
            let idx := (VReg.lanes (s.vr vi.val) 16 64 ++ VReg.lanes (s.vr (vi.val + 1)) 16 64).map fun n => BitVec.ofNat 16 n
            (s.modTile own t.val fun x => { x with desc := some { idx := idx, base := base, stride := stride } }).commit

/-! ### MMA and MRES (R341, R342) -/

/-- The executing thread's group register, 0 in a loose thread. -/
def State.grpReg (s : State) (f : Group → Word) : Word := match s.myGroup? with | some g => f g | none => 0

/-- The pass an MMA or MCNT samples at its issue (R329). -/
def State.samplePass (s : State) (d : Desc) (xb xc : XReg) (cb nbm : Nat) (k : KCode) (dn : Done) : Pass :=
  { fmt := s.grpReg (·.mfmt), ascl := s.grpReg (·.ascl), bscl := s.grpReg (·.bscl), desc := d, xb := s.me.xr xb, xc := s.me.xr xc,
    segs := [], cb := cb, nbm := nbm, k := k, dn := dn, tid := s.cur, gen := (s.slot s.cur).gen, pc := s.me.pc, sa := [], sb := 0 }

/-- A new pass, once the observer rule has been met. -/
def State.newPass (s : State) (own : Nat) (d : Done) (t : TileNo) (xb xc : XReg) (k : KCode) (cb : Fin 16) (nbm : Fin 4) : State :=
  let x := s.tile own t.val
  if x.width < cb.val + nbm.val + 1 then s.trapTile t.val
  else match x.desc with
    | none => s.trapTile t.val
    | some desc => s.passIssue own t.val (s.samplePass desc xb xc cb.val nbm.val k d) 0 false fun tag s => s.cmdIssued d tag

/-- MMA. -/
def execMma (g : Guard) (d : Done) (t : TileNo) (xb xc : XReg) (k : KCode) (cb : Fin 16) (nbm : Fin 4) (s : State) :
    Host.Outcome State Fault Refusal :=
  tileIns g [xb, xc] t false s fun own s =>
    if isNarrowCore s.cur.core || !mmaFormats (s.grpReg (·.mfmt)) then s.trap .fmt s.me.pc
    else s.needOpen own t.val fun s =>
      let x := s.tile own t.val
      if x.part && !s.passMine x then s.trapTile t.val
      else if !x.part then s.newPass own d t xb xc k cb nbm
      else if !x.dlv then s.remop own t.val
      else
        let here := match x.pass with | some p => decide (p.pc = s.me.pc) | none => false
        s.resumePass own t.val fun tag s =>
          if here then s.cmdIssued d tag else s.newPass own d t xb xc k cb nbm

/-- MRES. -/
def execMres (g : Guard) (w : Bool) (t : TileNo) (s : State) : Host.Outcome State Fault Refusal :=
  tileIns g [] t false s fun own s =>
    let x := s.tile own t.val
    if !x.part then s.commit
    else if !s.passMine x then s.trapTile t.val
    else s.resumePass own t.val fun tag s => if w then s.stallOp (.cmd tag) else s.commit

/-! ### TSAVE and TREST (R345) -/

/-- The K code of a pass as a number, and back. -/
def kNum : KCode → Nat
  | .k32 => 0 | .k64 => 1 | .k128 => 2
/-- R345 gives code 3 in the image of a TREST no meaning and no trap: the model's choice is 128, as code 2 (log 101). -/
def kOfNum (n : Nat) : KCode := if n = 0 then .k32 else if n = 1 then .k64 else .k128

/-- TSAVE: the tile counts as SAVED from its issue. -/
def execTsave (g : Guard) (d : Done) (t : TileNo) (xa : XReg) (s : State) : Host.Outcome State Fault Refusal :=
  tileIns g [xa] t true s fun own s => s.engRoom false 1 fun s => s.needOpen own t.val fun s =>
    let a := s.me.xr xa
    if a.toNat % 64 ≠ 0 then s.trap .align a
    else s.rangeThen .dst a.toNat (s.tile own t.val).imageLen fun segs s =>
      let (tag, s) := s.addCmd false (.tsave t.val a.toNat segs (s.tile own t.val).desc) d (locksOf true segs) none own none
      (s.modTile own t.val fun x => { x with st := .saved }).cmdIssued d tag

/-- The header of an image is well formed: zero fields, and a width of 1 to 16 blocks. -/
def imageOk (h : List Byte) : Bool :=
  let zero := fun (a n : Nat) => ((h.drop a).take n).all fun b => b = 0
  decide (1 ≤ getLe h 0 1) && decide (getLe h 0 1 ≤ 16) && decide (getLe h 1 1 < 8) && decide (getLe h 2 1 < 16)
  && decide (getLe h 3 1 < 4) && zero 4 4 && decide (getLe h 60 2 < 2048) && zero 63 193 && zero 784 240 && zero 1536 512

/-- Bytes that earlier work of the thread or commands of the core must still write (R127, R373). -/
def State.imagePending (s : State) (t : Tid) (va n : Nat) (l : List Lock) : Bool :=
  let gen := (s.slot t).gen
  (s.stores.any fun x => decide (x.tid = t) && decide (x.gen = gen) && decide (x.phase ≠ Phase.done)
    && decide (x.va.toNat < va + n) && decide (va < x.va.toNat + x.n))
  || (s.core t.core).cmds.any fun c => c.locks.any fun a => a.dst && l.any fun b => Lock.clash a b

/-- The header of 2,048 bytes read at issue, and `k` with it: at once from the executing core's own scratchpad, with the
thread in STALL otherwise. -/
def State.headerThen (s : State) (va : Nat) (segs : List Seg) (k : List Byte → State → State) : State :=
  let again := match s.me.fetched with | some (a, _) => decide (a = word va) | none => false
  if again then k ((s.me.fetched.map (·.2)).getD []) s
  else if s.imagePending s.cur va 2048 (locksOf false segs) then s.stallOn (.clear va 2048)
  else
    let parts : List Part := (cut va 2048).filterMap fun p => (segAt segs p.1).map fun t =>
      { va := word p.1, tgt := t, n := p.2, got := none }
    if parts.all fun p => s.atOwnCore p.tgt then
      match parts.find? fun p => s.eccHit p.tgt.pa p.n with
      | some p => s.trap .ecc p.va
      | none => k (parts.flatMap fun p => s.bytes p.tgt.pa p.n) s
    else
      let parts := parts.map fun p => if s.atOwnCore p.tgt then { p with got := some (.ok, s.bytes p.tgt.pa p.n) } else p
      s.waitParts parts .record

/-- A descriptor read from an image. -/
def descOf (h : List Byte) (at_ base : Nat) : Desc :=
  { idx := (List.range 128).map fun i => BitVec.ofNat 16 (getLe h (at_ + 2 * i) 2), base := word (getLe h base 8),
    stride := word (getLe h (base + 8) 8) }

/-- The tile of a TREST at its issue: the blocks are its own at once, or wait for the TSAVE before it (R325, R345). -/
def Tile.opening (x : Tile) (saving : Bool) (l : List Nat) (h : List Byte) : Tile :=
  let y : Tile := { x with st := .opened, desc := if bitN (getLe h 1 1) 2 then some (descOf h 256 8) else none }
  if saving then { y with next := x.next ++ [l] } else { y with blocks := l }

/-- TREST. -/
def execTrest (g : Guard) (d : Done) (t : TileNo) (xa : XReg) (s : State) : Host.Outcome State Fault Refusal :=
  tileIns g [xa] t true s fun own s => s.engRoom false 1 fun s =>
    let x := s.tile own t.val
    if x.st = .opened then s.trapTile t.val
    else
      let a := s.me.xr xa
      if a.toNat % 64 ≠ 0 then s.trap .align a
      else s.rangeThen .src a.toNat 2048 fun segs s => s.headerThen a.toNat segs fun h s =>
        if !imageOk h then s.trapTile t.val
        else
          let w := getLe h 0 1
          s.rangeThen .src a.toNat (2048 + 16384 * w) fun segs s => s.blocksThen own w fun l s =>
            let saving := s.tileSaving own t.val
            let (tag, s) := s.addCmd false (.trest t.val a.toNat segs h) d (locksOf false segs) none own none
            ((s.tileTable own).modTile own t.val fun x => x.opening saving l h).cmdIssued d tag

/-! ### TQRY (R346) -/

/-- The state a TQRY reports. -/
def State.tileCode (s : State) (own t : Nat) : Nat :=
  let l := s.lockCmds own t
  match (s.tile own t).st with
  | .closed => 0
  | st => if l.any fun c => c.op.writesTile then 2 else if !l.isEmpty then 3 else if st = .saved then 4 else 1

/-- TQRY. -/
def execTqry (g : Guard) (xa : XReg) (t : TileNo) (s : State) : Host.Outcome State Fault Refusal :=
  tileIns g [xa] t false s fun own s =>
    let x := s.tile own t.val
    let code := s.tileCode own t.val
    let w := if code = 0 ∨ code = 4 then 0 else x.width
    (s.modMe fun th => th.setX xa (word (code * 2 ^ 61 + b2n x.part * 2 ^ 60 + b2n x.dlv * 2 ^ 59
      + b2n x.desc.isSome * 2 ^ 58 + x.prog % 4 * 2 ^ 56 + w * 2 ^ 48 + b2n x.err * 2 ^ 15 + b2n x.sat * 2 ^ 14
      + b2n x.of_ * 2 ^ 13 + b2n x.nv * 2 ^ 12 + Nat.min 255 (s.tileCmds own t.val).length))).commit

/-! ### SEMW (R251) -/

/-- The tiles whose stopped passes a SEMW on counter `k` of the executing thread observes (R335). -/
def State.semwTiles (s : State) (k : EReg) : List (Nat × Nat) :=
  match if s.me.priv then some (handlerKey s.cur) else s.me.group with
  | none => []
  | some own => ((List.range 4).filter fun t =>
      let x := s.tile own t
      s.passMine x && (match x.pass with | some p => decide (p.dn = .async k) | none => false)).map fun t => (own, t)

/-- The first of some tiles whose stop has not been delivered. -/
def State.undelivered (s : State) (l : List (Nat × Nat)) : Option (Nat × Nat) := l.find? fun e => !(s.tile e.1 e.2).dlv

/-- The stopped passes of some tiles are resumed, one after the other, and `k` follows (R336). -/
def State.resumeAll (s : State) (k : State → State) : List (Nat × Nat) → State
  | [] => k s
  | e :: l => s.resumePass e.1 e.2 fun _ s => s.resumeAll k l

/-- The counter test of SEMW: it subtracts and completes, or waits (R251). Its acquire concerns engine destinations, whose
lines have already left the cluster cache at the completion (R128). -/
def State.semwTest (s : State) (k : EReg) (n : Nat) : State :=
  if n ≤ s.me.e[k].toNat then (s.modMe fun t => { t with e := t.e.set k (t.e[k] - BitVec.ofNat 16 n) }).commit
  else s.blockOn (.semw k n)

/-- SEMW. A stop among those it observes that has not been delivered is raised; otherwise it resumes them all (R335, R336). -/
def execSemw (g : Guard) (k : EReg) (b : Src) (s : State) : Host.Outcome State Fault Refusal :=
  guarded g (srcRegs b) s fun s =>
    let n := (s.me.src b).toNat
    if 65535 < n then s.trap .evovf (word k.val)
    else
      let l := s.semwTiles k
      match s.undelivered l with
      | some (own, t) => s.remop own t
      | none => s.resumeAll (fun s => s.semwTest k n) l

end Sys2Proof.Machine
end

