-- ==== Sys2Proof/Machine/Count.lean ====
section
/-! DEFINITION. The counting array (14_tile_counting R348 to R365): who holds it, its meters and keys, and MCNT, MMRG,
MDRN, MCLR, MDEP. -/

namespace Sys2Proof.Machine

/-- Bank `b` of a core's array. -/
def Core.bank (k : Core) (b : Nat) : CountBank := if b = 0 then k.bank0 else k.bank1

/-- The array with bank `b` replaced. -/
def Core.setBank (k : Core) (b : Nat) (x : CountBank) : Core := if b = 0 then { k with bank0 := x } else { k with bank1 := x }

/-- A bank is EMPTY (R348). -/
def CountBank.empty (b : CountBank) : Bool := decide (b.meter = 0) && b.key.isNone

/-- The array is HELD by a group other than the executing thread's (R350). -/
def State.arrayTaken (s : State) : Bool := s.myCore.holder.isSome && decide (s.myCore.holder ≠ s.me.group)

/-- The executing thread's group takes the array when it is FREE (R350). -/
def State.takeArray (s : State) : State := s.modMyCore fun k => { k with holder := k.holder.or s.me.group }

/-- A counting instruction: the guard, TILE for a loose thread with `t` in sr.taddr, FMT on a W core, and TILE with 4 while
another group holds the array (R359, R361 to R364). -/
def countIns (g : Guard) (regs : List XReg) (t : Nat) (s : State) (k : State → State) : Host.Outcome State Fault Refusal :=
  guarded g regs s fun s =>
    if s.me.group.isNone then s.trapTile t
    else if !isNarrowCore s.cur.core then s.trap .fmt s.me.pc
    else k s

/-- `k` unless another group holds the array (R350). -/
def State.arrayThen (s : State) (k : State → State) : State := if s.arrayTaken then s.trapTile 4 else k s

/-- DEPTH with its fields (R353). -/
def State.trapDepth (s : State) (bank k meter : Nat) : State := s.trap .depth (word (bank * 2 ^ 24 + k * 2 ^ 8 + meter))

/-- SCALE with its fields (R354). -/
def State.trapScale (s : State) (bank : Nat) (a b : List (BitVec 32)) : State :=
  let i := ((List.range 129).find? fun i => a.getD i 0 ≠ b.getD i 0).getD 128
  s.trap .scale (word (bank * 2 ^ 24 + i))

/-- The 129 bit patterns of a key, read as loads of the local window (R354, R360): sa_0 to sa_127, then sb. -/
def State.keyThen (s : State) (p : Pass) (k : List (BitVec 32) → State → State) : State :=
  let ranges := [(p.ascl.toNat, 512), (p.bscl.toNat, 4)]
  let pa := localPa s.cur.core
  match ranges.find? fun r => s.bridleHit s.cur.core s.chip (pa r.1) r.2 true with
  | some r => s.trap .range (word r.1)
  | none =>
    match ranges.find? fun r => s.eccHit (pa r.1) r.2 with
    | some r => s.trap .ecc (word r.1)
    | none =>
      k ((List.range 128).map (fun i => BitVec.ofNat 32 (s.readN (pa (p.ascl.toNat + 4 * i)) 4))
        ++ [BitVec.ofNat 32 (s.readN (pa p.bscl.toNat) 4)]) s

/-- MCNT (R349, R360). -/
def execMcnt (g : Guard) (d : Done) (bk : Bool) (t : TileNo) (xb xc : XReg) (k : KCode) (nbm : Fin 8) (s : State) :
    Host.Outcome State Fault Refusal :=
  countIns g [xb, xc] t.val s fun s =>
    let f := s.grpReg (·.mfmt)
    if mfA f ≠ 10 ∨ mfB f ≠ 10 then s.trap .fmt s.me.pc
    else s.arrayThen fun s =>
      match s.tileOwner t.val false with
      | none => s.trapTile t.val
      | some own => s.needOpen own t.val fun s => s.observed own t.val fun s =>
        match (s.tile own t.val).desc with
        | none => s.trapTile t.val
        | some desc =>
          let p := s.samplePass desc xb xc 0 nbm.val k d
          s.engRoom false 2 fun s => s.passChecks p (32 * (nbm.val + 1)) 16 (kLen k / 2) (kLen k / 2) true fun segs locks s =>
            s.keyThen p fun key s =>
              let b := b2n bk
              let x := s.myCore.bank b
              if 255 < x.meter + kLen k then s.trapDepth b (kLen k) x.meter
              else if x.key.isSome && decide (x.key ≠ some key) then s.trapScale b key (x.key.getD [])
              else
                let s := (s.takeArray).modMyCore fun c => c.setBank b { x with meter := x.meter + kLen k, key := some key }
                let (tag, s) := s.addCmd false (.mcnt b t.val { p with segs := segs }) d locks none own none
                s.cmdIssued d tag

/-- A counting command without memory goes into its queue (R357). -/
def State.countIssue (s : State) (op : CmdOp) (own : Nat) (d : Done) : State :=
  let (tag, s) := s.addCmd false op d [] none own none
  s.cmdIssued d tag

/-- MMRG (R355, R361). -/
def execMmrg (g : Guard) (d : Done) (s : State) : Host.Outcome State Fault Refusal :=
  countIns g [] 0 s fun s => s.arrayThen fun s => s.engRoom false 0 fun s =>
    let a := s.myCore.bank0
    let b := s.myCore.bank1
    let own := s.me.group.getD 0
    if b.empty then s.takeArray.countIssue .mmrg own d
    else if !a.empty && decide (255 < a.meter + b.meter) then s.trapDepth 0 b.meter a.meter
    else if !a.empty && decide (a.key ≠ b.key) then s.trapScale 0 (a.key.getD []) (b.key.getD [])
    else
      let s := s.takeArray.modMyCore fun k =>
        { k with bank0 := { a with meter := a.meter + b.meter, key := b.key }, bank1 := { b with meter := 0, key := none } }
      s.countIssue .mmrg own d

/-- A bank EMPTY at issue; its counts go when the queued command is performed (R351). -/
def Core.emptyBank (k : Core) (b : Nat) : Core := k.setBank b { k.bank b with meter := 0, key := none }

/-- MDRN (R356, R362). -/
def execMdrn (g : Guard) (d : Done) (bk : Bool) (t : TileNo) (cb : Fin 16) (nbm : Fin 8) (s : State) :
    Host.Outcome State Fault Refusal :=
  countIns g [] t.val s fun s => s.arrayThen fun s =>
    match s.tileOwner t.val false with
    | none => s.trapTile t.val
    | some own => s.needOpen own t.val fun s => s.observed own t.val fun s =>
      if (s.tile own t.val).width < cb.val + nbm.val + 1 then s.trapTile t.val
      else s.engRoom false 0 fun s =>
        let b := b2n bk
        let key := (s.myCore.bank b).key
        let acm := mfAcm (s.grpReg (·.mfmt))
        (s.takeArray.modMyCore fun k => k.emptyBank b).countIssue (.mdrn b t.val cb.val (32 * (nbm.val + 1)) acm key) own d

/-- MCLR (R363). -/
def execMclr (g : Guard) (d : Done) (bk : Bool) (s : State) : Host.Outcome State Fault Refusal :=
  countIns g [] 0 s fun s => s.arrayThen fun s => s.engRoom false 0 fun s =>
    (s.takeArray.modMyCore fun k => k.emptyBank (b2n bk)).countIssue (.mclr (b2n bk)) (s.me.group.getD 0) d

/-- MDEP (R364). -/
def execMdep (g : Guard) (xa : XReg) (bk : Bool) (s : State) : Host.Outcome State Fault Refusal :=
  countIns g [xa] 0 s fun s =>
    let k := s.myCore
    let b := b2n bk
    let x := k.bank b
    let v :=
      if s.arrayTaken then 2 ^ 62
      else
        let n := (k.cmds.filter fun c => c.op.banks.contains b).length
        b2n k.holder.isSome * 2 ^ 63 + b2n x.key.isSome * 2 ^ 61 + Nat.min 255 n * 2 ^ 40 + x.meter * 2 ^ 32
          + (match x.key with | some l => (l.getD 128 0).toNat | none => 0)
    (s.modMe fun t => t.setX xa (word v)).commit

end Sys2Proof.Machine
end

