-- ==== Sys2Proof/Machine/Port.lean ====
section
/-! DEFINITION. CPY, CPY2, CPYM, CPYW, FILL, CPYR and PORTQ (15_port R374 to R384), and what a copy command does
to memory unit by unit. -/

namespace Sys2Proof.Machine

/-! ### Issue (R376) -/

/-- The barrier a command names, by the local offset in its BAR field; MBOX where its granule lies in an open ring of the core (R163,
R375, R392). -/
def State.barNamed (s : State) (bar : Option (BitVec 17)) (n : Nat) (k : Option (Nat × Nat) → State → State) : State :=
  match bar with
  | none => k none s
  | some b =>
    let off := b.toNat * 16
    let pa := localPa s.cur.core off
    match s.ringHit s.cur.core off 16 with
    | some i => s.trap .mbox (mboxAddr .fault (boxId s.chip s.cur.core i))
    | none =>
    match s.barName pa n with
    | .error c => s.trap c (word off)
    | .ok s => k (some (pa, n)) s

/-- The command writes bytes of a segment of its destination's bounding range: a CPY2 writes those of its rows (R378). -/
def CmdOp.writesSeg (op : CmdOp) (g : Seg) : Bool :=
  match op with
  | .cpy2 da _ rows rlen dstr _ _ _ _ =>
    (List.range rows).any fun r => decide (da + r * dstr < g.va + g.len) && decide (g.va < da + r * dstr + rlen)
  | _ => true

/-- Every destination byte lies in a scratchpad when full bits are to be set (R374). -/
def fsBad (full : Bool) (op : CmdOp) (dst : List Seg) : Option Nat :=
  if !full then none
  else (dst.find? fun g => (match place g.tgt.pa with | .spad _ _ => false | _ => true) && op.writesSeg g).map (·.va)

/-- The end of a copy command's issue: full bits, overlap, barrier, entries, tag, queue, wait (R374, R376). -/
def State.copyEnd (s : State) (o : CopyOpts) (op : CmdOp) (n : Nat) (dst src : List Seg) : State :=
  match fsBad o.full op dst with
  | some va => s.trap .addr (word va)
  | none =>
    match overlapVa dst src with
    | some va => s.trap .range (word va)
    | none => s.barNamed o.bar n fun bar s =>
      let (tag, s) := s.addCmd true op o.done (locksOf true dst ++ locksOf false src) bar (s.me.group.getD 0) none
      s.cmdIssued o.done tag

/-- A command of length 0: a tag and a place in the queue, nothing else (R383). -/
def State.copyMarker (s : State) (o : CopyOpts) : State :=
  let (tag, s) := s.addCmd true .marker o.done [] none (s.me.group.getD 0) none
  s.cmdIssued o.done tag

/-- The first of the operands that is not a multiple of 64. -/
def badAlign (l : List Word) : Option Word := l.find? fun a => a.toNat % 64 ≠ 0

/-- A copy-port command of length `len` with `need` entries: room, length, alignment of its address operands, and then
`k` (R376). -/
def copyIns (g : Guard) (o : CopyOpts) (xa xb xc : XReg) (addrs : Thread → List Word) (len : Thread → Nat) (need : Nat)
    (s : State) (k : State → State) : Host.Outcome State Fault Refusal :=
  guarded g [xa, xb, xc] s fun s =>
    let n := len s.me
    s.engRoom true (if n = 0 then 0 else need) fun s =>
      if n % 64 ≠ 0 then s.trap .align (word n)
      else if 0xFFFFC0 < n then s.trap .addr (word n)
      else if n = 0 then s.copyMarker o
      else match badAlign (addrs s.me) with
        | some a => s.trap .align a
        | none => k s

/-- CPY (R377). -/
def execCpy (g : Guard) (o : CopyOpts) (xa xb xc : XReg) (s : State) : Host.Outcome State Fault Refusal :=
  copyIns g o xa xb xc (fun t => [t.xr xa, t.xr xb]) (fun t => (t.xr xc).toNat) 2 s fun s =>
    let n := (s.me.xr xc).toNat
    let da := (s.me.xr xa).toNat
    let sa := (s.me.xr xb).toNat
    s.rangeThen .src sa n fun src s => s.rangeThen .dst da n fun dst s =>
      s.copyEnd o (.cpy da sa n dst src o.full) n dst src

/-- Fields of a CPY2 shape: source stride, destination stride, rows, row length, in bytes (R378). -/
def cpy2Shape (v : Word) : Nat × Nat × Nat × Nat :=
  (64 * fld v.toNat 44 20, 64 * fld v.toNat 24 20, fld v.toNat 12 12 + 1, 64 * fld v.toNat 0 12)

/-- CPY2 (R378). -/
def execCpy2 (g : Guard) (o : CopyOpts) (xa xb xc : XReg) (s : State) : Host.Outcome State Fault Refusal :=
  copyIns g o xa xb xc (fun t => [t.xr xa, t.xr xb])
      (fun t => let (_, _, rows, rl) := cpy2Shape (t.xr xc); rows * rl) 2 s fun s =>
    let (ss, ds, rows, rl) := cpy2Shape (s.me.xr xc)
    let da := (s.me.xr xa).toNat
    let sa := (s.me.xr xb).toNat
    s.rangeThen .src sa ((rows - 1) * ss + rl) fun src s => s.rangeThen .dst da ((rows - 1) * ds + rl) fun dst s =>
      s.copyEnd o (.cpy2 da sa rows rl ds ss dst src o.full) (rows * rl) dst src

/-- The open ring that a CPYM's destination touches, with its core (R163, R379). -/
def State.cpymRing (s : State) (cores : List Nat) (off n : Nat) : Option (Nat × Nat) :=
  cores.findSome? fun c => (s.ringHit c off n).map fun i => (c, i)

/-- CPYM (R379). -/
def execCpym (g : Guard) (o : CopyOpts) (xa xb xc : XReg) (msk : BitVec 8) (s : State) : Host.Outcome State Fault Refusal :=
  let bits := (List.range 8).filter fun b => msk.getLsbD b
  copyIns g o xa xb xc (fun t => [t.xr xa, t.xr xb]) (fun t => (t.xr xc).toNat) (1 + bits.length) s fun s =>
    let n := (s.me.xr xc).toNat
    let off := (s.me.xr xa).toNat
    let sa := (s.me.xr xb).toNat
    let cores := bits.map fun b => coreAtBit s.cur.core b
    s.rangeThen .src sa n fun src s =>
      if shapeBase < off + n then s.trap .addr (word off)
      else match s.cpymRing cores off n with
        | some (c, i) => s.trap .mbox (mboxAddr .fault (boxId s.chip c i))
        | none =>
          let dst := cores.map fun c => s.localSeg c off n
          s.copyEnd o (.cpym off sa n cores src o.full) (n * cores.length) dst src

/-- CPYW (R380). -/
def execCpyw (g : Guard) (o : CopyOpts) (xa xb xc : XReg) (s : State) : Host.Outcome State Fault Refusal :=
  copyIns g o xa xb xc (fun t => [t.xr xa, t.xr xb]) (fun t => (t.xr xc).toNat) 2 s fun s =>
    let n := (s.me.xr xc).toNat
    let da := (s.me.xr xa).toNat
    let sa := (s.me.xr xb).toNat
    s.rangeThen .srcW sa n fun src s => s.rangeThen .dstW da n fun dst s =>
      s.copyEnd o (.cpyw da sa n dst src) n dst src

/-- FILL (R381). -/
def execFill (g : Guard) (o : CopyOpts) (xa xb xc : XReg) (s : State) : Host.Outcome State Fault Refusal :=
  copyIns g o xa xb xc (fun t => [t.xr xa]) (fun t => (t.xr xc).toNat) 1 s fun s =>
    let n := (s.me.xr xc).toNat
    let da := (s.me.xr xa).toNat
    let v := s.me.xr xb
    s.rangeThen .dst da n fun dst s => s.copyEnd o (.fill da n v dst o.full) n dst []

/-- CPYR (R382). -/
def execCpyr (g : Guard) (op : CpyrOp) (o : CopyOpts) (xa xb xc : XReg) (s : State) : Host.Outcome State Fault Refusal :=
  copyIns g o xa xb xc (fun t => [t.xr xa, t.xr xb]) (fun t => (t.xr xc).toNat) 2 s fun s =>
    let n := (s.me.xr xc).toNat
    let da := (s.me.xr xa).toNat
    let sa := (s.me.xr xb).toNat
    s.rangeThen .src sa n fun src s => s.rangeThen .dstR da n fun dst s =>
      s.copyEnd o (.cpyr op da sa n dst src o.full) n dst src

/-- PORTQ (R384). -/
def execPortq (g : Guard) (xa : XReg) (s : State) : Host.Outcome State Fault Refusal :=
  guarded g [xa] s fun s =>
    let k := s.myCore
    let fail := match s.me.failed with
      | some (st, tag) => b2n s.me.failNew * 2 ^ 56 + stCode st * 2 ^ 48 + tag * 2 ^ 40
      | none => 0
    let v := fail + (s.cmdsOf s.cur).length * 2 ^ 24 + (64 - k.bridleUsed) * 2 ^ 16 + k.portCount true * 2 ^ 8 + k.portCount false
    (s.modMe fun t => ({ t with failNew := false } : Thread).setX xa (word v)).commit

/-! ### Units of a copy (R374, R377 to R382) -/

/-- A CPYR element operation on encodings (R382). -/
def cpyrElem (op : CpyrOp) (d v : Nat) : Nat :=
  match op with
  | .addF32 => addF32 d v
  | .addBf16 => addBf16 d v
  | .addI32 => (d + v) % 2 ^ 32
  | .maxF32 => (fmtF32.minmax true d v).1
  | .minF32 => (fmtF32.minmax false d v).1

/-- Bytes of a CPYR element. -/
def CpyrOp.size : CpyrOp → Nat
  | .addBf16 => 2
  | _ => 4

/-- Destination bytes combined with source bytes (R382). -/
def cpyrBytes (op : CpyrOp) (d v : List Byte) : List Byte :=
  let e := CpyrOp.size op
  (List.range (d.length / e)).flatMap fun i => bytesOf e (cpyrElem op (getLe d (e * i) e) (getLe v (e * i) e))

/-- The command sets full bits. -/
def CmdOp.full : CmdOp → Bool
  | .cpy _ _ _ _ _ f | .cpy2 _ _ _ _ _ _ _ _ f | .cpym _ _ _ _ _ f | .fill _ _ _ _ f | .cpyr _ _ _ _ _ _ f => f
  | _ => false

/-- Bytes of a unit of a copy's writes: the line whose one bank access sets its full bits, or lines where some go to another chip, else
an aligned 8-byte word. CPYR goes to another chip by words (R374, R377, R382, R425; log 21). -/
def CmdOp.unit (chip : Nat) (op : CmdOp) : Nat :=
  match op with
  | .cpyr _ _ _ _ _ _ full => if full then 64 else 8
  | _ => if op.full || op.dstSegs.any fun g => decide (g.tgt.chip ≠ chip) then 64 else 8

/-- Units of a copy. -/
def CmdOp.units (chip : Nat) (op : CmdOp) : Nat :=
  let u := op.unit chip
  match op with
  | .cpy _ _ n _ _ _ | .cpym _ _ n _ _ _ | .cpyw _ _ n _ _ | .fill _ n _ _ _ | .cpyr _ _ _ n _ _ _ => n / u
  | .cpy2 _ _ rows rl _ _ _ _ _ => rows * (rl / u)
  | _ => 0

/-- A piece of a unit that is written in one access: where it goes, and which of the unit's bytes it has. -/
structure UnitPut where
  va : Nat
  tgt : Target
  off : Nat
  n : Nat
deriving DecidableEq, Repr

/-- The pieces of a unit at one destination: words on this chip where no full bits are set; on another the whole of it, or for CPYR what
one AT packet carries (R116, R374, R425; log 21). -/
def CmdOp.pieces (chip : Nat) (op : CmdOp) (va : Nat) (t : Target) : List UnitPut :=
  let u := op.unit chip
  let step :=
    if t.chip = chip then (if op.full then u else 8)
    else match op with | .cpyr _ _ _ _ _ _ _ => Nat.min u 32 | _ => u
  (List.range (u / step)).map fun i => { va := va + i * step, tgt := { t with pa := t.pa + i * step }, off := i * step, n := step }

/-- What unit `w` writes, and the address of its source. -/
def CmdOp.unitAt (chip : Nat) (op : CmdOp) (w : Nat) : List UnitPut × Nat :=
  let u := op.unit chip
  let one := fun (dst : List Seg) (va : Nat) => ((segAt dst va).toList).flatMap fun t => op.pieces chip va t
  match op with
  | .cpy da sa _ dst _ _ | .cpyw da sa _ dst _ | .cpyr _ da sa _ dst _ _ => (one dst (da + w * u), sa + w * u)
  | .cpy2 da sa _ rl ds ss dst _ _ =>
    let per := rl / u
    let o := w % per * u
    (one dst (da + w / per * ds + o), sa + w / per * ss + o)
  | .cpym off sa _ cores _ _ =>
    (cores.flatMap fun c => op.pieces chip (off + w * u) { chip := chip, pa := localPa c (off + w * u), bwc := none, loc := true }, sa + w * u)
  | .fill da _ _ dst _ => (one dst (da + w * u), 0)
  | _ => ([], 0)

/-- The words and pieces that a unit whose source stands at `va` needs: words of this chip, lines of another (R116, R425). -/
def CmdOp.unitReads (chip : Nat) (op : CmdOp) (va : Nat) : List (Nat × Nat) :=
  match op with
  | .fill _ _ _ _ _ => []
  | _ => ((cutBy 8 va (op.unit chip)).map fun q => match segAt op.srcSegs q.1 with
    | some t => if t.chip = chip then q else (q.1 / 64 * 64, 64)
    | none => q).eraseDups

/-- The source bytes of a unit, once read; a failing word brought free bytes (R369; log 10). -/
def State.unitSrc (s : State) (c : Cmd) (va : Nat) : List Byte :=
  let u := c.op.unit s.chip
  match c.op with
  | .fill _ _ v _ _ => (List.range (u / 8)).flatMap fun _ => bytesOf 8 v.toNat
  | _ => (cutBy 8 va u).flatMap fun q => match segAt c.op.srcSegs q.1 with
    | some t => if t.chip = s.chip then c.wordBytes q.1 q.2 else ((c.wordBytes (q.1 / 64 * 64) 64).drop (q.1 % 64)).take 8
    | none => c.wordBytes q.1 q.2

/-- A unit of CPYR combined at its home, word by word; a marked word writes nothing (R382, R477). -/
def State.combine (s : State) (c : Cmd) (op : CpyrOp) (va pa : Nat) (d : List Byte) : State :=
  (List.range (d.length / 8)).foldl (fun s i =>
    let a := pa + 8 * i
    if s.eccHit a 8 then s
    else s.store a (s.mixed c (va + 8 * i) a (cpyrBytes op (s.bytes a 8) ((d.drop (8 * i)).take 8)))) s

/-- One destination of a unit written, or combined as an atomic is (R382). -/
def State.unitPut (s : State) (core : Nat) (c : Cmd) (va : Nat) (t : Target) (d : List Byte) (paid : Bool) : Put :=
  match c.op with
  | .cpyr op _ _ _ _ _ full =>
    if t.chip ≠ s.chip then
      if s.writeOut core c.id t d.length then .later s
      else .done (s.sendTx c.ctx (.word core c.id (writeKey va))
        (s.packet .at_ t.chip (s.ctx c.ctx).tag (s.cmdHnd c) t.bwc (.cpyr op) t.pa d.length (b2n full) d))
    else match s.gateFor core (.word core c.id (writeKey va)) c.ctx (if paid then { t with bwc := none } else t) d.length 64 true with
      | .later s => .later s
      | .full => .later s
      | .refused st => .err st s
      | .go pa s =>
        let bad := s.eccHit pa d.length
        let s := (s.combine c op va pa d).claim c.ctx pa d.length
        let s := if full then s.fillLineBits pa d.length else s
        if bad then .err .fault s else .done s
  | _ => s.engWrite core c t va d c.op.full paid

/-- The first failure of a command is kept (R369). -/
def State.failCmd (s : State) (core id : Nat) (st : Status) (va : Nat) : State :=
  s.modCmd core id fun c => { c with fail := c.fail.or (some (st, word va)) }

/-- Key of the write of unit `w` at destination `i`: a CPYM has up to eight (R379). -/
def unitKey (w i : Nat) : Nat := 16 * w + i

/-- Another piece of the line in which piece `i` of unit `w` stands has been written: the class has paid for the line (R208). -/
def Cmd.putPaid (c : Cmd) (chip w i : Nat) : Bool :=
  let u := c.op.unit chip
  let piece := fun (k : Nat) => ((c.op.unitAt chip (k / 16)).1)[k % 16]?
  match piece (unitKey w i) with
  | some p => c.words.any fun k => decide (k / 16 * u / 64 = w * u / 64) && (match piece k with
      | some q => decide (q.tgt.chip = p.tgt.chip) && decide (q.tgt.pa / 64 = p.tgt.pa / 64)
      | none => false)
  | none => false

/-- The pieces of a unit that are not yet written, one after the other; one that must wait keeps the others from
nothing (R379). -/
def State.putAll (s : State) (core id w : Nat) (d : List Byte) : List (UnitPut × Nat) → State
  | [] => s
  | (p, i) :: rest =>
    match s.cmd? core id with
    | none => s
    | some c =>
      if c.words.contains (unitKey w i) then s.putAll core id w d rest
      else
        let mark := fun (s : State) => s.modCmd core id fun c => { c with words := c.words ++ [unitKey w i] }
        match s.unitPut core c p.va p.tgt ((d.drop p.off).take p.n) (c.putPaid s.chip w i) with
        | .done s => (mark s).putAll core id w d rest
        | .later s => s.putAll core id w d rest
        | .err st s => (mark (s.failCmd core id st p.va)).putAll core id w d rest

/-- A step of unit `w`: a word of its source is read, once, and with its last word there the unit is written at each of its
destinations that can take it. What the command writes after a failure is a mix of old and new (R369, R374, R377, R379;
log 10). -/
def State.doUnit (s : State) (core id w : Nat) : State :=
  match s.cmd? core id with
  | none => s
  | some c =>
    let (dsts, va) := c.op.unitAt s.chip w
    let missing := (c.op.unitReads s.chip va).filter fun p => (c.buf.get? p.1).isNone
    let (ok, s) := match missing with | [] => (true, s) | p :: _ => s.takeWord core id p
    if decide (1 < missing.length) || !ok then s
    else match s.cmd? core id with
      | none => s
      | some c => s.putAll core id w (s.unitSrc c va) dsts.zipIdx

/-- Every piece of unit `w` has been written, or is on its way to another chip. -/
def Cmd.unitDone (c : Cmd) (chip w : Nat) : Bool :=
  (List.range (c.op.unitAt chip w).1.length).all fun i => c.words.contains (unitKey w i)

/-- Rows of a CPY2 may share bytes: a unit is written after every earlier one that goes to its place (R378). -/
def Cmd.inTurn (c : Cmd) (chip w : Nat) : Bool :=
  match c.op with
  | .cpy2 _ _ _ _ _ _ _ _ _ =>
    let at_ := fun (w : Nat) => ((c.op.unitAt chip w).1.head?).map fun p => (p.tgt.chip, p.tgt.pa)
    (List.range w).all fun v => decide (at_ v ≠ at_ w) || c.unitDone chip v
  | _ => true

/-- Unit `w` is not yet written everywhere, and its turn has come. -/
def Cmd.unitOpen (c : Cmd) (chip w : Nat) : Bool := !c.unitDone chip w && c.inTurn chip w

/-- What is left of unit `w`, its reads first; `fuel` bounds its steps. -/
def State.wholeUnit (s : State) (core id w : Nat) : Nat → State
  | 0 => s
  | fuel + 1 => match s.cmd? core id with
    | some c => if c.unitOpen s.chip w then (s.doUnit core id w).wholeUnit core id w fuel else s
    | none => s

/-- The units of a copy that are still to be performed. -/
def State.runCopy (s : State) (core id : Nat) : State :=
  match s.cmd? core id with
  | none => s
  | some c =>
    let n := c.op.units s.chip
    let s := (List.range n).foldl (fun s w => s.wholeUnit core id w 9) s
    s.modCmd core id fun c => { c with did := (List.range n).all (c.unitDone s.chip) }

end Sys2Proof.Machine
end

