-- ==== Sys2Proof/Machine/TileRun.lean ====
section
/-! DEFINITION. What tile and counting commands do when they are performed: the sums of a pass (13_tile R332, R333),
TLOAD and TSTORE (R343), images (R345), counting, merging and draining (14_tile_counting R352, R355, R356), and the
failures of R347 and R349. -/

namespace Sys2Proof.Machine

/-! ### Sums (R332, R333) -/

/-- Elements of an operand row or column as values. -/
def elemVals (code n : Nat) (d : List Byte) : List Val :=
  (List.range n).map fun k => match code with
    | 1 => fmtBf16.decode (getLe d (2 * k) 2)
    | 8 => fmtE4m3.decode (getLe d k 1)
    | _ => fmtE5m2.decode (getLe d k 1)

/-- Elements of an INT8 row or column. -/
def elemInts (n : Nat) (d : List Byte) : List Int := (List.range n).map fun k => intVal 8 true (getLe d k 1)

/-- An exact sum of finite values of one common unit. -/
def finSum (l : List Val) : Val :=
  let q : Int := (l.map Val.exp).foldl (fun a b => if b < a then b else a) 0
  let z : Int := (l.map fun v => v.units q).sum
  if z = 0 then .fin (!l.isEmpty && l.all fun v => v.isZero && v.neg) 0 0
  else .fin (decide (z < 0)) z.natAbs q

/-- A chunk or pass sum: exact, with the special cases of R333. -/
def dotV (l : List (Val × Val)) : Val × Flags :=
  let ps := l.map fun p => Val.mul p.1 p.2
  let sig := l.any fun p => p.1.snan || p.2.snan
  let nan := l.any fun p => p.1.isNan || p.2.isNan
  let zi := ps.any Option.isNone
  let vs := ps.filterMap id
  let up := vs.any fun v => v.isInf && !v.neg
  let dn := vs.any fun v => v.isInf && v.neg
  let nv := sig || zi || (up && dn)
  if nan || nv then (.nan false, flagIf nv fNV)
  else if up then (.inf false, 0)
  else if dn then (.inf true, 0)
  else (finSum vs, 0)

/-- The elements of chunk `ch`. -/
def chunk {α : Type} (ch : Nat) (l : List α) : List α := (l.drop (32 * ch)).take 32

/-- The value of a zero row's sum: exactly 0 (R330). -/
def zeroSum : Val := .fin false 0 0

/-- One BF16 chunk folded into an entry (R332). -/
def foldBf16 (a b : List Val) (zero : Bool) (acc : Nat × Flags) (ch : Nat) : Nat × Flags :=
  let (v, f) := if zero then (zeroSum, 0) else dotV ((chunk ch a).zip (chunk ch b))
  let (r, g) := fmtF32.addV .rne (fmtF32.decode acc.1) v
  (r, acc.2 ||| f ||| g)

/-- One INT8 chunk folded into an entry; true when it clamps (R332). -/
def foldInt8 (a b : List Int) (zero : Bool) (acc : Int × Bool) (ch : Nat) : Int × Bool :=
  let v : Int := if zero then 0 else (((chunk ch a).zip (chunk ch b)).map fun p => p.1 * p.2).sum
  let r := acc.1 + v
  if 2147483647 < r then (2147483647, true)
  else if r < -2147483648 then (-2147483648, true)
  else (r, acc.2)

/-- The entry of row `i`, column `j` of a pass after chunks `lo` to `hi − 1`: its bits, flags and saturation. `a` is none
for a zero row. -/
def passEntry (p : Pass) (lo hi : Nat) (a : Option (List Byte)) (b : List Byte) (sa sb : BitVec 32) (old : BitVec 32) :
    BitVec 32 × Flags × Bool :=
  let old : Nat := if mfAcm p.fmt && decide (lo = 0) then 0 else old.toNat
  let n := kLen p.k
  let af := mfA p.fmt
  let bf := mfB p.fmt
  let d := a.getD []
  let chs := (List.range hi).drop lo
  if isFp8 af then
    let (v, f) := if a.isNone then (zeroSum, 0) else dotV ((elemVals af n d).zip (elemVals bf n b))
    let (r, g) := scaledAcc (fmtF32.decode old) v [fmtF32.decode sa.toNat, fmtF32.decode sb.toNat]
    (BitVec.ofNat 32 r, f ||| g, false)
  else if af = 1 then
    let (r, f) := chs.foldl (foldBf16 (elemVals 1 n d) (elemVals 1 n b) a.isNone) (old, 0)
    (BitVec.ofNat 32 r, f, false)
  else
    let (r, sat) := chs.foldl (foldInt8 (elemInts n d) (elemInts n b) a.isNone) (intVal 32 true old, false)
    (BitVec.ofInt 32 r, 0, sat)

/-! ### Writing a column range -/

/-- Columns `lo` to `lo + n − 1` of a tile replaced by `f` of the row, the column within the range and the old bits; its
flags are gathered (R327). -/
def Tile.update (x : Tile) (lo n : Nat) (f : Nat → Nat → BitVec 32 → BitVec 32 × Flags × Bool) : Tile :=
  let new : List (Nat × BitVec 32 × Flags × Bool) :=
    (List.range n).flatMap fun j => (List.range 128).map fun i => (128 * (lo + j) + i, f i j (x.entry i (lo + j)))
  let below := x.ent.filter fun (e : Nat × BitVec 32) => decide (e.1 < 128 * lo)
  let above := x.ent.filter fun (e : Nat × BitVec 32) => decide (128 * (lo + n) ≤ e.1)
  let mid := new.filterMap fun (e : Nat × BitVec 32 × Flags × Bool) => if e.2.1 = 0 then none else some (e.1, e.2.1)
  let y := { x with ent := below ++ mid ++ above }
  let y := y.orFlags (Machine.orFlags (new.map fun (e : Nat × BitVec 32 × Flags × Bool) => e.2.2.1))
  { y with sat := y.sat || new.any fun (e : Nat × BitVec 32 × Flags × Bool) => e.2.2.2 }

/-- A failed command's entries: each the old one of `x` or the new one of `y`, as a free choice of command `id` says, with
ERR (R347; log 10). -/
def Tile.mixed (x y : Tile) (id lo n : Nat) : Tile :=
  { y.update lo n (fun i j v => (if Config.keptOld id (128 * (lo + j) + i) then x.entry i (lo + j) else v, 0, false)) with err := true }

/-- Entries of a column range. -/
def rangeEntries (lo n : Nat) : List (Nat × Nat) := (List.range n).flatMap fun j => (List.range 128).map fun i => (i, lo + j)

/-- Those that command `id` writes anew: all of them, or after a failure those for which the free choice kept no old value (R347,
R477). -/
def freshEntries (failed : Bool) (id lo n : Nat) : List (Nat × Nat) :=
  (rangeEntries lo n).filter fun e => !(failed && Config.keptOld id (128 * e.2 + e.1))

/-! ### Reads of operands -/

/-- A tile as command `id` reads its columns: a marked entry brings free bits (R347, R477; log 10). -/
def State.unread (s : State) (core id : Nat) (x : Tile) (lo n : Nat) : Tile :=
  if s.accHit core x (rangeEntries lo n) then
    x.update lo n fun i j v => (if s.accHit core x [(i, lo + j)] then Config.failedEntry id (128 * (lo + j) + i) else v, 0, false)
  else x

/-- Pieces of a command that came back with an error: on this chip, or from another. -/
def State.pieceErr (s : State) (core : Nat) (c : Cmd) (own : Bool) : Option (Status × Nat) :=
  c.buf.findSome? fun e =>
    if e.2.1 = .ok then none
    else match c.sourceAt s.chip core e.1 with
      | some t => if decide (t.chip = s.chip) = own then some (e.2.1, e.1) else none
      | none => none

/-- The failure of a pass on this chip: a word of B, of a row or of a scale, or an accumulator entry it reads (R347, R477). -/
def State.passErr (s : State) (core : Nat) (c : Cmd) (x : Tile) (p : Pass) (from_ : Nat) : Option (Status × Word) :=
  match s.pieceErr core c true with
  | some (st, va) => some (st, word va)
  | none =>
    let reads := !(mfAcm p.fmt && decide (from_ = 0))
    if reads && s.accHit core x (rangeEntries (32 * p.cb) (32 * (p.nbm + 1))) then some (.fault, Config.eccNoAddr s.tick) else none

/-- The scales of an FP8 pass, from the pass when it was resumed, else as the command read them (R329, R342). -/
def Cmd.scales (c : Cmd) (p : Pass) : List (BitVec 32) × BitVec 32 :=
  if !isFp8 (mfA p.fmt) then ([], 0)
  else if !p.sa.isEmpty then (p.sa, p.sb)
  else
    let d := c.bufBytes p.ascl.toNat 512
    ((List.range 128).map fun i => BitVec.ofNat 32 (getLe d (4 * i) 4),
      BitVec.ofNat 32 (getLe (c.wordBytes (p.bscl.toNat / 8 * 8) 8) (p.bscl.toNat % 8) 4))

/-- Chunks `lo` to `hi − 1` of a pass folded into its tile (R332). -/
def Cmd.fold (c : Cmd) (x : Tile) (p : Pass) (lo hi : Nat) : Tile :=
  if hi ≤ lo then x
  else
    let n := 32 * (p.nbm + 1)
    let rows := (List.range 128).map fun i => (p.desc.row i).map fun r => c.bufBytes r p.aLen
    let e := fmtBytes (mfB p.fmt)
    let cols := (List.range n).map fun j =>
      zeros (32 * e * lo) ++ c.bufBytes (p.xb.toNat + j * p.xc.toNat + 32 * e * lo) ((kLen p.k - 32 * lo) * e)
    let (sa, sb) := c.scales p
    x.update (32 * p.cb) n fun i j old => passEntry p lo hi (rows.getD i none) (cols.getD j []) (sa.getD i 0) sb old

/-! ### Failures -/

/-- A command fails with a status and address, kept unless an earlier failure is (R369). -/
def State.failWith (s : State) (core id : Nat) (e : Status × Word) : State :=
  { s.modCmd core id fun c => { c with fail := c.fail.or (some e) } with tick := s.tick + 1 }

/-- The command has been performed. -/
def State.setDid (s : State) (core id : Nat) : State := s.modCmd core id fun c => { c with did := true }

/-! ### Commands performed -/

/-- A TCLOSE closed the tile under a command that waited behind a stopped pass (R325, R339): the command completes without an
effect, as the model's choice (log 94). -/
def State.tileGone (s : State) (c : Cmd) : Bool :=
  match c.op.tile? with
  | some t => decide ((s.tile c.own t).st = TileSt.closed)
  | none => false

/-- MMA (R332). -/
def State.runMma (s : State) (core : Nat) (c : Cmd) (t : Nat) (p : Pass) (from_ : Nat) : State :=
  let x := s.tile c.own t
  let lo := 32 * p.cb
  let n := 32 * (p.nbm + 1)
  let err := s.passErr core c x p from_
  let s := match err with
    | some e =>
      (s.modTile c.own t fun _ =>
        { Tile.mixed x (c.fold (s.unread core c.id x lo n) p from_ (kLen p.k / 32)) c.id lo n with prog := 0 }).failWith core c.id e
    | none => s.modTile c.own t fun x => { c.fold x p from_ (kLen p.k / 32) with prog := 0 }
  (s.accFresh core x (freshEntries err.isSome c.id lo n)).setDid core c.id

/-- TLOAD (R343). -/
def State.runTload (s : State) (core : Nat) (c : Cmd) (f : TFmt) (t xa xb cb nbm : Nat) (rmaj : Bool) : State :=
  let x := s.tile c.own t
  let lo := 32 * cb
  let n := 32 * (nbm + 1)
  let e := TFmt.size f
  let runs := (tileRuns f xa xb n rmaj).map fun r => c.bufBytes r.1 r.2
  let get := fun (i j : Nat) => if rmaj then getLe (runs.getD i []) (e * j) e else getLe (runs.getD j []) (e * i) e
  let widen := fun (v : Nat) => match f with
    | .f32 => v
    | .bf16 => (cvtFF fmtF32 fmtBf16 false .rne v).1
    | .f16 => (cvtFF fmtF32 fmtF16 false .rne v).1
  let s := s.modTile c.own t fun x =>
    let y := x.update lo n fun i j _ => (BitVec.ofNat 32 (widen (get i j)), 0, false)
    if c.fail.isSome then Tile.mixed x y c.id lo n else y
  (s.accFresh core x (freshEntries c.fail.isSome c.id lo n)).setDid core c.id

/-- A TSTORE writes column by column or row by row, in rising order (R343). -/
def CmdOp.ordered : CmdOp → Bool
  | .tstore _ _ _ _ _ _ _ _ => true
  | _ => false

/-- Piece `w` of what a tile command writes has been written; those of a TSTORE, which may share bytes, are counted. -/
def Cmd.hasPut (c : Cmd) (w va : Nat) : Bool := if c.op.ordered then decide (w < c.words.length) else c.words.contains va

/-- Piece `w` of bytes written, once and in its turn, at its address; false while it must wait. -/
def State.putPiece (s : State) (core id : Nat) (segs : List Seg) (w va : Nat) (d : List Byte) : Bool × State :=
  match s.cmd? core id with
  | none => (false, s)
  | some c =>
    if c.hasPut w va then (true, s)
    else if c.op.ordered && decide (w ≠ c.words.length) then (false, s)
    else
      let mark := fun (s : State) => s.modCmd core id fun c => { c with words := c.words ++ [va] }
      match segAt segs va with
      | none => (true, mark s)
      | some t => match s.engWrite core c t va d false (c.words.any fun k => k / 64 = va / 64) with
        | .later s => (false, s)
        | .done s => (true, mark s)
        | .err st s => (true, mark (s.failCmd core id st va))

/-- Bytes at virtual addresses cut into aligned 8-byte words, and into lines where they go to another chip (R116, R425). -/
def cutWrites (chip : Nat) (segs : List Seg) (l : List (Nat × List Byte)) : List (Nat × List Byte) :=
  l.flatMap fun r => (cut r.1 r.2.length).flatMap fun p =>
    let far := match segAt segs p.1 with | some t => decide (t.chip ≠ chip) | none => false
    (if far then [p] else cutBy 8 p.1 p.2).map fun q => (q.1, (r.2.drop (q.1 - r.1)).take q.2)

/-- Writes of a command as far as their homes allow; performed when all have been made or are on their way. -/
def State.runWrites (s : State) (core id : Nat) (segs : List Seg) (l : List (Nat × List Byte)) : State :=
  let (done, s) := (cutWrites s.chip segs l).zipIdx.foldl (fun (r : Bool × State) p =>
    let (ok, s) := r.2.putPiece core id segs p.2 p.1.1 p.1.2
    (r.1 && ok, s)) (true, s)
  if done then s.setDid core id else s

/-- What a TSTORE writes: a marked entry brings free bits (R343, R369; log 10). -/
def State.tstoreData (s : State) (core : Nat) (c : Cmd) (f : TFmt) (t xa xb cb nbm : Nat) (rmaj : Bool) : List (Nat × List Byte) :=
  let x := s.tile c.own t
  let lo := 32 * cb
  let n := 32 * (nbm + 1)
  let narrow := fun (v : BitVec 32) => match f with
    | .f32 => v.toNat
    | .bf16 => (cvtFF fmtBf16 fmtF32 false .rne v.toNat).1
    | .f16 => (cvtFF fmtF16 fmtF32 false .rne v.toNat).1
  let entries := fun (k : Nat) => if rmaj then (List.range n).map fun j => (k, lo + j) else (List.range 128).map fun i => (i, lo + k)
  let y := s.unread core c.id x lo n
  (tileRuns f xa xb n rmaj).zipIdx.map fun r =>
    (r.1.1, (entries r.2).flatMap fun e => bytesOf (TFmt.size f) (narrow (y.entry e.1 e.2)))

/-- The first write of a command that reads marked entries of its tile fails it (R369, R477). -/
def State.failMarked (s : State) (core : Nat) (c : Cmd) (x : Tile) (es : List (Nat × Nat)) : State :=
  if s.accHit core x es && c.words.isEmpty then s.failWith core c.id (.fault, Config.eccNoAddr s.tick) else s

/-- TSTORE (R343). -/
def State.runTstore (s : State) (core : Nat) (c : Cmd) (f : TFmt) (t xa xb cb nbm : Nat) (rmaj : Bool) (segs : List Seg) : State :=
  (s.failMarked core c (s.tile c.own t) (rangeEntries (32 * cb) (32 * (nbm + 1)))).runWrites core c.id segs
    (s.tstoreData core c f t xa xb cb nbm rmaj)

/-- The control field RCTL of a recorded pass (R345). -/
def Pass.ctl (p : Pass) : Nat :=
  p.cb + p.nbm * 16 + kNum p.k * 64 + (match p.dn with | .async e => e.val * 256 | .wait => 1024)

/-- A tile's image (R345). -/
def Tile.image (x : Tile) : List Byte :=
  let p := x.pass.filter fun _ => x.part
  let w := fun (f : Pass → Nat) (n : Nat) => bytesOf n ((p.map f).getD 0)
  let d := x.desc
  let indices := fun (d : Option Desc) => (List.range 128).flatMap fun i => bytesOf 2 ((d.map fun d => (d.idx.getD i 0).toNat).getD 0)
  [BitVec.ofNat 8 x.blocks.length, BitVec.ofNat 8 (b2n x.part + 2 * b2n x.dlv + 4 * b2n d.isSome),
   BitVec.ofNat 8 (b2n x.nv + 2 * b2n x.of_ + 4 * b2n x.sat + 8 * b2n x.err), BitVec.ofNat 8 (x.prog % 4)] ++ zeros 4
  ++ bytesOf 8 ((d.map fun d => d.base.toNat).getD 0) ++ bytesOf 8 ((d.map fun d => d.stride.toNat).getD 0)
  ++ w (·.pc.toNat) 8 ++ w (·.xb.toNat) 8 ++ w (·.xc.toNat) 8 ++ w (·.fmt.toNat) 8 ++ w (·.sb.toNat) 4 ++ w Pass.ctl 2
  ++ zeros 1 ++ zeros 193 ++ indices d ++ indices (p.map (·.desc))
  ++ w (fun p => p.desc.base.toNat) 8 ++ w (fun p => p.desc.stride.toNat) 8 ++ zeros 240
  ++ ((List.range 128).flatMap fun i => w (fun p => (p.sa.getD i 0).toNat) 4) ++ zeros 512
  ++ ((List.range x.cols).flatMap fun c => (List.range 128).flatMap fun i => bytesOf 4 (x.entry i c).toNat)

/-- TSAVE (R345). -/
def State.runTsave (s : State) (core : Nat) (c : Cmd) (t xa : Nat) (segs : List Seg) (desc : Option Desc) : State :=
  let x := { s.tile c.own t with desc := desc }
  (s.failMarked core c x (rangeEntries 0 x.cols)).runWrites core c.id segs [(xa, (s.unread core c.id x 0 x.cols).image)]

/-- What a TSTORE or TSAVE writes, in pieces, with the pages it writes to; nothing for another command (R116, R343, R345). -/
def State.cmdWrites (s : State) (core : Nat) (c : Cmd) : List Seg × List (Nat × List Byte) :=
  match c.op with
  | .tstore f t xa xb cb nbm rmaj segs => (segs, cutWrites s.chip segs (s.tstoreData core c f t xa xb cb nbm rmaj))
  | .tsave t xa segs desc =>
    let x := { s.tile c.own t with desc := desc }
    (segs, cutWrites s.chip segs [(xa, (s.unread core c.id x 0 x.cols).image)])
  | _ => ([], [])

/-- The entries that a TSTORE or TSAVE reads, tested for marks (R369, R477). -/
def State.cmdMarked (s : State) (core : Nat) (c : Cmd) : State :=
  match c.op with
  | .tstore _ t _ _ cb nbm _ _ => s.failMarked core c (s.tile c.own t) (rangeEntries (32 * cb) (32 * (nbm + 1)))
  | .tsave t _ _ _ => s.failMarked core c (s.tile c.own t) (rangeEntries 0 (s.tile c.own t).cols)
  | _ => s

/-- Piece `w` of what a TSTORE or TSAVE writes, once what it writes is known (R116, R343, R345). -/
def State.writeWord (s : State) (core : Nat) (c : Cmd) (w : Nat) : State :=
  if s.tileGone c then s
  else
    let (segs, l) := s.cmdWrites core c
    match l[w]? with
    | some p => ((s.cmdMarked core c).putPiece core c.id segs w p.1 p.2).2
    | none => s

/-- The piece at an address that such a command still has to write. -/
def State.writeAt (s : State) (core : Nat) (c : Cmd) (va : Nat) : State :=
  match (s.cmdWrites core c).2.zipIdx.find? fun p => decide (p.1.1 = va) && !c.hasPut p.2 va with
  | some p => s.writeWord core c p.2
  | none => s

/-- The recorded pass of an image, which becomes the pass of the thread that issued the TREST (R345). The scale offsets,
which an image does not hold, are those of the group. -/
def State.passOf (s : State) (c : Cmd) (h : List Byte) : Pass :=
  let r := getLe h 60 2
  let fmt := word (getLe h 48 8)
  let g := s.group (c.group.getD 0)
  { fmt := fmt, ascl := g.ascl, bscl := g.bscl, desc := descOf h 512 768, xb := word (getLe h 32 8), xc := word (getLe h 40 8),
    segs := [], cb := r % 16, nbm := fld r 4 2, k := kOfNum (fld r 6 2),
    dn := if bitN r 10 then .wait else .async (Fin.ofNat 4 (fld r 8 2)), tid := c.tid, gen := c.gen, pc := word (getLe h 24 8),
    sa := if isFp8 (mfA fmt) then (List.range 128).map fun i => BitVec.ofNat 32 (getLe h (1024 + 4 * i) 4) else [],
    sb := BitVec.ofNat 32 (getLe h 56 4) }

/-- TREST (R345). -/
def State.runTrest (s : State) (core : Nat) (c : Cmd) (t xa : Nat) (h : List Byte) : State :=
  let x := s.tile c.own t
  let n := x.cols
  let st := getLe h 1 1
  let fl := getLe h 2 1
  let p := s.passOf c h
  let base := fun (x : Tile) => { x with
    nv := bitN fl 0, of_ := bitN fl 1, sat := bitN fl 2, err := bitN fl 3,
    part := bitN st 0, dlv := bitN st 1, prog := getLe h 3 1 % 4, stopAt := 0,
    pass := if bitN st 0 then some p else none, stop := none }
  let d := c.bufBytes (xa + 2048) (512 * n)
  let s := s.modTile c.own t fun x =>
    let y := (base x).update 0 n fun i j _ => (BitVec.ofNat 32 (getLe d (4 * (128 * j + i)) 4), 0, false)
    if c.fail.isSome then Tile.mixed x y c.id 0 n else y
  (s.accFresh core x (freshEntries c.fail.isSome c.id 0 n)).setDid core c.id

/-! ### Counting (R349, R352, R355, R356) -/

/-- Element `k` of a packed E2M1 row or column (R74). -/
def e2m1At (d : List Byte) (k : Nat) : Nat := fld (getLe d (k / 2) 1) (4 * (k % 2)) 4

/-- The products of a cell: code and +1 or −1. -/
def cellCounts (n : Nat) (a b : List Byte) : List (Nat × Int) :=
  (List.range n).filterMap fun k =>
    let x := e2m1At a k
    let y := e2m1At b k
    if x % 8 = 0 ∨ y % 8 = 0 then none
    else some (productCode (x % 8) (y % 8), if bitN x 3 = bitN y 3 then 1 else -1)

/-- The key of a counter in a bank's table. -/
def countKey (i j k : Nat) : Nat := (i * 256 + j) * 18 + k

/-- A count added to a table; a counter at 0 is not listed. -/
def addCount (t : Tab Int) (key : Nat) (v : Int) : Tab Int :=
  let r := t.getD key 0 + v
  if r = 0 then t.erase key else t.set key r

/-- MCNT: every product of the chunk counted, or none after a failed read (R349, R352). -/
def State.runMcnt (s : State) (core : Nat) (c : Cmd) (bank t : Nat) (p : Pass) : State :=
  let half := kLen p.k / 2
  let s := match c.fail with
    | some _ => s.modTile c.own t fun x => { x with err := true }
    | none =>
      let rows : List (Nat × List Byte) := (List.range 128).filterMap fun i => (p.desc.row i).map fun r => (i, c.bufBytes r half)
      let cols : List (Nat × List Byte) := (List.range (32 * (p.nbm + 1))).map fun j => (j, c.bufBytes (p.xb.toNat + j * p.xc.toNat) half)
      let add : List (Nat × Int) := rows.flatMap fun (r : Nat × List Byte) => cols.flatMap fun (l : Nat × List Byte) =>
        (cellCounts (kLen p.k) r.2 l.2).map fun (q : Nat × Int) => (countKey r.1 l.1 q.1, q.2)
      s.modCore core fun k => k.setBank bank { k.bank bank with count := add.foldl (fun t (q : Nat × Int) => addCount t q.1 q.2) (k.bank bank).count }
  s.setDid core c.id

/-- MMRG (R355). -/
def State.runMmrg (s : State) (core : Nat) (c : Cmd) : State :=
  (s.modCore core fun k =>
    { k with bank0 := { k.bank0 with count := k.bank1.count.foldl (fun t q => addCount t q.1 q.2) k.bank0.count },
             bank1 := { k.bank1 with count := [] } }).setDid core c.id

/-- The weighted sum of a cell's counts in quarter units (R356). -/
def cellSum (t : Tab Int) (i j : Nat) : Int :=
  (quarterUnits.zipIdx.map fun q => t.getD (countKey i j q.2) 0 * (q.1 : Int)).sum

/-- One entry of a drain (R356). -/
def drainEntry (acm : Bool) (key : Option (List (BitVec 32))) (t : Tab Int) (i j : Nat) (old : BitVec 32) : BitVec 32 × Flags × Bool :=
  let old : BitVec 32 := if acm then 0 else old
  match key with
  | none => (old, 0, false)
  | some l =>
    let z := cellSum t i j
    let v : Val := .fin (decide (z < 0)) z.natAbs (-2)
    let sc := fun (n : Nat) => fmtF32.decode (l.getD n 0).toNat
    let (r, f) := scaledAcc (fmtF32.decode old.toNat) v [sc i, sc 128]
    (BitVec.ofNat 32 r, f, false)

/-- MCLR, and what an MDRN leaves: the counters of the bank are clear (R356, R363). -/
def State.runMclr (s : State) (core : Nat) (c : Cmd) (bank : Nat) : State :=
  (s.modCore core fun k => k.setBank bank { k.bank bank with count := [] }).setDid core c.id

/-- MDRN (R356). A marked entry it reads fails the drain as R347 gives. -/
def State.runMdrn (s : State) (core : Nat) (c : Cmd) (bank t cb n : Nat) (acm : Bool) (key : Option (List (BitVec 32))) : State :=
  let x := s.tile c.own t
  let cells := rangeEntries (32 * cb) n
  let counts := ((s.core core).bank bank).count
  let writes := acm || key.isSome
  let bad := !acm && key.isSome && s.accHit core x cells
  let s :=
    if bad then
      (s.modTile c.own t fun _ =>
        Tile.mixed x ((s.unread core c.id x (32 * cb) n).update (32 * cb) n (drainEntry acm key counts)) c.id (32 * cb) n).failWith
        core c.id (.fault, Config.eccNoAddr s.tick)
    else if writes then s.modTile c.own t fun x => x.update (32 * cb) n (drainEntry acm key counts)
    else s
  let s := if writes then s.accFresh core x (freshEntries bad c.id (32 * cb) n) else s
  s.runMclr core c bank

/-- A tile or counting command whose reads are all there is performed. An MDRN whose tile is gone still clears its bank (R356, R362). -/
def State.runTile (s : State) (core : Nat) (c : Cmd) : State :=
  if s.tileGone c then (match c.op with
    | .mdrn bank _ _ _ _ _ => s.runMclr core c bank
    | _ => s.setDid core c.id)
  else
  match c.op with
  | .tload f t xa xb cb nbm rmaj _ => s.runTload core c f t xa xb cb nbm rmaj
  | .tstore f t xa xb cb nbm rmaj segs => s.runTstore core c f t xa xb cb nbm rmaj segs
  | .mma t p from_ => s.runMma core c t p from_
  | .tsave t xa segs desc => s.runTsave core c t xa segs desc
  | .trest t xa _ h => s.runTrest core c t xa h
  | .mcnt bank t p => s.runMcnt core c bank t p
  | .mmrg => s.runMmrg core c
  | .mdrn bank t cb n acm key => s.runMdrn core c bank t cb n acm key
  | .mclr bank => s.runMclr core c bank
  | _ => s

/-! ### Order (R325, R357) -/

/-- No command ahead of this one stands on its tile or its banks. -/
def State.tileFirst (s : State) (core : Nat) (c : Cmd) : Bool :=
  let ahead := (s.core core).cmds.takeWhile fun d => d.id ≠ c.id
  ahead.all fun d => !(decide (d.own = c.own) && d.op.tile?.isSome && decide (d.op.tile? = c.op.tile?))
    && !(d.op.banks.any fun b => c.op.banks.contains b)

end Sys2Proof.Machine
end

