-- ==== Sys2Proof/Machine/EvMem.lean ====
section
/-! DEFINITION. The events of memory accesses: LOAD_REPLY, LDN_REPLY, STORE_ACKNOWLEDGED (03_region R113),
WRITE_COMBINING_IDLE_DRAIN (R110), REFRESH_WINDOW_END (R109), ACCESS_AT_HOME (04_order R115), SOFT_ERROR (R477) and the
power of the vector banks (08_group R213). An event that is not enabled leaves the state unchanged (log 2). -/

namespace Sys2Proof.Machine

/-! ### LOAD_REPLY -/

/-- An LDE that finds its granule empty at another core's bank joins the queue there; its thread waits (R101, R277). -/
def State.ldeQueue (s : State) (t : Tid) (p : Part) (xd : XReg) (clear : Bool) : State :=
  (({ s with ldeq := s.ldeq ++ [{ pa := p.tgt.pa, clear := clear, who := .thread t }] } : State).at_ t).blockOn
    (.lde p.tgt xd clear p.va) |>.at_ s.cur

/-- Two addresses lie at one controller (R111). -/
def Target.sameCtl (t u : Target) : Bool :=
  decide (t.chip = u.chip) && decide (place t.pa = .hbm) && decide (place u.pa = .hbm) && decide (hbmCtl t.pa = hbmCtl u.pa)

/-- Bytes that the class is charged for with part `p` of an access: a VLD and the read of a record are one access at a controller,
whose first word to be admitted pays for all (R208). -/
def State.loadCost (s : State) (t : Tid) (d : Dest) (parts : List Part) (p : Part) : Nat :=
  let rest := parts.filter fun q => q.got.isNone && p.tgt.sameCtl q.tgt && (s.lineAt t.core q.tgt).isNone
  match d with
  | .vec _ _ _ false | .record => if p.tgt.sameCtl p.tgt then (rest.map (·.n)).sum else p.n
  | _ => p.n

/-- The other words of that access at the controller of `p` are paid for. -/
def paidWith (d : Dest) (p : Part) (parts : List Part) : List Part :=
  match d with
  | .vec _ _ _ false | .record => parts.map fun q => { q with paid := q.paid || p.tgt.sameCtl q.tgt }
  | _ => parts

/-- Part `i` of the waited access of the thread at `t` can be performed from this chip: its home is here, or its line is cached, and no
earlier store of the thread holds it back (R117, R118). -/
def State.partDue (s : State) (t : Tid) (d : Dest) (parts : List Part) (i : Nat) : Bool :=
  match parts[i]? with
  | some p => p.got.isNone && (decide (p.tgt.chip = s.chip) || (d.plain && (s.lineAt t.core p.tgt).isSome)) && !s.behindStores t s.nextStore p d
  | none => false

/-- Part `i` of the waited access of the thread at `t` performed, unless it must wait. -/
def State.replyPart (s : State) (t : Tid) (d : Dest) (parts : List Part) (i : Nat) : List Part × State :=
  match parts[i]? with
  | none => (parts, s)
  | some p =>
    if s.partDue t d parts i then
      let cost := s.loadCost t d parts p
      let cached := (s.lineAt t.core p.tgt).isSome
      let s := match d with
        | .atom _ _ _ _ _ _ _ _ => s.dropLine (clusterOf t.core) p.tgt.chip (p.tgt.pa / 64 * 64)
        | _ => s
      match s.performPart t p d cost with
      | .later s => (parts, s)
      | .data b s =>
        (((if cached then parts else paidWith d p parts).set i { p with got := some (.ok, b) }),
          if p.tgt.chip = s.chip then s else s.dropLoads t (some i))
      | .err st => (parts.set i { p with got := some (st, []) }, s)
    else (parts, s)

/-- The parts as they now stand reach the thread; at a core whose clock stands they wait (R153, R445). -/
def State.repliesTo (s : State) (t : Tid) (d : Dest) (parts : List Part) : State :=
  (if (s.core t.core).clockRuns then (s.at_ t).tryFinish parts d else (s.at_ t).stallOp (.mem parts d)).at_ s.cur

/-- The parts performed as far as they now are; an LDE on an empty granule joins the queue (R101, R277). -/
def State.replied (s : State) (t : Tid) (d : Dest) (parts : List Part) : State :=
  match d, parts with
  | .lde xd clear, [p] =>
    let queue := p.got.isNone && decide (p.tgt.chip = s.chip) && !s.isFull p.tgt.pa && !s.behindStores t s.nextStore p d
      && (match place p.tgt.pa with | .spad c _ => (s.core c).clockRuns | _ => false)
    if queue then s.ldeQueue t p xd clear else s.repliesTo t d parts
  | _, _ => s.repliesTo t d parts

/-- One word of the access the thread at `t` waits for is performed, any of those that can be; with every reply there it completes (R115,
R116). -/
def State.loadReply (s : State) (t : Tid) : State :=
  match (s.slot t).st, (s.thread t).wait with
  | .stall, .op (.mem parts d) =>
    match (List.range parts.length).filter (s.partDue t d parts) with
    | [] => s.replied t d parts
    | [i] =>
      let (parts, s) := s.replyPart t d parts i
      s.replied t d parts
    | l => match s.choose l with
      | (some i, s) =>
        let (parts, s) := s.replyPart t d parts i
        s.replied t d parts
      | (none, s) => s
  | _, _ => s

/-- Every word of it is tried. -/
def State.loadReplyAll (s : State) (t : Tid) : State :=
  match (s.slot t).st, (s.thread t).wait with
  | .stall, .op (.mem parts d) =>
    let (parts, s) := (List.range parts.length).foldl (fun e i => e.2.replyPart t d e.1 i) (parts, s)
    s.replied t d parts
  | _, _ => s

/-- LOAD_REPLY; the reply to a CHAN that named another core too (R246). -/
def execLoadReply (core slot : Nat) (s : State) : Host.Outcome State Fault Refusal :=
  let t : Tid := { core := core, slot := slot }
  .next (match (s.slot t).st, (s.thread t).wait with
    | .stall, .op (.chan r k i xd pd pe) => match s.rouse k with
      | (true, s) => if (s.core core).clockRuns then ((s.at_ t).chanDone r k i xd pd pe).at_ s.cur else s
      | (false, s) => s
    | _, _ => s.loadReply t)

/-! ### LDN -/

/-- The owed entry of a register. -/
def Thread.owedAt (t : Thread) (x : XReg) : Option Owed := t.owed.find? fun o => o.x = x

/-- The owed entry of a register answered. -/
def Thread.answerOwed (t : Thread) (x : XReg) (g : Option Word × Status) : Thread :=
  { t with owed := t.owed.map fun o => if o.x = x then { o with got := some g } else o }

/-- Handles of threads that hold, or whose record holds, a slot: the thread there, and records that left it (R259). -/
def State.handlesOf (s : State) (t : Tid) : List Nat :=
  let mine := fun (h : Nat) => decide (fld h 16 8 = t.core) && decide (fld h 8 8 = t.slot)
  (if (s.slot t).st.live then [s.handle t] else [])
  ++ (s.images.vals.map (·.hnd)).filter mine ++ (s.groups.vals.flatMap fun g => g.saved.map (·.2)).filter mine

/-- The thread of the slot whose owed register is answered, or not, as `done` says, with its entry. -/
def State.ldnHolder (s : State) (t : Tid) (x : XReg) (done : Bool) : Option (Nat × Owed) :=
  (s.handlesOf t).findSome? fun h => ((s.byHandle h).bind fun th => th.owedAt x).bind fun o =>
    if o.got.isSome = done then some (h, o) else none

/-- LDN_REPLY: the register, in its slot or its record, is written and no longer owed; an error writes 0 and is raised
asynchronously (R259, R273, R276). At a core whose clock stands the reply waits (R153, R448). -/
def execLdnReply (core slot : Nat) (x : XReg) (s : State) : Host.Outcome State Fault Refusal :=
  .next (match s.ldnHolder { core := core, slot := slot } x true with
    | some (h, { got := some (v, st), va := va, via := via, x := x, w := w, tgt := tgt, ord := ord, core := issuer }) =>
      let (runs, s) := s.rouse core
      if !runs then s else
      let s := s.modHandle h fun th => { th.setX x (v.getD 0) with owed := th.owed.filter fun o => o.x ≠ x }
      let s := s.dropVia [{ x := x, w := w, va := va, tgt := tgt, got := none, via := via, ord := ord, core := issuer }]
      if st = .ok then s else s.raise h (replyCause st) va
    | _ => s)

/-- An LDN performed at its home on this chip (R118, R276). -/
def State.performLdn (s : State) (t : Tid) (x : XReg) : State :=
  match s.ldnHolder t x false with
  | none => s
  | some (h, o) => match s.byHandle h with
    | none => s
    | some th =>
      let p := o.part
      if s.behindStores t o.ord p (.load o.w x) then s
      else match s.readPart t o.core th (.ldn h x) p p.n with
        | .later s => s
        | .err st => s.modHandle h fun th => th.answerOwed x (none, st)
        | .data d s =>
          let s : State := { s with txs := s.txs.filter fun e => e.what ≠ .ldn h x }
          s.modHandle h fun th => th.answerOwed x (some (loadVal o.w d), .ok)

/-! ### Stores -/

/-- A store performed at `pa`; the issuing cluster's copy of its line follows (R110, R115). -/
def State.performStore (s : State) (x : Store) (pa : Nat) : State :=
  let (ph, s) := s.perform x pa
  let s := s.setPhase x.id ph
  let k := clusterOf x.tid.core
  if place x.tgt.pa ≠ .hbm then s
  else match x.kind with
    | .plain => s.updateLine k x.tgt.chip x.tgt.pa x.data
    | _ => s.dropLine k x.tgt.chip (x.tgt.pa / 64 * 64)

/-- The stores are words of one access at one controller: of one VST (R208). -/
def Store.oneAccess (x y : Store) : Bool := decide (x.inst = y.inst) && decide (y.kind = .plain) && y.phase.pending && x.tgt.sameCtl y.tgt

/-- Bytes that the class is charged for with a store: its own, or those of the VST whose first word to be admitted it is (R208). -/
def State.storeCost (s : State) (x : Store) : Nat := Nat.max x.n ((s.stores.filter x.oneAccess).map (·.n)).sum

/-- Store `id` reaches its home on this chip (R115, R412, R413). -/
def State.storeAtHome (s : State) (id : Nat) : State :=
  match s.stores.find? fun x => x.id = id with
  | none => s
  | some x =>
    let waiting := match x.phase with | .sent | .held => true | _ => false
    if !waiting || decide (x.tgt.chip ≠ s.chip) || s.storeBehind x || s.heldBack x.tid x.id x.tgt then s
    else match s.gateFor x.tid.core (.store id) x.ctx { x.tgt with bwc := if x.paid then none else x.tgt.bwc } x.n (s.storeCost x) true with
      | .go pa s =>
        ({ s with stores := s.stores.map fun y => if x.oneAccess y then { y with paid := true } else y } : State).performStore x pa
      | .later s => if s.holdq.any fun h => h.key = .store id then s.setPhase id .held else s
      | .full => s.setPhase id (.retry (s.now + holdRetry))
      | .refused st => s.setPhase id (.refused st)

/-- STORE_ACKNOWLEDGED: the count goes down; a refusal is raised asynchronously, once for an instruction (R113, R273,
R320). At a core whose clock stands the acknowledgement waits (R153, R448). -/
def execStoreAcknowledged (id : Nat) (s : State) : Host.Outcome State Fault Refusal :=
  .next (match s.stores.find? fun x => x.id = id with
    | none => s
    | some x =>
      let (runs, s) := if x.phase.pending then (false, s) else s.rouse x.tid.core
      if !runs then s else
      let drop : State := { s with stores := s.stores.filter fun y => y.id ≠ id }
      match x.phase with
      | .done => drop
      | .refused st =>
        if x.told then drop
        else ({ drop with stores := drop.stores.map fun y => if y.inst = x.inst then { y with told := true } else y } : State).raise
          (handleOf s.chip x.tid.core x.tid.slot x.gen) (replyCause st) x.ea
      | _ => s)

/-- WRITE_COMBINING_IDLE_DRAIN: `line` is the line's address divided by 64. Each buffer of the core that holds such a line of some
chip and has been idle for 1,024 cycles drains (R110). -/
def execWriteCombiningIdleDrain (core line : Nat) (s : State) : Host.Outcome State Fault Refusal :=
  let mine := fun (x : Store) => decide (x.tid.core = core) && decide (x.tgt.pa / 64 = line)
  let cyc := (s.core core).cyc
  let idle := fun (x : Store) => s.stores.all fun y => !(decide (y.phase = .buffered) && y.shares x) || decide (y.cyc + 1024 ≤ cyc)
  .next (s.drain fun x => mine x && idle x)

/-! ### ACCESS_AT_HOME -/

/-- A step of an engine command: of unit `w` of a copy, or word `w` of what a tile or counting command reads and then of what it
writes (R116, R374, R377). -/
def State.engineWord (s : State) (core cmd w : Nat) : State :=
  match s.cmd? core cmd with
  | none => s
  | some c =>
    if !(c.started && !c.did && s.engRuns core) then s
    else if c.copy then (if decide (w < c.op.units s.chip) && c.unitOpen s.chip w then s.doUnit core cmd w else s)
    else if s.tileFirst core c && !s.tileHeld c then
      match (c.op.readList s.chip)[w]? with
      | some p => (s.takeWord core cmd p).2
      | none => s.writeWord core c (w - (c.op.readList s.chip).length)
    else s

/-- The read (even) or write (odd) of an engine command at virtual address `w` / 2, for which its class or a moving page kept it waiting, is
tried again (R208, R412). -/
def State.retryWord (s : State) (core cmd w : Nat) : State :=
  let va := w / 2
  match s.cmd? core cmd with
  | none => s
  | some c =>
    if !(c.started && !c.did && s.engRuns core) then s
    else
      let units := List.range (if c.copy then c.op.units s.chip else 0)
      if w % 2 = 0 then
        let l := if c.copy then units.flatMap fun u => c.op.unitReads s.chip (c.op.unitAt s.chip u).2 else c.op.readList s.chip
        match l.find? fun p => p.1 = va with
        | some p => (s.takeWord core cmd p).2
        | none => s
      else if c.copy then
        match units.find? fun u => c.unitOpen s.chip u && (c.op.unitAt s.chip u).1.any fun p => decide (p.va = va) with
        | some u => s.doUnit core cmd u
        | none => s
      else if s.tileFirst core c && !s.tileHeld c then s.writeAt core c va
      else s

/-- ACCESS_AT_HOME. -/
def execAccessAtHome (a : HomeAccess) (s : State) : Host.Outcome State Fault Refusal :=
  .next (match a with
    | .store id => s.storeAtHome id
    | .ldn core slot x => s.performLdn { core := core, slot := slot } x
    | .engineWord core cmd w => s.engineWord core cmd w)

/-! ### Refresh windows -/

/-- REFRESH_WINDOW_END: outside the bank's window, the loads that waited on it are performed (R109). -/
def execRefreshWindowEnd (bank : Nat) (s : State) : Host.Outcome State Fault Refusal :=
  let onBank := fun (t : Tid) => match (s.thread t).wait with
    | .op (.mem parts _) => parts.any fun p => p.got.isNone && decide (p.tgt.chip = s.chip)
        && (match place p.tgt.pa with | .wstore off => decide (wsBank off = bank) | _ => false)
    | _ => false
  .next (if (refreshEnd s.now bank).isSome then s else (s.liveSlots.filter onBank).foldl State.loadReplyAll s)

/-! ### Vector banks (R213) -/

/-- VBANK_POWER_DOWN. -/
def execVbankPowerDown (core bank : Nat) (s : State) : Host.Outcome State Fault Refusal :=
  let b := s.vbank core bank
  .next (if b.st = .on ∧ b.last + 1024 ≤ (s.core core).cyc ∧ bank < 16 then
    s.modCore core fun k => { k with vbanks := k.vbanks.set bank { b with st := if s.bankEmpty core bank then .off else .ret } }
  else s)

/-- VBANK_WAKE_END: instructions and puts that wait for the bank find it ON (R213). -/
def execVbankWakeEnd (core bank : Nat) (s : State) : Host.Outcome State Fault Refusal :=
  let b := s.vbank core bank
  .next (if b.st = .waking ∧ b.wakeAt ≤ (s.core core).cyc then
    s.modCore core fun k => { k with vbanks := k.vbanks.set bank { b with st := .on, last := k.cyc } }
  else s)

/-! ### Soft errors (R477) -/

/-- A protected word is marked; an error in state the context owns that has no one thread to trap kills it (R145). A correctable
error is counted in the context whose data it struck (R114). -/
def execSoftError (w : SoftWord) (s : State) : Host.Outcome State Fault Refusal :=
  .next (match w with
    | .mem pa =>
      let ok := match place pa with | .hbm | .spad _ _ | .wstore _ => true | _ => false
      if ok then { s with ecc := insertSorted (pa / 8) s.ecc } else s
    | .acc core block entry =>
      if core < 256 ∧ block < 32 ∧ entry < 4096 ∧ s.eccAcc.contains (core, block, entry) = false then
        { s with eccAcc := s.eccAcc ++ [(core, block, entry)] }
      else s
    | .vreg name idx word =>
      match s.groups.get? name with
      | some g => if idx < g.vregs ∧ word < 16 ∧ s.eccV.contains (name, idx, word) = false then
          { s with eccV := s.eccV ++ [(name, idx, word)] } else s
      | none => s
    | .corrected c => if c < 256 ∧ (s.ctx c).st ≠ .free then s.modCtx c fun k => { k with eccCount := k.eccCount + 1 } else s
    | .ctxState c => s.kill c 2 (causeCode .ecc) 0)

end Sys2Proof.Machine
end

