-- ==== Sys2Proof/Machine/EvSend.lean ====
section
/-! DEFINITION. The events of send ports, mailboxes, channels and puts: PUT_ARRIVAL, PUT_REPLY, PUT_RESEND (08_group R217
to R222), MESSAGE_ARRIVAL, SEND_REPLY, MAILBOX_RESERVATION_LAPSE, SENDER_RETRY (06_queue R166, R168, R181), SPAWN_MESSAGE,
SPNR_ANSWER (09_thread_life R247). An event that is not enabled leaves the state unchanged (log 2). -/

namespace Sys2Proof.Machine

/-! ### Puts -/

/-- An item that its target sent back goes again later; a partner chip is told to resend (R219, R425). -/
def State.sendBack (s : State) (i : Item) : State :=
  match i.tid, i.pkt with
  | none, some p => (s.dropItem i.id).post (Packet.answer p .rty .ok 0 [])
  | _, _ => s.modItem i.id fun i => { i with st := .later (s.now + mesh1024) }

/-- A put is held at a core, in the order of arrival; one held there already keeps its place. The home agent's queue holds 16: one
more is sent back (R216, R219, R223, R225). -/
def State.holdPut (s : State) (i : Item) (core : Nat) (home : Bool) : State :=
  if home && decide (16 ≤ s.putsQueued core i.id) then s.sendBack i
  else match i.st with
    | .queued _ _ o => s.modItem i.id fun i => { i with st := .queued core home o }
    | _ => ({ s with tick := s.tick + 1 } : State).modItem i.id fun i => { i with st := .queued core home s.tick }

/-- A put that another chip's item carries goes on to the home agent of its name there (R217); a chip outside the pod is not
reachable (R219). -/
def State.putAway (s : State) (i : Item) (chip : Nat) : State :=
  if !s.inPod chip then s.answerItem i.id .linkdown 0
  else match i.tid, i.pkt with
    | none, some p => (s.dropItem i.id).post { p with dst := chip }
    | _, _ => (s.modItem i.id fun i => { i with st := .far }).sendTx i.ctx (.item i.id) (s.itemPacket i chip)

/-- Put `id` is resolved at a core (R217, R219 to R221). -/
def State.arrivePut (s : State) (i : Item) (core name idx : Nat) (d : VReg) : State :=
  match s.putMeets core name idx i.tag d with
  | .reply st at_ s => s.answerItem i.id st (s.placeNo at_)
  | .goOn c => s.modItem i.id fun i => { i with st := .flying c }
  | .away chip => s.putAway i chip
  | .queue home s => s.holdPut i core home

/-- Puts to a name that wait at a core, and came before put `i` (R134, R223, R225). -/
def State.putsBefore (s : State) (i : Item) (core name : Nat) : List Item :=
  s.items.filter fun j => match j.kind, j.st with
    | .vput n _ _, .queued k _ o => decide (n = name) && decide (k = core)
        && (match i.st with | .queued _ _ p => decide (o < p) | _ => true)
    | _, _ => false

/-- A put behind others that wait joins them, unless a row of R219 before theirs refuses it (R216, R219). -/
def State.joinPuts (s : State) (i : Item) (core name : Nat) (l : List Item) : State :=
  match s.putRefused name i.tag with
  | some st => s.answerItem i.id st (s.placeNo core)
  | none => s.holdPut i core (l.any fun j => match j.st with | .queued _ h _ => h | _ => false)

/-- PUT_ARRIVAL, at a core whose clock runs (R153, R438, R445). -/
def execPutArrival (id : Nat) (s : State) : Host.Outcome State Fault Refusal :=
  .next (match s.item? id with
    | some i => match i.kind, i.st with
      | .vput name idx d, .flying core => s.atRunning core fun s =>
        let l := s.putsBefore i core name
        if l.isEmpty then s.arrivePut i core name idx d else s.joinPuts i core name l
      | .vput name idx d, .queued core _ _ => s.atRunning core fun s =>
        if (s.putsBefore i core name).isEmpty then s.arrivePut i core name idx d else s
      | _, _ => s
    | none => s)

/-- The core a sender's answers come to. -/
def Item.home (i : Item) : Nat := fld i.hnd 16 8

/-- A refused put reaches its sender (R222). -/
def State.putFailed (s : State) (i : Item) (st : Status) (name idx : Nat) : State :=
  match s.byHandle i.hnd with
  | none => s
  | some t =>
    let te := t.putfail.getLsbD 63
    let s := s.modHandle i.hnd fun t => { t with putfail := putfailNext t.putfail st idx name }
    if te then s.raise i.hnd .putnack (word (idx % 64 * 2 ^ 40 + stCode st * 2 ^ 32 + name % 2 ^ 32)) else s

/-- The event counter an item names gets its add. -/
def State.itemEvent (s : State) (i : Item) : State :=
  match i.ev with
  | some e => s.addEvent i.hnd e i.priv
  | none => s

/-- PUT_REPLY (R217, R222). -/
def execPutReply (id : Nat) (s : State) : Host.Outcome State Fault Refusal :=
  .next (match s.item? id with
    | some i => match i.kind, i.st with
      | .vput name idx _, .answered st core => s.atRunning i.home fun s =>
        let s := s.dropItem id
        if st = .ok then
          let s := match i.tid with | some t => s.refreshName t.core name core | none => s
          s.itemEvent i
        else s.putFailed i st name idx
      | _, _ => s
    | none => s)

/-- An item whose time to go again has come. -/
def Item.due (i : Item) (now : Nat) : Bool := match i.st with | .later t => decide (t ≤ now) && i.tid.isSome | _ => false

/-- PUT_RESEND (R219). -/
def execPutResend (id : Nat) (s : State) : Host.Outcome State Fault Refusal :=
  .next (match s.item? id with
    | some i => match i.kind with
      | .vput _ _ _ => if i.due s.now then s.launchItem i else s
      | _ => s
    | none => s)

/-! ### Messages -/

/-- MESSAGE_ARRIVAL (R165, R166, R168). -/
def execMessageArrival (id : Nat) (s : State) : Host.Outcome State Fault Refusal :=
  .next (match s.item? id with
    | some i => match i.kind, i.st with
      | .send _ _ _ _, .flying core => s.atRunning core fun s => s.arriveMsg id
      | _, _ => s
    | none => s)

/-- SEND_REPLY (R168, R181). -/
def execSendReply (id : Nat) (s : State) : Host.Outcome State Fault Refusal :=
  .next (match s.item? id with
    | some i => match i.kind, i.st with
      | .send box _ _ _, .answered st _ => s.atRunning i.home fun s =>
        let s := s.dropItem id
        if st = .ok then s.itemEvent i else s.raise i.hnd .mbox (mboxAddr st box)
      | _, _ => s
    | none => s)

/-- MAILBOX_RESERVATION_LAPSE: each lapsed entry passes to the next listed sender, or is free (R166). -/
def execMailboxReservationLapse (core idx : Nat) (s : State) : Host.Outcome State Fault Refusal :=
  .next (match s.box? core idx with
    | none => s
    | some m =>
      if m.resv.all fun r => decide (s.now < r.2) then s
      else (m.resv.filter fun r => decide (r.2 ≤ s.now)).foldl (fun s _ => s.signalNext core idx)
        (s.setBox core idx { m with resv := m.resv.filter fun r => decide (s.now < r.2) }))

/-- SENDER_RETRY (R166). -/
def execSenderRetry (id : Nat) (s : State) : Host.Outcome State Fault Refusal :=
  .next (match s.item? id with
    | some i => match i.kind with
      | .send _ _ _ _ => if i.due s.now then s.launchItem i else s
      | _ => s
    | none => s)

/-! ### Spawn messages -/

/-- SPAWN_MESSAGE, at a core whose clock runs (R153, R247, R445, R448). -/
def execSpawnMessage (id : Nat) (s : State) : Host.Outcome State Fault Refusal :=
  .next (match s.item? id with
    | some i => match i.kind, i.st with
      | .spnr _ _ ch regs _, .flying core => s.atRunning core fun s =>
        match s.spawnMsg core ch i.tag regs with
        | ((st, h), s) => s.answerItem id st h
      | _, _ => s
    | none => s)

/-- SPNR_ANSWER: the answer word is written where the SPNR issued, and then the counter gets its add (R247). -/
def execSpnrAnswer (id : Nat) (s : State) : Host.Outcome State Fault Refusal :=
  .next (match s.item? id with
    | some i => match i.kind, i.st with
      | .spnr _ _ _ _ pa, .answered st h => s.atRunning (homeSpad pa) fun s =>
        let v := 2 ^ 63 + stCode st * 2 ^ 40 + (if st = .ok then h else 0)
        ((s.dropItem id).storeFor i.ctx pa (bytesOf 8 v)).itemEvent i
      | _, _ => s
    | none => s)
where
  homeSpad (pa : Nat) : Nat := match place pa with | .spad c _ => c | _ => 0

end Sys2Proof.Machine
end

