-- ==== Sys2Proof/Machine/Flow.lean ====
section
/-! DEFINITION. Branches, calls, TRAP, ERET, TPOST and the system instructions (11_thread_flow R283 to R304),
FENCE (04_order R136, R137). -/

namespace Sys2Proof.Machine

/-- A privileged instruction: PRIV outside privileged mode, before the guard is looked at (R34, R48). -/
def privileged (need : Bool) (s : State) (k : Host.Outcome State Fault Refusal) : Host.Outcome State Fault Refusal :=
  if need && !s.me.priv then .next (s.trap .priv s.me.pc) else k

/-! ### Branches and calls (R287, R288) -/

/-- The condition of BR (R287). -/
def Thread.test (t : Thread) : BrTest → Bool
  | .always => true
  | .z x => decide (t.xr x = 0)
  | .nz x => decide (t.xr x ≠ 0)
  | .neg x => decide ((t.xr x).toInt < 0)
  | .nneg x => decide (0 ≤ (t.xr x).toInt)

/-- The register a BR tests. -/
def testRegs : BrTest → List XReg
  | .always => []
  | .z x | .nz x | .neg x | .nneg x => [x]

/-- The branch or call commits: taken to `t`, its target checked, `x15` written when it links; or not taken. -/
def State.branch (s : State) (taken : Bool) (anl : Annul) (t : Word) (indirect link : Bool) : State :=
  if !taken then s.commitTaken none (decide (anl = .an))
  else if 2 ^ 48 ≤ t.toNat then s.trap .addr t
  else if indirect && !pcOk t then s.trap .align t
  else
    let s := if link then s.modMe fun th => th.setX 15 (nextPc (nextPc (nextPc th.pc))) else s
    s.commitTaken (some t) (decide (anl = .at_))

/-- BR (R288). -/
def execBr (g : Guard) (t : BrTest) (anl : Annul) (loff : BitVec 42) (ts : Fin 5) (s : State) :
    Host.Outcome State Fault Refusal :=
  guarded g (testRegs t) s fun s => s.branch (s.me.test t) anl (branchTarget s.me.pc loff ts) false false

/-- BRX (R288). -/
def execBrx (g : Guard) (anl : Annul) (xa : XReg) (s : State) : Host.Outcome State Fault Refusal :=
  guarded g [xa] s fun s => s.branch true anl (s.me.xr xa) true false

/-- CALL (R288). -/
def execCall (g : Guard) (anl : Annul) (loff : BitVec 42) (ts : Fin 5) (s : State) : Host.Outcome State Fault Refusal :=
  guarded g [15] s fun s => s.branch true anl (branchTarget s.me.pc loff ts) false true

/-- CALLX (R288). -/
def execCallx (g : Guard) (anl : Annul) (xa : XReg) (s : State) : Host.Outcome State Fault Refusal :=
  guarded g [xa, 15] s fun s => s.branch true anl (s.me.xr xa) true true

/-! ### Traps and posts -/

/-- TRAP (R297). -/
def execTrap (g : Guard) (b : Src) (s : State) : Host.Outcome State Fault Refusal :=
  guarded g (srcRegs b) s fun s => s.trapi (s.me.src b)

/-- ERET (R296). -/
def execEret (g : Guard) (s : State) : Host.Outcome State Fault Refusal :=
  privileged true s (guarded g [] s fun s =>
    if !s.me.tann.getLsbD 4 && s.handlerBusy s.cur then s.stallOn .handler else s.eret)

/-- A post of value `v` to the thread of handle `h`, by a thread of context `c`: its status (R298). -/
def State.postTo (s : State) (c h : Nat) (v : Word) : Status × State :=
  match (s.byHandle h).filter fun _ => s.knownAt h with
  | none => (.dead, s)
  | some t =>
    if t.ctx ≠ c then (.denied, s)
    else if (t.pend.get? (causeCode .post)).isSome then (.full, s)
    else (.ok, s.raise h .post v)

/-- The executing thread's TPOST is answered. -/
def State.postDone (s : State) (h : Nat) (v : Word) (xd : XReg) (pd pe : PReg) : State :=
  match s.postTo s.me.ctx h v with
  | (.ok, s) => s.accept xd pd pe 0
  | (st, s) => s.refuse xd pd pe st

/-- TPOST: a target on this core is posted at once, another is waited for in STALL (R298). A post to the issuing
thread is pending before its next position. -/
def execTpost (g : Guard) (xd : XReg) (pd pe : PReg) (xa : XReg) (b : Src) (s : State) : Host.Outcome State Fault Refusal :=
  guarded g (xd :: xa :: srcRegs b) s fun s =>
    let h := (s.me.xr xa).toNat
    let v := s.me.src b
    if h = 0 then s.postDone (s.handle s.cur) v xd pd pe
    else if 2 ^ 34 ≤ h then s.refuse xd pd pe .fault
    else if fld h 24 10 ≠ s.chip then s.refuse xd pd pe .denied
    else if fld h 16 8 = s.cur.core then s.postDone h v xd pd pe
    else s.stallOp (.post h v xd pd pe)

/-! ### System instructions -/

/-- NOP (R299). -/
def execNop (g : Guard) (s : State) : Host.Outcome State Fault Refusal := guarded g [] s State.commit

/-- Special registers of a group (R303). -/
def srGroup (n : Nat) : Bool := decide (0x020 ≤ n) && decide (n ≤ 0x025)

/-- Special registers whose write is privileged (R303). -/
def srPrivWrite (n : Nat) : Bool := [0x010, 0x011, 0x013, 0x031].contains n || decide (0x040 ≤ n)

/-- The meter of a bank, for the group that holds the array (R365). -/
def State.depth (s : State) (bank : Nat) : Word :=
  let k := s.myCore
  if s.me.group.isSome && k.holder = s.me.group then word (if bank = 0 then k.bank0 else k.bank1).meter else 0

/-- sr.tflags (R304). -/
def Thread.tflags (t : Thread) : Word :=
  word (b2n t.priv + 2 * b2n t.ne + 8 * b2n t.bsk + 16 * b2n (t.pend.get? (causeCode .post)).isSome)

/-- Effective priority of a thread at cycle `now` of core `k` (R234). -/
def Thread.effPrio (t : Thread) (k : Core) (now : Nat) : Nat := Nat.min 127 (t.prio + Nat.min k.agecap ((now - t.readyAt) / k.ageq))

/-- A special register as SRD reads it (R303). -/
def State.srRead (s : State) (n : Nat) : Word :=
  let t := s.me
  let k := s.myCore
  let g := s.myGroup?
  match n with
  | 0x000 => word (s.myTag * 2 ^ 16 + t.ctx)
  | 0x001 => word (s.chip * 256 + s.cur.core)
  | 0x002 => word (s.handle s.cur)
  | 0x003 => word (t.group.getD 0)
  | 0x004 => word (t.effPrio k (t.lastIssue.getD k.cyc) * 256 + t.prio)
  | 0x010 => word k.ageq
  | 0x011 => word k.agecap
  | 0x012 => word k.fduty
  | 0x013 => word k.dthr
  | 0x020 => (g.map (·.mfmt)).getD 0
  | 0x021 => (g.map (·.ascl)).getD 0
  | 0x022 => (g.map (·.bscl)).getD 0
  | 0x023 => (g.map (·.vflags)).getD 0
  | 0x024 => s.depth 0
  | 0x025 => s.depth 1
  | 0x030 => t.putfail
  | 0x031 => t.tflags
  | 0x040 => t.tvec
  | 0x041 => t.tcause
  | 0x042 => t.taddr
  | 0x043 => t.tpc0
  | 0x044 => t.tpc1
  | 0x045 => t.tpc2
  | 0x046 => t.tann
  | 0x047 => t.tsave0
  | 0x048 => t.tsave1
  | 0x050 => t.bkpt
  | 0x051 => t.watch
  | _ => 0

/-- A value kept between two bounds. -/
def clip (lo hi v : Nat) : Nat := Nat.min hi (Nat.max lo v)

/-- SWR's effect; reserved bits ignore the write (R20, R234, R303, R442). -/
def State.srWrite (s : State) (n : Nat) (v : Word) : State :=
  let grp := fun (f : Group → Group) => match s.me.group with | some g => s.modGroup g f | none => s
  match n with
  | 0x010 => s.modMyCore fun k => { k with ageq := clip 16 65536 v.toNat }
  | 0x011 => s.modMyCore fun k => { k with agecap := clip 0 127 v.toNat }
  | 0x013 => s.modMyCore fun k => { k with dthr := v.toNat % 256 }
  | 0x020 => grp fun g => { g with mfmt := v &&& 0x1FF }
  | 0x021 => grp fun g => { g with ascl := v }
  | 0x022 => grp fun g => { g with bscl := v }
  | 0x023 => grp fun g => { g with vflags := v &&& 0x1F }
  | 0x030 => s.modMe fun t => { t with putfail := v &&& 0x80FFFF3FFFFFFFFF }
  | 0x031 => s.modMe fun t => { t with ne := v.getLsbD 1, bsk := v.getLsbD 3 }
  | 0x040 => s.modMe fun t => { t with tvec := v }
  | 0x041 => s.modMe fun t => { t with tcause := v &&& 0x1FF }
  | 0x042 => s.modMe fun t => { t with taddr := v }
  | 0x043 => s.modMe fun t => { t with tpc0 := v }
  | 0x044 => s.modMe fun t => { t with tpc1 := v }
  | 0x045 => s.modMe fun t => { t with tpc2 := v }
  | 0x046 => s.modMe fun t => { t with tann := v &&& 0x1F }
  | 0x047 => s.modMe fun t => { t with tsave0 := v }
  | 0x048 => s.modMe fun t => { t with tsave1 := v }
  | 0x050 => s.modMe fun t => { t with bkpt := v &&& 0x8000FFFFFFFFFFFF }
  | 0x051 => s.modMe fun t => { t with watch := v &&& 0xE000FFFFFFFFFFC0 }
  | _ => s

/-- SRD (R299, R303). A number outside the map gives ILL. -/
def execSrd (g : Guard) (xd : XReg) (n : BitVec 12) (s : State) : Host.Outcome State Fault Refusal :=
  if !srKnown n then .next (s.trap .ill s.me.pc)
  else privileged (decide (n.toNat = 0x047) || decide (n.toNat = 0x048)) s (guarded g [xd] s fun s =>
    (s.modMe fun t => t.setX xd (s.srRead n.toNat)).commit)

/-- SWR (R299, R303). A read-only register, one outside the map, or a group register in a loose thread gives ILL. -/
def execSwr (g : Guard) (n : BitVec 12) (xa : XReg) (s : State) : Host.Outcome State Fault Refusal :=
  if !srKnown n || srReadOnly n then .next (s.trap .ill s.me.pc)
  else privileged (srPrivWrite n.toNat) s (guarded g [xa] s fun s =>
    if srGroup n.toNat && s.myGroup?.isNone then s.trap .ill s.me.pc
    else (s.srWrite n.toNat (s.me.xr xa)).commit)

/-- TS (R300). -/
def execTs (g : Guard) (xd : XReg) (s : State) : Host.Outcome State Fault Refusal :=
  guarded g [xd] s fun s => (s.modMe fun t => t.setX xd (word s.now)).commit

/-- CYC: the cycle in which the instruction issues (R300). -/
def execCyc (g : Guard) (xd : XReg) (s : State) : Host.Outcome State Fault Refusal :=
  guarded g [xd] s fun s => (s.modMe fun t => t.setX xd (word (t.lastIssue.getD s.myCore.cyc))).commit

/-- Start of the refresh window of bank `b` in progress or next (R301). -/
def refreshStart (now b : Nat) : Nat :=
  let t := now - now % 64000 + b * 1000
  if t + 256 ≤ now then t + 64000 else t

/-- WSWIN (R301). -/
def execWswin (g : Guard) (xd : XReg) (b : Src) (s : State) : Host.Outcome State Fault Refusal :=
  guarded g (xd :: srcRegs b) s fun s =>
    (s.modMe fun t =>
      let n := (t.src b).toNat
      t.setX xd (if 63 < n then refusal .fault else word (refreshStart s.now n))).commit

/-- FENCE (R137). -/
def execFence (g : Guard) (o : Order) (s : State) : Host.Outcome State Fault Refusal :=
  if o.ord = .none then .next (s.trap .ill s.me.pc)
  else guarded g [] s fun s =>
    let done := fun (s : State) =>
      if o.ord = .rel then s.commit else s.acquireWait fun s => (s.acquireAt s.cur.core o.scp).commit
    if o.ord = .acq then done s else s.release done

end Sys2Proof.Machine
end

