-- ==== Sys2Proof/Machine/GroupIns.lean ====
section
/-! DEFINITION. GNAME, VARM and VPUT (08_group R226 to R229). -/

namespace Sys2Proof.Machine

/-- GNAME of the thread's own group (R226). -/
def execGname (g : Guard) (xd : XReg) (s : State) : Host.Outcome State Fault Refusal :=
  guarded g [xd] s fun s => (s.modMe fun t => t.setX xd (word (t.group.getD 0))).commit

/-- Groups of a launch and threads of a group (R187). -/
def LRec.groupCount (r : LRec) : Nat := ((r.n.take (r.glv + 1)).map (· + 1)).foldl (· * ·) 1
def LRec.threadCount (r : LRec) : Nat := ((r.n.drop (r.glv + 1)).map (· + 1)).foldl (· * ·) 1

/-- The launch of the executing thread. -/
def State.myLaunch? (s : State) : Option Launch := s.me.launch.bind fun k => s.launches.get? k

/-- GNAME of the group of a rank (R226). -/
def execGnameRank (g : Guard) (xd : XReg) (pd pe : PReg) (b : Src) (s : State) : Host.Outcome State Fault Refusal :=
  guarded g (xd :: srcRegs b) s fun s =>
    let r := (s.me.src b).toNat
    match s.myLaunch? with
    | none => s.refuse xd pd pe .denied
    | some l =>
      if l.rcd.groupCount ≤ r then s.refuse xd pd pe .fault
      else match l.names[r]? with
        | some n => s.accept xd pd pe (word n)
        | none => s.refuse xd pd pe .blocked

/-- VARM (R228). -/
def execVarm (g : Guard) (vd : VIdx) (count : Byte) (s : State) : Host.Outcome State Fault Refusal :=
  guarded g [] s fun s =>
    match s.badIdx [vd.val] with
    | some i => s.trap .win (word i)
    | none =>
      match s.me.group with
      | some n => (s.modGroup n fun x =>
          { x with arm := if count = 0 then x.arm.erase vd.val else x.arm.set vd.val count.toNat }).commit
      | none => s.commit

/-- VPUT (R229). -/
def execVput (g : Guard) (va : VIdx) (xa : XReg) (idx : Fin 64) (ev : EvSel) (s : State) : Host.Outcome State Fault Refusal :=
  guarded g [xa] s fun s =>
    match s.badIdx [va.val] with
    | some i => s.trap .win (word i)
    | none =>
      match s.heldIdx [va.val] with
      | some i => s.blockOn (.vhold i)
      | none =>
        if s.portFull s.cur then s.stallOn .sendPort
        else s.bankThen fun s => s.readVThen [va.val] fun s =>
          let n := (s.me.xr xa).toNat
          (s.addItem (.vput (n % 2 ^ 32) idx.val (s.vr va.val)) ev (decide (2 ^ 32 ≤ n))).commit

end Sys2Proof.Machine
end

