-- ==== Sys2Proof/Machine/Kernel.lean ====
section
/-! DEFINITION. Launch records and their states (07_kernel R185 to R194), and WID, TRIG, KWAIT, KLNCH (R202 to
R205). -/

namespace Sys2Proof.Machine

/-! ### The record -/

/-- A launch record from its 64 bytes (R185). -/
def recOf (d : List Byte) : LRec :=
  let ctl := getLe d 50 1
  { entry := word (getLe d 0 8), tag := word (getLe d 8 8), arg := word (getLe d 16 8), pred := word (getLe d 24 8),
    w := (List.range 6).map fun i => getLe d (32 + i) 1, n := (List.range 6).map fun i => getLe d (38 + 2 * i) 2,
    glv := fld ctl 0 3, ckind := fld ctl 3 2, early := bitN ctl 5, zeros := decide (fld ctl 6 2 = 0) && decide (getLe d 55 1 = 0)
      && decide (getLe d 51 1 < 128) && decide (fld (getLe d 24 8) 48 15 = 0),
    prio := getLe d 51 1, vregs := getLe d 52 1, blocks := getLe d 53 1, deps := getLe d 54 1, shape := word (getLe d 56 8) }

/-- Virtual address of the predicate word (R185). -/
def LRec.predVa (r : LRec) : Nat := fld r.pred.toNat 0 48

/-- The launch is conditional (R192). -/
def LRec.conditional (r : LRec) : Bool := decide (r.predVa ≠ 0)

/-- The checks of R186 that the record alone decides, `blocks` the context's quota. -/
def LRec.formOk (r : LRec) (blocks : Nat) : Bool :=
  r.zeros && decide (r.ckind ≠ 3) && decide (r.glv ≤ 4) && pcOk r.entry && decide (r.w.sum ≤ 64)
  && ((r.w.zip r.n).all fun e => decide (e.2 + 1 ≤ 2 ^ e.1))
  && decide (1 ≤ r.threadCount) && decide (r.threadCount ≤ 64) && decide (r.groupCount ≤ 2 ^ 24)
  && decide (r.vregs ≤ 64) && decide (r.blocks ≤ 32) && decide (r.blocks ≤ blocks)
  && decide (r.predVa % 4 = 0) && decide (r.shape.toNat % 256 = 0)

/-! ### Reads of the Starter (R192, R200) -/

/-- What a read by an agent that is no thread ends with. -/
inductive AgentRead where
  | data (d : List Byte)
  | bad (c : Cause)
  /-- it waits at its home, and is made again -/
  | wait
deriving DecidableEq, Repr

/-- A refusal at home as the cause a thread's load would raise: another core's open ring REMOTE, the control space PROT, an address
with nothing behind it ADDR (R95, R96, R163). -/
def agentCause (pa : Nat) : Cause := match place pa with | .spad _ _ => .remote | .ctl => .prot | _ => .addr

/-- Bytes read at a target for an agent that is no thread: memory of this chip, or free bytes of another
(log 17). -/
def State.agentRead (s : State) (t : Target) (n : Nat) : AgentRead × State :=
  if t.chip ≠ s.chip then
    (.data ((List.range n).map fun i => Config.remoteByte s.tick (t.pa + i)), { s with tick := s.tick + 1 })
  else match s.agentGate t n false with
    | .go pa s => if s.eccHit pa n then (.bad .ecc, s) else (.data (s.bytes pa n), s)
    | .later s => (.wait, s)
    | .full => (.wait, s)
    | .refused _ => (.bad (agentCause t.pa), s)

/-- Bytes of virtual memory of a context read by such an agent. -/
def State.agentLoad (s : State) (c va n : Nat) : AgentRead × State :=
  match s.xlateFor c va .read with
  | .error e => (.bad e, s)
  | .ok t => s.agentRead t n

/-- The shape image: bytes 64 to 255, zeros without one (R186, R200). -/
def State.shapeImage (s : State) (c : Nat) (r : LRec) : AgentRead × State :=
  if r.shape = 0 then (.data (zeros 192), s)
  else match s.agentLoad c r.shape.toNat 256 with
    | (.data d, s) => (.data (d.drop 64), s)
    | r => r

/-- The shape record of a launch (R200). -/
def shapeRecord (r : LRec) (image : List Byte) : List Byte :=
  bytesOf 8 r.tag.toNat ++ bytesOf 8 r.groupCount ++ bytesOf 8 r.arg.toNat ++ (r.w.flatMap fun w => bytesOf 1 w)
    ++ bytesOf 1 r.glv ++ [0] ++ (r.n.flatMap fun n => bytesOf 2 n) ++ zeros 20 ++ image

/-! ### States of a launch (R194) -/

/-- The launch changes state; the context's watchdog restarts (R152). -/
def State.setLaunch (s : State) (k : Nat) (st : LaunchSt) : State :=
  match s.launches.get? k with
  | none => s
  | some l =>
    let s := { s with launches := s.launches.set k { l with st := st } }
    let now := s.now
    s.modCtx l.ctx fun c => { c with wdStart := now }

/-- The launch ends in DONE or FAILED with its kind-1 record; cores release its shape record (R103, R194). -/
def State.endLaunch (s : State) (k : Nat) (st : Status) (cause : Nat) (addr : Word) : State :=
  match s.launches.get? k with
  | none => s
  | some l =>
    let s := s.setLaunch k (if st = .ok then .done else .failed)
    let s := { s with cores := s.cores.mapVals fun _ c => { c with shapes := c.shapes.erase k } }
    s.record l.ctx 1 l.rcd.tag.toNat st cause 0 addr

/-- The state of a launch; one that is not there counts as DONE (R189). -/
def State.launchSt (s : State) (k : Nat) : LaunchSt := match s.launches.get? k with | some l => l.st | none => .done

/-- A launch has ended. -/
def LaunchSt.ended (st : LaunchSt) : Bool := decide (st = .done) || decide (st = .failed)

/-- The launch is triggered (R190). A skipped launch is in DONE: R190 says that a launch in DONE is triggered and that a skipped one is
not, and the model takes the first (log 105). -/
def State.triggered (s : State) (k : Nat) : Bool :=
  match s.launches.get? k with
  | none => true
  | some l => decide (l.st = .done) || (decide (l.st ≠ .failed) && decide (l.names.length = l.rcd.groupCount)
      && (List.range l.rcd.groupCount).all fun r => l.trig.contains r)

/-- Every producer lets the launch be eligible (R191). -/
def State.mayRun (s : State) (l : Launch) : Bool :=
  l.producers.all fun p =>
    let st := s.launchSt p
    if l.rcd.early && !l.rcd.conditional then
      decide (st = .prologue) || decide (st = .running) || decide (st = .draining) || decide (st = .done)
    else decide (st = .done)

/-- A producer of the launch has failed. -/
def State.producerFailed (s : State) (l : Launch) : Bool := l.producers.any fun p => decide (s.launchSt p = .failed)

/-- The launch becomes eligible: a conditional one reads its predicate now, and may be skipped (R192, R193). While the read waits at
its home the launch is WAITING. -/
def State.makeEligible (s : State) (k : Nat) : State :=
  match s.launches.get? k with
  | none => s
  | some l =>
    let go := fun (s : State) =>
      let now := s.now
      (s.setLaunch k .queued).modLaunch k fun l => { l with eligible := true, since := some now }
    if !l.rcd.conditional then go s
    else match s.agentLoad l.ctx l.rcd.predVa 4 with
      | (.wait, done) => (s.onlyWakes done).setLaunch k .waiting
      | (.bad c, s) => s.endLaunch k .fault (causeCode c) (word l.rcd.predVa)
      | (.data d, s) => if Bool.xor (decide (valOf d ≠ 0)) (bitN l.rcd.pred.toNat 63) then go s else s.endLaunch k .ok 0 0

/-- The engine commands of a context in flight (R30). -/
def State.writesOut (s : State) (c : Nat) : List (Nat × Nat) :=
  s.cores.flatMap fun e => (e.2.cmds.filter fun d => d.ctx = c).map fun d => (e.1, d.id)

/-- A record that passed the checks of R186 is taken as a launch (R194). What the context wrote before is on its way home (R30;
log 87). -/
def State.takeLaunch (s : State) (c : Nat) (r : LRec) (image : List Byte) (producers : List Nat) : State :=
  let k := s.nextLaunch
  let l : Launch := { ctx := c, rcd := r, producers := producers, order := k, st := .queued, eligible := false, names := [],
                      trig := [], aborted := false, shape := shapeRecord r image, since := none, fair := false,
                      pendCore := none, after := (s.nextStore, s.writesOut c) }
  let s := s.drainBuffers fun x => decide (x.ctx = c)
  let s := { s with launches := s.launches.set k l, nextLaunch := k + 1 }
  let now := s.now
  let s := s.modCtx c fun x => { x with wdStart := now }
  if s.producerFailed l then s.endLaunch k .aborted 0 0
  else if s.mayRun l then s.makeEligible k
  else s.setLaunch k .waiting

/-- Launches of a context in flight (R194). -/
def State.inFlight (s : State) (c : Nat) : Nat :=
  (s.launches.filter fun e => decide (e.2.ctx = c) && !e.2.st.ended).length

/-! ### Instructions -/

/-- Field Fi of a work identifier (R187). -/
def LRec.field (r : LRec) (wid : Word) (i : Nat) : Nat := fld wid.toNat (r.w.drop (i + 1)).sum (r.w.getD i 0)

/-- The value WID gives for a selector (R203). -/
def State.widValue (s : State) (sel : Nat) : Word :=
  match s.myLaunch? with
  | none => 0
  | some l =>
    let r := l.rcd
    let t := s.me
    if sel ≤ 5 then (if t.spawned && decide (r.glv < sel) then 0 else word (r.field t.wid sel))
    else if sel = 6 then (if t.spawned then 0 else t.wid)
    else if sel = 7 then word (match s.myGroup? with | some g => g.rank | none => 0)
    else if sel = 8 then (if t.spawned then 0 else word t.pos)
    else if sel = 9 then word r.groupCount
    else if sel ≤ 15 then word (r.n.getD (sel - 10) 0 + 1)
    else word r.glv

/-- WID (R203). -/
def execWid (g : Guard) (xd : XReg) (sel : Fin 17) (s : State) : Host.Outcome State Fault Refusal :=
  guarded g [xd] s fun s => (s.modMe fun t => t.setX xd (s.widValue sel.val)).commit

/-- TRIG: a release, and then the mark (R204). -/
def execTrig (g : Guard) (s : State) : Host.Outcome State Fault Refusal :=
  guarded g [] s fun s => s.release fun s =>
    match s.me.launch, s.myGroup? with
    | some k, some grp =>
      (s.modLaunch k fun l => if l.trig.contains grp.rank then l else { l with trig := l.trig ++ [grp.rank] }).commit
    | _, _ => s.commit

/-- The test of KWAIT: what it ends with, or none while it waits for its launch (R204). -/
def State.kwaitTest (s : State) (pd pe : PReg) : Option State :=
  let ok := fun (s : State) => ((s.acquireAt s.cur.core .pod).modMe fun t => t.setPP pd pe true).commit
  match s.myLaunch? with
  | none => some (ok s)
  | some l =>
    if l.aborted then some (s.modMe fun t => t.setPP pd pe false).commit
    else if l.st = .prologue ∨ l.st = .queued ∨ l.st = .waiting then none
    else some (ok s)

/-- KWAIT (R204). -/
def execKwait (g : Guard) (pd pe : PReg) (s : State) : Host.Outcome State Fault Refusal :=
  guarded g [] s fun s =>
    match s.kwaitTest pd pe with
    | some done => if s.me.owed.isEmpty then done else s.stallOn .loads
    | none => s.blockOn (.kwait (serialOf (s.me.launch.getD 0)) pd pe)

/-- KLNCH once its record has been read (R205). -/
def State.klnchRec (s : State) (xd : XReg) (pd pe : PReg) (d : List Byte) : State :=
  let r := recOf d
  let c := s.me.ctx
  let own := s.me.launch
  if (s.ctx c).st ≠ .opened then s.refuse xd pd pe .denied
  else if (s.ctx c).quota.launches ≤ s.inFlight c then s.refuse xd pd pe .quota
  else if !r.formOk (s.ctx c).quota.blocks || decide (2 ≤ r.deps) || (decide (r.deps = 1) && own.isNone) then
    s.refuse xd pd pe .fault
  else match s.shapeImage c r with
    | (.wait, done) => (s.onlyWakes done).stallOn .starter
    | (.bad _, s) => s.refuse xd pd pe .fault
    | (.data image, s) =>
      let k := s.nextLaunch
      let s := s.takeLaunch c r image (if r.deps = 1 then own.toList else [])
      s.accept xd pd pe (word (serialOf k))

/-- KLNCH (R205). -/
def execKlnch (g : Guard) (xd : XReg) (pd pe : PReg) (xa : XReg) (s : State) : Host.Outcome State Fault Refusal :=
  guarded g [xd, xa] s fun s =>
    let a := s.me.xr xa
    if 2 ^ 48 ≤ a.toNat then s.trap .addr a
    else match s.check a 64 64 .ld with
      | .stop s => s
      | .go t s => s.release fun s => s.readRecord a t 64 fun d s => s.klnchRec xd pd pe d

end Sys2Proof.Machine
end

