-- ==== Sys2Proof/Machine/EvThread.lean ====
section
/-! DEFINITION. The events of threads: SEMA_DELIVERY (09_thread_life R252), POST_DELIVERY (11_thread_flow R298),
TASK_QUEUE_RESTORE (06_queue R171, R172), OUTRIDER_PERIOD and OUTRIDER_COMMAND (R173, R174), MIGRATION_ARRIVAL
(04_order R131 to R133; 09_thread_life R250), FORWARDING_ENTRY_FREE (08_group R225). An event that is not enabled leaves
the state unchanged (log 2). -/

namespace Sys2Proof.Machine

/-! ### Deliveries -/

/-- What a thread sends to the core of a handle is done there, and answered, once the clocks of both cores run (R153, R438, R445). -/
def State.delivered (s : State) (t : Tid) (h : Nat) (f : State → State) : State :=
  s.atRunning (fld h 16 8) fun s => s.atRunning t.core fun s => (f (s.at_ t)).at_ s.cur

/-- SEMA_DELIVERY. -/
def execSemaDelivery (core slot : Nat) (s : State) : Host.Outcome State Fault Refusal :=
  let t : Tid := { core := core, slot := slot }
  .next (match (s.slot t).st, (s.thread t).wait with
    | .stall, .op (.sema h k n xd pd pe) => s.delivered t h fun s => s.semaDone h k n xd pd pe
    | _, _ => s)

/-- POST_DELIVERY. -/
def execPostDelivery (core slot : Nat) (s : State) : Host.Outcome State Fault Refusal :=
  let t : Tid := { core := core, slot := slot }
  .next (match (s.slot t).st, (s.thread t).wait with
    | .stall, .op (.post h v xd pd pe) => s.delivered t h fun s => s.postDone h v xd pd pe
    | _, _ => s)

/-! ### Moving a thread -/

/-- Everything in flight for the thread of handle `h`, which held slot `old` with generation `gen`, belongs to the slot `u`
(R133, R259). -/
def State.rebind (s : State) (h : Nat) (old : Tid) (gen : Nat) (u : Tid) : State :=
  let h' := s.handle u
  let gen' := (s.slot u).gen
  let key := fun (k : AccKey) => match k with
    | .ldn a x => if a = h then AccKey.ldn h' x else k
    | _ => k
  let cmd := fun (c : Cmd) => if c.tid = old ∧ c.gen = gen then { c with tid := u, gen := gen' } else c
  let pass := fun (p : Pass) => if p.tid = old ∧ p.gen = gen then { p with tid := u, gen := gen' } else p
  { s with
    items := s.items.map fun i => if i.tid = some old ∧ i.gen = gen then { i with tid := some u, gen := gen', hnd := h' } else i,
    stores := s.stores.map fun x => if x.tid = old ∧ x.gen = gen then { x with tid := u, gen := gen' } else x,
    holdq := s.holdq.map fun e => { e with key := key e.key },
    fullq := s.fullq.map fun e => (key e.1, e.2),
    bwq := s.bwq.mapVals fun _ l => l.map fun e => { e with key := key e.key },
    txs := s.txs.map fun e => match e.what with
      | .ldn a x => if a = h then { e with what := .ldn h' x } else e
      | .lde a => if a = h then { e with what := .lde h' } else e
      | _ => e,
    cores := s.cores.mapVals fun _ k =>
      { k with cmds := k.cmds.map cmd },
    groups := s.groups.mapVals fun _ (g : Group) => { g with tiles := g.tiles.mapVals fun _ (x : Tile) => { x with pass := x.pass.map pass } } }

/-- Every reply the thread is owed passes through an entry of a core. -/
def Thread.viaEntry (x : Thread) (core i : Nat) : Thread :=
  { x with owed := x.owed.map fun (o : Owed) => { o with via := o.via ++ [(core, i)] } }

/-- The thread at `t` moves to a FREE slot of core `c`, if there is one (R131, R133, R250): its new slot. -/
def State.moveThread (s : State) (t : Tid) (c : Nat) : Option (Tid × State) :=
  let x := s.slot t
  let h := s.handle t
  let fwd := if x.th.owed.isEmpty then none else (s.core t.core).fwdFree
  let th := match fwd with
    | some i => x.th.viaEntry t.core i
    | none => x.th
  match s.create c { th with wait := .none } with
  | none => none
  | some (u, s) =>
    let s := s.rebind h t x.gen u
    let s := match fwd with
      | some i => s.modCore t.core fun k => { k with fwd := k.fwd.set i (.thread h u x.th.owed.length) }
      | none => s
    some (u, s.leaveSlot t (.moved (s.handle u)))

/-- The arrival of the thread at `t` from core `from_`: on another cluster an acquire before its first issue there, which waits
for every forwarded reply (R122, R132, R133). -/
def State.arriveFrom (s : State) (t : Tid) (from_ : Nat) : State :=
  if clusterOf t.core = clusterOf from_ then s
  else if (s.thread t).owed.isEmpty then s.acquireAt t.core .pod
  else s.modSlot t fun x => { x with st := .stall, th := { x.th with wait := .retry .arrive } }

/-- The thread owes a forwarding entry to its move, and its core has none free: the move waits (R133). -/
def State.entryLacks (s : State) (t : Tid) : Bool := !(s.thread t).owed.isEmpty && (s.core t.core).fwdFree.isNone

/-- A context may hold one more slot on a core when one it holds elsewhere goes free (R142, R250). -/
def State.moveQuota (s : State) (ctx c : Nat) : Bool := decide (s.slotsOn ctx c + 1 ≤ (s.ctx ctx).quota.slotsCore)

/-- One thread of a core's command has moved; with none left to move the command is over. -/
def State.outriderLess1 (s : State) (core : Nat) : State :=
  { s with outrider := s.outrider.filterMap fun e =>
      if e.1 ≠ core then some e else if e.2.2 ≤ 1 then none else some (e.1, e.2.1, e.2.2 - 1) }

/-- MIGRATION_ARRIVAL: a MIGR ends with its new handle or FULL. A move of the Outrider that finds its thread no longer READY, no
quota or no slot is skipped; it waits for the thread's engine commands, stores and forwarding entry (R131, R133, R174, R250). It is
done once the clocks of both cores run (R153, R445, R448). -/
def execMigrationArrival (core slot : Nat) (s : State) : Host.Outcome State Fault Refusal :=
  let t : Tid := { core := core, slot := slot }
  .next (match s.moves.find? fun m => m.tid = t with
    | none => s
    | some m =>
      let drop : State := { s with moves := s.moves.filter fun e => e.tid ≠ t }
      s.atRunning m.dest fun s => s.atRunning core fun s =>
      let drop : State := { s with moves := drop.moves }
      if m.xd.isSome && s.entryLacks t then s
      else
        let ctx := (s.thread t).ctx
        match m.xd with
        | some xd =>
          match (if s.moveQuota ctx m.dest then drop.moveThread t m.dest else none) with
          | some (u, s') =>
            let h := word (s'.handle u)
            ((((s'.at_ u).accept xd m.pd m.pe h)).at_ s.cur).arriveFrom u t.core
          | none => ((drop.at_ t).refuse xd m.pd m.pe .full).at_ s.cur
        | none =>
          if (s.slot t).st ≠ .ready ∨ (s.thread t).group.isSome ∨ s.moveQuota ctx m.dest = false then drop
          else if !s.mayMove t then s
          else match drop.moveThread t m.dest with
            | some (u, s') => (s'.outriderLess1 t.core).arriveFrom u t.core
            | none => drop)

/-- FORWARDING_ENTRY_FREE (R225). -/
def execForwardingEntryFree (core idx : Nat) (s : State) : Host.Outcome State Fault Refusal :=
  .next (match (s.core core).fwd.get? idx with
    | some (.group _ _ at_) => if at_ ≤ s.now then s.modCore core fun k => { k with fwd := k.fwd.erase idx } else s
    | _ => s)

/-! ### The task queue (R171, R172) -/

/-- A continuation record is well formed. -/
def contOk (d : List Byte) : Bool :=
  ((d.drop 240).all fun b => b = 0) && (((d.drop 34).take 6).all fun b => b = 0) && decide (getLe d 32 1 < 4)
  && decide (getLe d 33 1 < 128) && pcOk (word (getLe d 8 8)) && pcOk (word (getLe d 16 8)) && pcOk (word (getLe d 24 8))

/-- The thread a continuation record describes (R171, R172, R283). -/
def contThread (s : State) (c : Nat) (d : List Byte) : Thread :=
  let pc := word (getLe d 8 8)
  let npc := word (getLe d 16 8)
  let nnpc := word (getLe d 24 8)
  { Thread.reset with
    x := Vector.ofFn fun i => word (getLe d (112 + 8 * i.val) 8),
    p := Vector.ofFn fun i => if i.val = 0 then 0 else word (getLe d (48 + 8 * i.val) 8),
    e := Vector.ofFn fun i => BitVec.ofNat 16 (getLe d (40 + 2 * i.val) 2),
    pc := pc, npc := npc, nnpc := nnpc, a0 := bitN (getLe d 32 1) 0, a1 := bitN (getLe d 32 1) 1,
    k0 := true, k1 := decide (npc ≠ nextPc pc), k2 := decide (nnpc ≠ nextPc npc),
    prio := getLe d 33 1, tvec := (s.ctx c).tvec, ctx := c }

/-- `n` bytes of virtual memory of a context read by a core, page by page; `fuel` bounds the pages. -/
def State.agentBytes (s : State) (c : Nat) : Nat → Nat → Nat → AgentRead × State
  | 0, _, _ => (.data [], s)
  | fuel + 1, va, n =>
    let m := Nat.min n (4096 - va % 4096)
    match s.agentLoad c va m with
    | (.data d, s) =>
      if n ≤ m then (.data d, s)
      else match s.agentBytes c fuel (va + m) (n - m) with
        | (.data r, s) => (.data (d ++ r), s)
        | r => r
    | r => r

/-- Bytes that a core writes to virtual memory of a context, at home; on another chip in a packet of its own (R172, R425; log 24).
False: the write waits at its home. The model's choice: the page's W permission is not tested, and nothing is written where the
address no longer translates or its home refuses it; R172 says none of this (log 96). -/
def State.agentWrite (s : State) (c va : Nat) (d : List Byte) : Bool × State :=
  match s.xlateFor c va .read with
  | .error _ => (true, s)
  | .ok t =>
    if t.chip ≠ s.chip then
      (true, s.sendTx c .agent (s.packet .wr t.chip (s.ctx c).tag 0 t.bwc .plain t.pa d.length 0 d))
    else match s.agentGate t d.length true with
      | .go pa s => (true, s.storeFor c pa d)
      | .later s => (false, s)
      | .full => (false, s)
      | .refused _ => (true, s)

/-- The STATE word of a continuation record (R171). -/
def contState (st : Status) (h : Nat) : List Byte := bytesOf 8 (2 ^ 63 + stCode st * 2 ^ 34 + h)

/-- TASK_QUEUE_RESTORE, once the core's clock runs; while a read or the write waits at its home nothing else is done (R448). A record
that cannot be read fails its check (log 24). The completion record's ITEM names the task queue and
the index 0 of the head entry, as the model's choice (R150, R172; log 96). -/
def execTaskQueueRestore (core : Nat) (s : State) : Host.Outcome State Fault Refusal :=
  .next (match (s.core core).taskq with
    | [] => s
    | (a, c) :: rest =>
      if (s.freeSlots core).isEmpty || !s.slotQuota c core 1 then s
      else s.atRunning core fun s0 =>
        let s := (s0.acquireAt core .dev).modCore core fun k => { k with taskq := rest }
        let write := fun (s : State) (d : List Byte) => match s.agentWrite c a.toNat d with
          | (true, s) => s
          | (false, done) => s0.onlyWakes done
        let bad := fun (s : State) (cause : Nat) =>
          write (s.record c 4 (queueItem (queueId 3 core) 0) .fault cause 0 0) (contState .fault 0)
        match s.agentBytes c 2 a.toNat 256 with
        | (.wait, done) => s0.onlyWakes done
        | (.bad e, s) => bad s (causeCode e)
        | (.data d, s) =>
          if contOk d then
            match s.create core (contThread s c d) with
            | some (t, s) => write s (contState .ok (s.handle t))
            | none => s
          else bad s 0)

/-! ### The Outrider (R173, R174) -/

/-- READY loose threads of a core. -/
def State.readyLoose (s : State) (core : Nat) : List Tid :=
  s.liveSlots.filter fun t => decide (t.core = core) && decide ((s.slot t).st = .ready) && (s.thread t).group.isNone

/-- A command of the Outrider from this core has not finished. -/
def State.outriderBusy (s : State) (core : Nat) : Bool :=
  s.outrider.any fun e => e.1 = core

/-- Ready count and FREE slots of every core. -/
def State.occupancy (s : State) : List (Nat × Nat × Nat) :=
  (List.range 256).map fun c => (c, Nat.min 255 (s.readyLoose c).length, (s.freeSlots c).length)

/-- The destination for a source: the same cluster, then the same die, then the device (R173). -/
def outriderDest (occ : List (Nat × Nat × Nat)) (used : List Nat) (src : Nat) : Option (Nat × Nat) :=
  let ok := occ.filter fun e => decide (e.2.1 = 0) && decide (0 < e.2.2) && decide (e.1 ≠ src) && !used.contains e.1
  let pick := fun (p : Nat → Bool) => (ok.find? fun e => p e.1).map fun e => (e.1, e.2.2)
  ((pick fun c => decide (clusterOf c = clusterOf src)).or (pick fun c => decide (dieOf c = dieOf src))).or (pick fun _ => true)

/-- The commands of a period, cores taken in rising order. A core whose previous command has not finished is skipped as a source
only, and may still be a destination: the model's reading of R173 (log 97). -/
def outriderPlan (m : Nat) (occ : List (Nat × Nat × Nat)) (busy : Nat → Bool) : List (Nat × Nat × Nat) :=
  (occ.foldl (fun (acc : List Nat × List (Nat × Nat × Nat)) e =>
    if e.2.1 < m + 4 ∨ busy e.1 = true ∨ acc.1.contains e.1 = true then acc
    else match outriderDest occ acc.1 e.1 with
      | some (d, free) => (e.1 :: d :: acc.1, acc.2 ++ [(e.1, d, Nat.min 16 (Nat.min ((e.2.1 - m) / 2) free))])
      | none => acc) ([], [])).2

/-- OUTRIDER_PERIOD. -/
def execOutriderPeriod (s : State) : Host.Outcome State Fault Refusal :=
  let occ := s.occupancy
  let m := (occ.map fun e => e.2.1).sum / 256
  .next { s with outrider := s.outrider ++ outriderPlan m occ s.outriderBusy }

/-- A thread goes before another on the Outrider's list: lower effective priority, then higher slot. -/
def State.outriderLess (s : State) (a b : Tid) : Bool :=
  let p := fun (t : Tid) => (s.thread t).effPrio (s.core t.core) (s.core t.core).cyc
  decide (p a < p b) || (decide (p a = p b) && decide (b.slot < a.slot))

/-- `t` put in its place on such a list. -/
def State.outriderInsert (s : State) (t : Tid) : List Tid → List Tid
  | [] => [t]
  | u :: l => if s.outriderLess t u then t :: u :: l else u :: s.outriderInsert t l

/-- OUTRIDER_COMMAND: the threads to move are named; each moves at its MIGRATION_ARRIVAL. The command stands with the count it
has left, so that a thread that was skipped gives way to the next one, and is over with no thread to name (R173, R174). -/
def execOutriderCommand (core : Nat) (s : State) : Host.Outcome State Fault Refusal :=
  .next (match s.outrider.find? fun e => e.1 = core with
    | none => s
    | some (src, dst, n) =>
      let named := (s.moves.filter fun m => decide (m.tid.core = src) && m.xd.isNone).length
      let ok := (s.readyLoose src).filter fun t => s.moveQuota (s.thread t).ctx dst && !(s.moves.any fun m => m.tid = t)
      let l := (ok.foldl (fun l t => s.outriderInsert t l) []).take (n - named)
      if named = 0 ∧ l = [] then { s with outrider := s.outrider.filter fun e => e.1 ≠ core }
      else { s with moves := s.moves ++ l.map fun t => { tid := t, dest := dst, xd := none, pd := 0, pe := 0 } })

end Sys2Proof.Machine
end

