-- ==== Sys2Proof/Machine/EvStarter.lean ====
section
/-! DEFINITION. The events of the Starter: LAUNCH_WINDOW_WRITE (06_queue R159), TAKE_LAUNCH_RECORD (R161; 07_kernel R186,
R189, R194), GROUP_PLACE (R188, R195 to R198, R200; 08_group R209, R211, R214), PLACEMENT_FAIRNESS_TIMEOUT (R198), and what a
core needs to take a group (R196). An event that is not enabled leaves the state unchanged (log 2). -/

namespace Sys2Proof.Machine

/-! ### The append area -/

/-- The context at a position of an interface (R139). -/
def State.ctxAt (s : State) (iface pos : Nat) : Option Nat :=
  (s.ctxs.find fun _ c => decide (c.st ≠ .free) && decide (c.iface = iface) && decide (c.pos = pos)).map (·.1)

/-- One record that a queue does not append (R159). -/
def State.dropRecord (s : State) (c q : Nat) (st : Status) : State :=
  match (s.ctx c).queues.get? q with
  | none => s
  | some l =>
    let s := s.modCtx c fun k => { k with queues := k.queues.set q { l with drops := l.drops + 1 } }
    s.record c 4 (queueItem (launchQid (s.ctx c) q) l.tail) st 0 0 0

/-- Records appended in address order, `n` of them from offset `o` of a window (R159). -/
def State.appendRecs (s : State) (c q o : Nat) (d : List Byte) : Nat → State
  | 0 => s
  | n + 1 =>
    let s :=
      if 0x8000 ≤ o then s
      else match (s.ctx c).queues.get? q with
        | none => s
        | some l =>
          if l.tail - l.head < l.depth then
            s.modCtx c fun k => { k with queues := k.queues.set q { l with tail := l.tail + 1, recs := l.recs ++ [d.take 64] } }
          else s.dropRecord c q .full
    s.appendRecs c q (o + 64) (d.drop 64) n

/-- LAUNCH_WINDOW_WRITE. A write in the append area that is no whole aligned units is one record not appended, FAULT
(log 25). -/
def execLaunchWindowWrite (iface off : Nat) (bytes : List Byte) (s : State) : Host.Outcome State Fault Refusal :=
  let o := off % 0x10000
  let q := off / 0x10000 % 4
  .next (if 64 ≤ iface ∨ 0x400000 ≤ off ∨ bytes = [] then s
    else match s.ctxAt iface (off / 0x40000) with
      | none => s
      | some c =>
        if ((s.ctx c).queues.get? q).isNone ∨ 0x8000 ≤ o then s
        else if o % 64 = 0 ∧ bytes.length % 64 = 0 then s.appendRecs c q o bytes (bytes.length / 64)
        else s.dropRecord c q .fault)

/-! ### Taking a record -/

/-- The queue of a context that is served next (R161). -/
def Context.nextQueue (k : Context) : Option Nat :=
  ((List.range 4).map fun i => (k.lastQ + 1 + i) % 4).find? fun q =>
    match k.queues.get? q with
    | some l => !l.paused && !l.recs.isEmpty
    | none => false

/-- The context the Starter visits next (R161). -/
def State.nextCtx (s : State) : Option Nat :=
  ((List.range 256).map fun i => (s.lastCtx + 1 + i) % 256).find? fun c =>
    let k := s.ctx c
    decide (k.st = CtxSt.opened) && k.nextQueue.isSome && decide (s.inFlight c < k.quota.launches)

/-- Producers that a mask names, by the serials taken from the queue, latest first (R189). -/
def producersOf (deps : Nat) (taken : List Nat) : List Nat :=
  (List.range 8).filterMap fun i => if bitN deps i then taken[i]? else none

/-- A record taken from queue `q` of context `c`, with its shape image (R186, R189, R194). -/
def State.takeRecord (s : State) (c q : Nat) (d : List Byte) (image : AgentRead) (taken : List Nat) : State :=
  let r := recOf d
  let ps := producersOf r.deps taken
  let bad := fun (s : State) =>
    let k := s.nextLaunch
    let l : Launch := { ctx := c, rcd := r, producers := ps, order := k, st := .queued, eligible := false, names := [],
                        trig := [], aborted := false, shape := [], since := none, fair := false, pendCore := none, after := (0, []) }
    let s : State := { s with launches := s.launches.set k l, nextLaunch := k + 1 }
    s.endLaunch k .fault 0 0
  let serial := s.nextLaunch
  let s :=
    if r.formOk (s.ctx c).quota.blocks then
      match image with
      | .data image => s.takeLaunch c r image ps
      | _ => bad s
    else bad s
  s.modCtx c fun k => { k with lastQ := q, queues := match k.queues.get? q with
    | some l => k.queues.set q { l with taken := (serial :: l.taken).take 8 }
    | none => k.queues }

/-- TAKE_LAUNCH_RECORD. The record stays in its queue while the read of its shape image waits at its home (R200, R208). -/
def execTakeLaunchRecord (s : State) : Host.Outcome State Fault Refusal :=
  .next (match s.nextCtx with
    | none => s
    | some c => match (s.ctx c).nextQueue with
      | none => s
      | some q => match (s.ctx c).queues.get? q with
        | none => s
        | some l => match l.recs with
          | [] => s
          | d :: rest =>
            match (if (recOf d).formOk (s.ctx c).quota.blocks then s.shapeImage c (recOf d) else (.data [], s)) with
            | (.wait, done) => s.onlyWakes done
            | (image, s) =>
              let s : State := { s with lastCtx := c }
              let s := s.modCtx c fun k => { k with queues := k.queues.set q { l with head := l.head + 1, recs := rest } }
              s.takeRecord c q d image l.taken)

/-! ### What a group needs of a core (R196) -/

/-- Needs of a group. -/
structure Need where
  ctx : Nat
  /-- KIND: 0 either, 1 narrow, 2 wide. -/
  kind : Nat
  threads : Nat
  vregs : Nat
  blocks : Nat
  launch : Nat
deriving DecidableEq, Repr

/-- The core's cluster is of the kind. -/
def kindOk (kind core : Nat) : Bool :=
  decide (kind = 0) || (decide (kind = 1) && isNarrowCore core) || (decide (kind = 2) && !isNarrowCore core)

/-- The core may hold the kernel's shape record (R103). -/
def State.shapeRoom (s : State) (core launch : Nat) : Bool :=
  let t := (s.core core).shapes
  (t.get? launch).isSome || decide (t.length < 16)

/-- Slots, window and blocks for the group are there now. -/
def State.roomFor (s : State) (n : Need) (core : Nat) : Bool :=
  decide (n.threads ≤ (s.freeSlots core).length) && s.slotQuota n.ctx core n.threads
  && (s.findWindow n.ctx core n.vregs).isSome
  && decide (n.blocks ≤ (s.freeBlocks core).length)
  && decide (s.blocksOf n.ctx core + n.blocks ≤ (s.ctx n.ctx).quota.blocks)

/-- The core can take the group. -/
def State.canTake (s : State) (n : Need) (core : Nat) : Bool :=
  kindOk n.kind core && s.shapeRoom core n.launch && s.roomFor n core

/-- The needs of the next group of a launch. -/
def Launch.need (l : Launch) (k : Nat) : Need :=
  { ctx := l.ctx, kind := l.rcd.ckind, threads := l.rcd.threadCount, vregs := l.rcd.vregs, blocks := l.rcd.blocks, launch := k }

/-- Group indices of a core of origin in use (R210, R214). -/
def State.usedIdx (s : State) (core : Nat) : List Nat :=
  s.groups.keys.filterMap fun n => if realGroup n ∧ fld n 14 8 = core then some (fld n 8 6) else none

/-- The index that has been free longest, the lowest of equals (R214). -/
def State.freeIndex (s : State) (core : Nat) : Option Nat :=
  let used := s.usedIdx core
  ((List.range 64).filter fun i => !used.contains i).foldl (fun best i =>
    let age := fun (i : Nat) => (s.core core).idxFreed.getD i 0
    match best with
    | none => some i
    | some b => if age i < age b then some i else some b) none

/-- Threads of a context on a core. -/
def State.threadsOn (s : State) (c core : Nat) : Nat := s.slotsOn c core

/-- The first of a list with the least measure. -/
def leastBy (f : Nat → Nat) : List Nat → Option Nat
  | [] => none
  | a :: l => match leastBy f l with
    | none => some a
    | some b => if f b < f a then some b else some a

/-- The core chosen among some, by the context's pack or spread bit (R197). -/
def State.chooseCore (s : State) (c : Nat) (cores : List Nat) : Option Nat :=
  let cl := (List.range 32).filter fun k => cores.any fun x => decide (clusterOf x = k)
  if (s.ctx c).spread then
    (leastBy (fun k => ((coresOf k).map (s.threadsOn c)).sum) cl).bind fun k =>
      leastBy (s.threadsOn c) (cores.filter fun x => clusterOf x = k)
  else (cl.head?).bind fun k => cores.find? fun x => clusterOf x = k

/-! ### Placement -/

/-- Digits of a number in mixed radix, most significant first; extents are one more than the list's numbers (R187). -/
def mixedDigits : List Nat → Nat → List Nat
  | [], _ => []
  | n :: rest, r =>
    let m := (rest.map (· + 1)).foldl (· * ·) 1
    (r / m % (n + 1)) :: mixedDigits rest (r % m)

/-- The work identifier of a rank and position (R187). -/
def LRec.widOf (r : LRec) (rank pos : Nat) : Word :=
  let f := mixedDigits (r.n.take (r.glv + 1)) rank ++ mixedDigits (r.n.drop (r.glv + 1)) pos
  word ((r.w.zip f).foldl (fun a e => a * 2 ^ e.1 + e.2) 0)

/-- A thread of a placed group (R188). -/
def placedThread (s : State) (l : Launch) (k name rank pos : Nat) : Thread :=
  ({ Thread.reset with
     x := #v[0, l.rcd.arg, l.rcd.widOf rank 0, word pos, 0, 0, 0, 0, 0, 0, 0, 0, 0, 0, 0, 0],
     tvec := (s.ctx l.ctx).tvec, ctx := l.ctx, prio := l.rcd.prio, group := some name, launch := some k,
     wid := l.rcd.widOf rank pos, pos := pos }).startAt l.rcd.entry

/-- The next group of launch `k` placed on a core that can take it (R188, R195, R200, R209, R211, R214). -/
def State.makeGroup (s : State) (k : Nat) (l : Launch) (core : Nat) : Option State :=
  match s.freeIndex core, s.findWindow l.ctx core l.rcd.vregs with
  | some idx, some (bank, base) =>
    let gen := nextGen (match s.dir.get? (core * 64 + idx) with | some d => d.gen | none => 0)
    let name := groupName s.chip core idx gen
    let rank := l.names.length
    let g : Group := { Group.reset with
      name := name, core := core, ctx := l.ctx, launch := k, rank := rank, wid := l.rcd.widOf rank 0, st := .running,
      vregs := l.rcd.vregs, bank := bank, base := base, pool := (s.freeBlocks core).take l.rcd.blocks }
    let s := if l.rcd.vregs = 0 then s else s.wakeBank core bank
    let s := { s with
      groups := s.groups.set name g,
      dir := s.dir.set (core * 64 + idx) { st := .running, gen := gen, tag := (s.ctx l.ctx).tag, chip := s.chip, core := core, at_ := 0, locked := false } }
    let s := s.modCore core fun c =>
      { c with shapes := if (c.shapes.get? k).isSome then c.shapes else c.shapes.set k l.shape }
    let s := s.acquireAt core .dev
    let s := (List.range l.rcd.threadCount).foldl (fun s pos =>
      match s.create core (placedThread s l k name rank pos) with
      | some (_, s) => s
      | none => s) s
    let now := s.now
    some (s.modLaunch k fun l => { l with names := l.names ++ [name], since := some now, noCore := none, fair := false, pendCore := l.pendCore.filter (· ≠ core) })
  | _, _ => none

/-- The state a launch goes to when a group of it has been placed (R194). -/
def State.afterPlace (s : State) (k : Nat) : State :=
  match s.launches.get? k with
  | none => s
  | some l =>
    let more := decide (l.names.length < l.rcd.groupCount)
    match l.st with
    | .queued =>
      if l.producers.all s.triggered then s.setLaunch k (if more then .running else .draining)
      else s.setLaunch k .prologue
    | .running => if more then s else s.setLaunch k .draining
    | _ => s

/-- The launch may place groups: it is eligible and one remains (R194, R198). -/
def Launch.placing (l : Launch) : Bool :=
  l.eligible && !l.aborted && decide (l.names.length < l.rcd.groupCount)
  && (decide (l.st = .queued) || decide (l.st = .prologue) || decide (l.st = .running))

/-- Every write that the context made before the launch has been performed (R30; log 87). -/
def State.writesDone (s : State) (l : Launch) : Bool :=
  !(s.stores.any fun x => decide (x.ctx = l.ctx) && decide (x.id < l.after.1) && x.phase.pending)
  && !(l.after.2.any fun e => ((s.core e.1).cmds.any fun d => decide (d.id = e.2) && decide (d.ctx = l.ctx)))

/-- The cores on which launch `k` may place its next group now: R30, R196, and R198's limit for the younger launches of a
context. -/
def State.coresFor (s : State) (k : Nat) (l : Launch) : List Nat :=
  let older := s.launches.filter fun e => decide (e.1 < k) && decide (e.2.ctx = l.ctx) && e.2.placing && e.2.fair
  let n := l.need k
  if !s.writesDone l then []
  else (List.range 256).filter fun c =>
    s.canTake n c && (s.freeIndex c).isSome && older.all fun e => !kindOk e.2.rcd.ckind c

/-- GROUP_PLACE: the next group of the oldest launch that has a core for it, once the core's clock runs (R153, R445, R448). -/
def execGroupPlace (s : State) : Host.Outcome State Fault Refusal :=
  .next (match s.launches.findSome? fun e =>
      if e.2.placing then (s.chooseCore e.2.ctx (s.coresFor e.1 e.2)).map fun c => (e.1, e.2, c) else none with
    | none => s
    | some (k, l, c) =>
      s.atRunning c fun s =>
        match s.makeGroup k l c with
        | some s => s.afterPlace k
        | none => s)

/-- PLACEMENT_FAIRNESS_TIMEOUT: the next group has waited 100 µs. -/
def execPlacementFairnessTimeout (serial : Nat) (s : State) : Host.Outcome State Fault Refusal :=
  .next (match s.launches.get? serial with
    | some l => match l.since with
      | some t => if l.placing && decide (t + 100000 ≤ s.now) then s.modLaunch serial fun l => { l with fair := true } else s
      | none => s
    | none => s)

end Sys2Proof.Machine
end

