-- ==== Sys2Proof/Machine/Evict.lean ====
section
/-! DEFINITION. Eviction, images and restore: wake conditions of saved threads (09_thread_life R257, R258), thread records
(R258, R259), what a core wants room for (R260), images leaving their slots and coming back (08_group R209, R210, R223 to
R225; 09_thread_life R259). -/

namespace Sys2Proof.Machine

/-! ### Wake conditions -/

/-- A KWAIT of the launch may end (R204). -/
def State.kwaitOver (s : State) (k : Option Nat) : Bool :=
  match k.bind fun k => s.launches.get? k with
  | none => true
  | some l => l.aborted || !(decide (l.st = .prologue) || decide (l.st = .queued) || decide (l.st = .waiting))

/-- A JOIN of the handle may end (R249). -/
def State.joinOver (s : State) (c h : Nat) : Bool :=
  let x := s.slot { core := fld h 16 8, slot := fld h 8 8 }
  if x.st.live && decide (x.gen = fld h 0 8) then decide (x.th.ctx ≠ c)
  else match x.dep with
    | some (gen, .saved, _) => decide (gen ≠ fld h 0 8)
    | _ => true

/-- A BWAIT of a handle has its entry at its home, or its question is on its way to another chip (R396). -/
def State.asked (s : State) (h : Nat) (t : Target) : Bool :=
  if t.chip = s.chip then (s.core (homeCore t.pa)).bwt.any fun w => w.far.isNone && decide (w.h = h)
  else s.txs.any fun x => x.what = .bar h

/-- An LDE of a handle is on its way to another chip, or waits there (R101; log 42). -/
def State.askedLde (s : State) (h : Nat) : Bool := s.txs.any fun x => x.what = .lde h

/-- The wake condition of a thread whose slot was on a core (R257): its wait may end, or a trap is pending (R292). -/
def State.wakes (s : State) (core : Nat) (th : Thread) (h : Nat) : Bool :=
  !th.pend.isEmpty || (match th.wait with
    | .block (.bwait tgt _ _ _) => th.bwaitDone.isSome || !s.asked h tgt
    | .block (.recv k) => (match s.box? core k with
        | some m => decide (m.ctx ≠ th.ctx) || !m.msgs.isEmpty
        | none => true)
    | .block (.lde t _ _ _) => if t.chip = s.chip then s.isFull t.pa else th.ldeDone.isSome || !s.askedLde h
    | .block (.owed x) => th.owed.all fun o => o.x ≠ x
    | .block (.semw k n) => decide (n ≤ th.e[k].toNat)
    | .block (.vhold i) => (match th.group with
        | some g => decide ((s.group g).armOf i = 0)
        | none => true)
    | .block (.kwait _ _ _) => s.kwaitOver th.launch
    | .block (.join h _ _ _) => s.joinOver th.ctx h
    | _ => true)

/-- A saved group's thread can go on (R209). -/
def State.groupWakes (s : State) (g : Group) : Bool := g.saved.any fun e => s.wakes g.core e.1 e.2

/-! ### Thread records -/

/-- The registers a thread record keeps (R258). -/
def Thread.record (t : Thread) : Thread :=
  { t with k0 := false, tsave0 := 0, tsave1 := 0, tcause := 0, taddr := 0, tpc0 := 0, tpc1 := 0, tpc2 := 0, tann := 0,
           eb := Vector.replicate 4 0, lastIssue := none, readyAt := 0, reissue := true, entering := false,
           walkFault := none, pages := [], fetched := none, pairRest := false, pairLine := [], resumed := false }

/-- The thread at `t` is taken out of its slot, which stays SAVING: it leaves mailbox and LDE queues, and its write-combining
buffers drain (R101, R110, R169, R259). The question of an LDE on another chip stands, and its answer goes to the record (log 42). -/
def State.takeOut (s : State) (t : Tid) : State :=
  let s := s.drainBuffers fun x => decide (x.tid = t)
  let s : State := { s with
    ldeq := s.ldeq.filter fun w => w.who ≠ .thread t,
    cores := s.cores.mapVals fun _ k =>
      { k with boxes := k.boxes.mapVals fun _ m => { m with recvs := m.recvs.filter fun r => r.tid ≠ t } } }
  s.modSlot t fun x => { x with th := { Thread.reset with ctx := x.th.ctx } }

/-- The slot of a saved thread goes FREE; an Outrider command that named the thread names it no more (R174, R230, R232). -/
def State.freeSaved (s : State) (t : Tid) : State :=
  let x := s.slot t
  let n := (s.core t.core).departs
  ({ s.setSlot t { x with st := .free, dep := some (x.gen, .saved, n), th := Thread.reset } with
    moves := s.moves.filter fun m => m.tid ≠ t }).modCore t.core fun k => { k with departs := n + 1 }

/-- A saved thread is created in a slot of a core under a new handle; its old slot's record names it (R231, R232, R258). -/
def State.bringBack (s : State) (core : Nat) (th : Thread) (h : Nat) : Option (Tid × State) :=
  match s.create core { th with wait := .none } with
  | none => none
  | some (u, s) =>
    let old := tidOf h
    let s := s.rebind h old (fld h 0 8) u
    let s : State := { s with cores := s.cores.mapVals fun _ k => { k with bwt := k.bwt.filter fun b => b.far.isSome || decide (b.h ≠ h) } }
    some (u, s.modSlot old fun x => match x.dep with
      | some (gen, .saved, a) => if gen = fld h 0 8 then { x with dep := some (gen, .moved (s.handle u), a) } else x
      | _ => x)

/-! ### What a core wants room for (R260) -/

/-- What is missing for a need: a context when its quota alone stands in the way, and of what there is too little. -/
def State.lacks (s : State) (n : Need) (core : Nat) (blocks : Nat) : Option (Option Nat × Room) :=
  let lifted := s.modCtx n.ctx fun c => { c with quota := { c.quota with banks := 16 } }
  if (s.freeSlots core).length < n.threads then some (none, .slot)
  else if !s.slotQuota n.ctx core n.threads then some (some n.ctx, .slot)
  else if (s.findWindow n.ctx core n.vregs).isNone then
    some (if (lifted.findWindow n.ctx core n.vregs).isSome then some n.ctx else none, .bank)
  else if (s.freeBlocks core).length < blocks then some (none, .block)
  else if (s.ctx n.ctx).quota.blocks < s.blocksOf n.ctx core + blocks then some (some n.ctx, .block)
  else none

/-- The needs of a saved group's restore. -/
def Group.need (g : Group) : Need :=
  { ctx := g.ctx, kind := if isNarrowCore g.core then 1 else 2, threads := g.saved.length, vregs := g.vregs,
    blocks := g.blocks.length, launch := g.launch }

/-- The core a saved group goes back to, or on to when the Farrier moves it (R225). -/
def Group.goal (g : Group) : Nat := g.moveTo.getD g.core

/-- A saved group on its way into a core: RESTORING, or moved by the Farrier out of a SPILLED image, whose tiles stay in their
blocks until then (R209, R210, R225). -/
def Group.moving (g : Group) : Bool := decide (g.st = .restoring) || (decide (g.st = .spilled) && g.moveTo.isSome)

/-- A saved loose thread that may be restored. -/
def State.imageReady (s : State) (i : Image) : Bool := i.complete && s.wakes i.core i.th i.hnd

/-- Everything that waits for room on a core: spawns, pending placements, restores. -/
def State.wants (s : State) (core : Nat) : List (Option Nat × Room) :=
  (s.liveSlots.filterMap fun t =>
    if t.core = core ∧ (s.thread t).wait = .retry .slot then (s.slotBlock (s.thread t).ctx core).map fun o => (o, .slot) else none)
  ++ (s.launches.filterMap fun e =>
    if e.2.pendCore = some core ∧ e.2.placing then s.lacks (e.2.need e.1) core e.2.rcd.blocks else none)
  ++ (s.images.filterMap fun e =>
    if e.2.core = core ∧ s.imageReady e.2 then (s.slotBlock e.2.th.ctx core).map fun o => (o, .slot) else none)
  ++ (s.groups.filterMap fun e =>
    if realGroup e.1 ∧ e.2.goal = core then
      (if e.2.moving then s.lacks e.2.need core e.2.blocks.length
       else if e.2.st = .spilled ∧ s.groupWakes e.2 then s.lacks e.2.need core 0
       else none)
    else none)

/-- Spill space of a core is wanted: blocks are being reclaimed, or something waits for room (R209, R324). -/
def State.spillWanted (s : State) (core : Nat) : Bool :=
  !(s.wants core).isEmpty || s.liveSlots.any fun t => decide (t.core = core)
    && (match (s.thread t).wait with | .retry (.blocks _) => true | _ => false)

/-! ### Images -/

/-- The eviction of a core's candidate ends without an image: its slots wait again (R209, R259). -/
def State.abandonEvict (s : State) (core : Nat) (isGroup : Bool) (key : Nat) : State :=
  let ts := s.candSlots (isGroup, key, 0, 0)
  let s := ts.foldl (fun s t => s.modSlot t fun x => if x.st = .saving then { x with st := .wait } else x) s
  s.modCore core fun k => { k with evict := none }

/-- A marked word in the registers or tiles of a group that is copied to the save area: an uncorrectable error in a save image
(R145, R477). -/
def State.imageMarked (s : State) (core : Nat) (g : Group) : Bool :=
  (s.eccV.any fun e => e.1 = g.name) || s.eccAcc.any fun e => decide (e.1 = core) && g.tileBlocks.contains e.2.1

/-- A marked word in a group's image in the spill map (R477). -/
def State.groupMarked (s : State) (name : Nat) : Bool :=
  let g := s.group name
  (s.eccV.any fun e => e.1 = name) || s.spillMarked g.core name (g.spillLen g.saved.length)

/-- The commit of a loose thread's eviction: its image goes to the spill map, or to the save area (R259). -/
def State.commitLoose (s : State) (core : Nat) (t : Tid) : State :=
  let h := s.handle t
  let th := s.thread t
  let put := fun (spill : Bool) (s : State) =>
    let s := s.takeOut t
    ({ s with images := s.images.set (imageKey h) { th := th.record, hnd := h, core := core, spill := spill, complete := false,
                                                    since := none } } : State)
  match s.spillUnits core 256 with
  | some u => put true (s.takeSpill core (imageKey h) 256 u)
  | none =>
    if !s.spillOnly t && s.saveRoom th.ctx 256 then put false (s.useSave th.ctx 256 (imageKey h))
    else s.abandonEvict core false t.key

/-- The directory entry of a group changed (R216). -/
def State.modDir (s : State) (name : Nat) (f : DirE → DirE) : State :=
  match s.dir.get? (dirKey name) with
  | some d => if d.gen = name % 256 then { s with dir := s.dir.set (dirKey name) (f d) } else s
  | none => s

/-- The commit of a group's eviction. The directory entry is locked from the start of a move, or of an image copy to the save area
(R209, R216, R223, R224). -/
def State.commitGroup (s : State) (core name : Nat) : State :=
  let ts := s.groupSlots name
  let g := s.group name
  let rs := ts.map fun t => ((s.thread t).record, s.handle t)
  let put := fun (lock : Bool) (s : State) =>
    ((ts.foldl State.takeOut s).modGroup name fun g => { g with saving := true, saved := rs }).modDir name fun d =>
      { d with locked := d.locked || lock }
  if s.eccV.any fun e => e.1 = name then s.kill g.ctx 2 (causeCode .ecc) 0
  else match s.spillUnits core (g.spillLen ts.length) with
    | some u => put g.moveTo.isSome (s.takeSpill core name (g.spillLen ts.length) u)
    | none =>
      if ts.all (fun t => !s.spillOnly t) && s.saveRoom g.ctx (g.saveLen ts.length) then
        (if s.imageMarked core g then s.kill g.ctx 2 (causeCode .ecc) 0
         else put true (s.useSave g.ctx (g.saveLen ts.length) name))
      else s.abandonEvict core true name

/-- The image of a group lies in the spill map of its core. -/
def State.inSpill (s : State) (core key : Nat) : Bool :=
  (s.core core).spillBlk.vals.contains key || (s.core core).spillBank.vals.contains key

/-- A complete group image: the slots go FREE, and the group is SPILLED, EVICTED, or on its way to a core named by the
Farrier (R209, R210, R225). -/
def State.groupSaved (s : State) (core name : Nat) : State :=
  let g := s.group name
  let s := g.saved.foldl (fun s e => s.freeSaved (tidOf e.2)) s
  let spilled := s.inSpill core name
  let s := s.modGroup name fun g =>
    { g with saving := false, st := if spilled then .spilled else if g.moveTo.isSome then .restoring else .evicted }
  let at_ := s.saveAt g.ctx name
  let s := if spilled then s else s.modDir name fun d => { d with st := .evicted, at_ := at_ }
  s.modDir name fun d => { d with locked := g.moveTo.isSome }

/-! ### Restore -/

/-- The threads of saved records come back to slots of a core; where it lies on another cluster, each acquires (R132, R258). -/
def State.bringAll (s : State) (core from_ : Nat) (l : List (Thread × Nat)) : State :=
  l.foldl (fun s e => match s.bringBack core e.1 e.2 with
    | some (t, s) => s.arriveFrom t from_
    | none => s) s

/-- A loose thread's image restored on a core with room, once the core's clock runs (R225, R258, R259); on another cluster it
acquires (R132). A marked word of the image kills the context (R145, R477). -/
def State.restoreLoose (s : State) (key core : Nat) : State :=
  match s.images.get? key with
  | none => s
  | some i =>
    if (s.freeSlots core).isEmpty || !s.slotQuota i.th.ctx core 1 then s
    else if i.spill && s.spillMarked i.core key 256 then s.kill i.th.ctx 2 (causeCode .ecc) 0
    else match s.touchSpill i.core key with
      | (false, s) => s
      | (true, s) => s.atRunning core fun s =>
        match s.bringBack core i.th i.hnd with
        | none => s
        | some (t, s) =>
          let s : State := { s with images := s.images.erase key }
          let s := if i.spill then s.freeSpill i.core key else s.unuseSave i.th.ctx key
          s.arriveFrom t i.core

/-- The tile with its blocks renumbered. -/
def Tile.moveBlocks (t : Tile) (m : List (Nat × Nat)) : Tile :=
  { t with blocks := t.blocks.map fun b => ((m.find? fun e => e.1 = b).map (·.2)).getD b }

/-- The tile after a restore: one that was SAVED when the group was evicted is CLOSED (R325). Its commands carry the numbers of the
engines of the core it is on, so that all of them come after the stop of a restored pass. -/
def Tile.restored (x : Tile) : Tile := { (if x.st = .saved then x.emptied else x) with stopAt := 0 }

/-- A group restored on a core that can take it; `fresh`: its column blocks are taken anew there (R209, R210, R225). -/
def State.restoreGroup (s : State) (name core : Nat) (fresh : Bool) : State :=
  let g := s.group name
  match s.findWindow g.ctx core g.vregs with
  | none => s
  | some (bank, base) =>
    let was := s.inSpill g.core name
    let s := if was then s.freeSpill g.core name else s.unuseSave g.ctx name
    let fwd := if g.moveTo.isSome ∧ core ≠ g.core then (s.core g.core).fwdFree else none
    let m := g.blocks.zip (s.freeBlocks core)
    let sub := fun (b : Nat) => if fresh then ((m.find? fun e => e.1 = b).map (·.2)).getD b else b
    let s := s.modGroup name fun g =>
      { g with core := core, st := .running, bank := bank, base := base, saved := [], moveTo := none, pool := g.pool.map sub,
               tiles := (if fresh then g.tiles.mapVals fun _ x => x.moveBlocks m else g.tiles).mapVals fun _ x => x.restored }
    let s := if g.vregs = 0 then s else s.wakeBank core bank
    let s := s.bringAll core g.core g.saved
    let rcd := match s.launches.get? g.launch with | some l => l.shape | none => zeros 256
    let s := s.modCore core fun k =>
      { k with shapes := if (k.shapes.get? g.launch).isSome then k.shapes else k.shapes.set g.launch rcd }
    let s := s.modDir name fun d =>
      { d with st := if core = fld name 14 8 then .running else .relocated, chip := s.chip, core := core, locked := false }
    let at_ := s.now + 3277
    match fwd with
    | some i => s.modCore g.core fun k => { k with fwd := k.fwd.set i (.group name core at_) }
    | none => s

/-- The order in which a restore looks for a core: the one it left, the same cluster, the same die, the device, the lowest
id first (R225). -/
def searchOrder (home : Nat) : List Nat :=
  let all := List.range 256
  home :: ((all.filter fun c => clusterOf c = clusterOf home) ++ (all.filter fun c => dieOf c = dieOf home) ++ all)

/-- The core on which a group in RESTORING is restored: the one the Farrier named, once it can take the group, or the first of
the search (R225; log 92). -/
def State.restoreCore (s : State) (g : Group) : Option Nat :=
  let ok := fun (c : Nat) => s.canTake g.need c
  match g.moveTo with
  | some c => if ok c then some c else none
  | none => (searchOrder g.core).find? ok

end Sys2Proof.Machine
end

