-- ==== Sys2Proof/Machine/Image.lean ====
section
/-! DEFINITION. The bytes of what lies in a save area: wake words (09_thread_life R257), thread records (R258), group images
(08_group R224) with their tile images (13_tile R345), binding records (16_barrier R398). State holds each as data; its bytes
stand in memory where the save area has it. -/

namespace Sys2Proof.Machine

/-! ### Threads -/

/-- The wake word of a wait (R257). -/
def Block.wakeWord : Block → Nat
  | .bwait _ phase va _ => 2 ^ 60 + b2n phase * 2 ^ 48 + va.toNat % 2 ^ 48
  | .recv box => 2 * 2 ^ 60 + box % 64
  | .lde _ _ _ va => 3 * 2 ^ 60 + va.toNat % 2 ^ 48 / 16 * 16
  | .owed x => 4 * 2 ^ 60 + x.val
  | .semw k n => 5 * 2 ^ 60 + k.val * 2 ^ 16 + n % 2 ^ 16
  | .vhold i => 6 * 2 ^ 60 + i % 64
  | .kwait serial _ _ => 7 * 2 ^ 60 + serial % 2 ^ 48
  | .join h _ _ _ => 8 * 2 ^ 60 + h % 2 ^ 34

/-- The wake word of a record; 0 where its thread does not wait (R257). -/
def Thread.wakeWord (t : Thread) : Nat := match t.wait with | .block b => b.wakeWord | _ => 0

/-- The 48 bits of TFL (R258); sr.watch has EN, WR, RD in bits 63 to 61 and LINE in [47:6] (R303). -/
def Thread.tfl (t : Thread) : Nat :=
  let w := t.watch.toNat
  b2n t.group.isNone + 2 * b2n t.bsk + 4 * b2n t.ne + 8 * b2n (bitN w 63) + 16 * b2n (bitN w 62) + 32 * b2n (bitN w 61)
  + 64 * fld w 6 42

/-- The thread record of 256 bytes (R171, R258). -/
def Thread.recordBytes (t : Thread) : List Byte :=
  bytesOf 8 t.wakeWord ++ bytesOf 8 t.pc.toNat ++ bytesOf 8 t.npc.toNat ++ bytesOf 8 t.nnpc.toNat
  ++ bytesOf 1 (b2n t.a0 + 2 * b2n t.a1 + 4 * b2n t.k1 + 8 * b2n t.k2) ++ bytesOf 1 t.prio ++ bytesOf 6 t.tfl
  ++ t.e.toList.flatMap (fun v => bytesOf 2 v.toNat) ++ bytesOf 8 t.bkpt.toNat
  ++ (t.p.toList.drop 1).flatMap (fun v => bytesOf 8 v.toNat) ++ t.x.toList.flatMap (fun v => bytesOf 8 v.toNat)
  ++ bytesOf 8 t.putfail.toNat ++ bytesOf 8 t.tvec.toNat

/-! ### Groups -/

/-- Open tiles of a group (R224). -/
def Group.openTiles (g : Group) : List (Nat × Tile) := g.tiles.filter fun e => decide (e.1 < 4) && decide (e.2.st = .opened)

/-- The index of a stopped pass's thread among the image's thread records (R345). -/
def Group.passThread (g : Group) (x : Tile) : Nat :=
  match x.pass with
  | some p => if x.part then (g.saved.findIdx? fun e => tidOf e.2 = p.tid ∧ fld e.2 0 8 = p.gen).getD 0 else 0
  | none => 0

/-- A tile's image within a group's, with RTH at byte 62. -/
def Group.tileImage (g : Group) (x : Tile) : List Byte := x.image.set 62 (BitVec.ofNat 8 (g.passThread x))

/-- A group image, with the launch serial number that KLNCH answers (R205); without the tile images in the spill map (R224). -/
def Group.imageBytes (g : Group) (tiles : Bool) : List Byte :=
  bytesOf 4 g.name ++ bytesOf 1 g.vregs ++ bytesOf 1 g.saved.length
  ++ bytesOf 1 (g.openTiles.map fun e => 2 ^ e.1).sum ++ zeros 1 ++ bytesOf 8 (serialOf g.launch)
  ++ bytesOf 8 g.mfmt.toNat ++ bytesOf 8 g.ascl.toNat ++ bytesOf 8 g.bscl.toNat ++ bytesOf 8 g.vflags.toNat ++ zeros 16
  ++ (List.range 64).flatMap (fun i => bytesOf 1 (g.armOf i)) ++ zeros 128
  ++ (List.range g.vregs).flatMap (fun i => VReg.bytes (g.v.getD i 0))
  ++ g.saved.flatMap (fun e => e.1.recordBytes)
  ++ (if tiles then g.openTiles.flatMap (fun e => g.tileImage e.2) else [])

/-- One binding, or an unused slot, of the binding record (R398). -/
def bindBytes : Option Binding → List Byte
  | some b => bytesOf 8 b.base.toNat ++ bytesOf 8 b.len.toNat ++ bytesOf 8 b.bar.toNat ++ bytesOf 1 (scopeNum b.scp) ++ bytesOf 1 1 ++ zeros 6
  | none => zeros 32

/-- The binding record of 512 bytes (R398). -/
def Group.bindRecord (g : Group) : List Byte := (List.range 16).flatMap fun k => bindBytes (g.binds.get? k)

/-! ### Save areas -/

/-- The bytes that a key names, once they are complete: a loose thread's record, a group's image, or a binding record. -/
def State.savedBytes (s : State) (key : Nat) : Option (List Byte) :=
  match s.images.get? key with
  | some i => if i.complete then some i.th.recordBytes else none
  | none =>
    if key < 2 ^ 32 then (s.groups.get? key).bind fun g => if g.saving then none else some (g.imageBytes true)
    else (s.groups.get? (key % 2 ^ 32)).map (·.bindRecord)

/-- The 8-byte words of `d` that memory does not hold yet, written at `pa`. -/
def State.storeChanges (s : State) (pa : Nat) (d : List Byte) : State :=
  if s.bytes pa d.length = d then s
  else (List.range (d.length / 8)).foldl (fun s i =>
    let w := (d.drop (8 * i)).take 8
    if s.bytes (pa + 8 * i) 8 = w then s else s.store (pa + 8 * i) w) s

/-- What a save area holds stands in memory (R224, R258, R259, R398). -/
def State.writeSaves (s : State) (c : Nat) : State :=
  let k := s.ctx c
  k.saves.foldl (fun s e => match s.savedBytes e.2.2 with
    | some d => s.storeChanges (k.saveBase + e.1) d
    | none => s) s

/-- An image in the save area holds a marked word: an uncorrectable error with no one thread to trap (R145, R477). -/
def State.saveMarked (s : State) (c key : Nat) : Bool :=
  (s.ctx c).saves.any fun e => decide (e.2.2 = key) && s.eccHit ((s.ctx c).saveBase + e.1) e.2.1

end Sys2Proof.Machine
end

