-- ==== Sys2Proof/Machine/EvEvict.lean ====
section
/-! DEFINITION. Pending placement: PENDING_PLACEMENT (07_kernel R199). The events of eviction and restore: EVICTION_DECISION
(09_thread_life R256, R260; 08_group R223, R225), EVICTION_COMMIT, IMAGE_COMPLETE (R259; 08_group R209), SPILL_TO_SAVE_AREA (08_group R209), RESTORE (08_group R225;
09_thread_life R258), LOOSE_RESTORE_TIMEOUT (R259). An event that is not enabled leaves the state unchanged (log 2). -/

namespace Sys2Proof.Machine

/-- A group of the core that the Farrier has asked to move, when it may be evicted and its target can take it (R225). -/
def State.moveCand (s : State) (core : Nat) : Option Cand :=
  (s.groupCands core none).find? fun c =>
    match (s.group c.2.1).moveTo with
    | some dst => (s.core core).fwdFree.isSome
        && s.canTake { (s.group c.2.1).need with threads := (s.groupSlots c.2.1).length } dst
    | none => false

/-- EVICTION_DECISION. -/
def execEvictionDecision (core : Nat) (s : State) : Host.Outcome State Fault Refusal :=
  let k := s.core core
  let found := (s.moveCand core).or ((s.wants core).findSome? fun w => firstCand (s.cands core w.1 w.2))
  .next (if k.evict.isSome then s
    else match found with
      | some c => s.atRunning core fun s => s.decide_ core c
      | none => s)

/-- EVICTION_COMMIT. -/
def execEvictionCommit (core : Nat) (s : State) : Host.Outcome State Fault Refusal :=
  let k := s.core core
  .next (match k.evict with
    | none => s
    | some (isGroup, key, c) =>
      if k.cyc < c then s
      else s.atRunning core fun s => if isGroup then
        (if (s.group key).saving then s
         else if (s.group key).moveTo.isSome ∧ k.fwdFree.isNone then s
         else s.commitGroup core key)
      else if (s.images.get? (imageKey (s.handle (Tid.ofKey key)))).isSome then s
      else s.commitLoose core (Tid.ofKey key))

/-- IMAGE_COMPLETE. -/
def execImageComplete (core : Nat) (s : State) : Host.Outcome State Fault Refusal :=
  let k := s.core core
  .next (match k.evict with
    | none => s
    | some (isGroup, key, _) =>
      let done := fun (s : State) => s.modCore core fun k => { k with evict := none }
      if isGroup then (if (s.group key).saving then done (s.groupSaved core key) else s)
      else
        let t := Tid.ofKey key
        let ik := imageKey (s.handle t)
        match s.images.get? ik with
        | some i => done (({ s with images := s.images.set ik { i with complete := true } } : State).freeSaved t)
        | none => s)

/-- The image of a loose thread may go from the spill map to the save area: it is complete, finds room, and waits for no owed register
(R209, R259). -/
def State.looseMoves (s : State) (i : Image) : Bool :=
  i.spill && i.complete && s.saveRoom i.th.ctx 256 && match i.th.wait with | .block (.owed _) => false | _ => true

/-- The image of a loose thread in the save area instead of the spill map. -/
def State.unspillLoose (s : State) (key : Nat) (i : Image) : State :=
  let s := (s.freeSpill i.core key).useSave i.th.ctx 256 key
  { s with images := s.images.set key { i with spill := false } }

/-- The image of a SPILLED group may go to the save area (R209, R259). -/
def State.groupMoves (s : State) (name : Nat) (g : Group) : Bool :=
  realGroup name && decide (g.st = .spilled) && s.saveRoom g.ctx (g.saveLen g.saved.length)
    && g.saved.all fun e => match e.1.wait with | .block (.owed _) => false | _ => true

/-- The image of a SPILLED group in the save area instead, with the images of its open tiles (R209). -/
def State.unspillGroup (s : State) (name : Nat) (g : Group) : State :=
  let s := (s.freeSpill g.core name).useSave g.ctx (g.saveLen g.saved.length) name
  let at_ := s.saveAt g.ctx name
  let on := s.groupWakes g || g.moveTo.isSome
  (s.modGroup name fun g => { g with st := if on then .restoring else .evicted }).modDir name fun d =>
    { d with st := .evicted, at_ := at_, locked := on }

/-! ### Pending placement (R199) -/

/-- A candidate of a core evicted. -/
def State.evicted (s : State) (core : Nat) (c : Cand) : State :=
  let s := s.decide_ core c
  let s := if c.1 then (s.commitGroup core c.2.1).groupSaved core c.2.1
           else (s.commitLoose core (Tid.ofKey c.2.1)).freeSaved (Tid.ofKey c.2.1)
  s.modCore core fun k => { k with evict := none }

/-- The candidates of a core evicted one after another, as far as their images find room; `fuel` bounds them. -/
def State.evictAll (s : State) (core : Nat) (only : Option Nat) : Nat → State
  | 0 => s
  | fuel + 1 => match firstCand (s.cands core only .slot) with
    | some c => (s.evicted core c).evictAll core only fuel
    | none => s

/-- The state as it would be with the candidates of a core evicted, and with the images of its spill map that find room in a save
area moved there (R199, R209, R260). -/
def State.withoutCands (s : State) (core : Nat) (only : Option Nat) : State :=
  let s := s.evictAll core only 256
  let s := s.images.foldl (fun s e => if e.2.core = core ∧ s.looseMoves e.2 then s.unspillLoose e.1 e.2 else s) s
  s.groups.foldl (fun s e => if e.2.core = core ∧ s.groupMoves e.1 e.2 then s.unspillGroup e.1 e.2 else s) s

/-- Room could be made on the core by evictions, and the context's bank quota is not all that stands in the way. -/
def State.couldTake (s : State) (n : Need) (core : Nat) : Bool :=
  let lifted := s.modCtx n.ctx fun c => { c with quota := { c.quota with banks := 16 } }
  kindOk n.kind core && s.shapeRoom core n.launch && (s.freeIndex core).isSome && !lifted.roomFor n core
  && ((s.withoutCands core none).roomFor n core || (s.withoutCands core (some n.ctx)).roomFor n core)

/-- PENDING_PLACEMENT: the next group has found no core for 10 µs. -/
def execPendingPlacement (serial : Nat) (s : State) : Host.Outcome State Fault Refusal :=
  .next (match s.launches.get? serial with
    | some l => match l.noCore with
      | some t =>
        if l.placing && s.writesDone l && decide (t + 10000 ≤ s.now) && l.pendCore.isNone && (s.coresFor serial l).isEmpty then
          match s.chooseCore l.ctx ((List.range 256).filter fun c => s.couldTake (l.need serial) c) with
          | some c => s.modLaunch serial fun l => { l with pendCore := some c }
          | none => s
        else s
      | none => s
    | none => s)

/-! ### Images -/

/-- SPILL_TO_SAVE_AREA: an image leaves the spill map of a core that wants the space. A marked word of it kills the context (R145,
R477). -/
def execSpillToSaveArea (key : Nat) (s : State) : Host.Outcome State Fault Refusal :=
  .next (match s.images.get? key with
    | some i =>
      if s.spillWanted i.core && s.looseMoves i then
        (if s.spillMarked i.core key 256 then s.kill i.th.ctx 2 (causeCode .ecc) 0
         else match s.touchSpill i.core key with
          | (false, s) => s
          | (true, s) => s.unspillLoose key i)
      else s
    | none => match s.groups.get? key with
      | some g =>
        if s.spillWanted g.core && s.groupMoves key g then
          (if s.imageMarked g.core g || s.groupMarked key then s.kill g.ctx 2 (causeCode .ecc) 0
           else match s.touchSpill g.core key with
            | (false, s) => s
            | (true, s) => s.unspillGroup key g)
        else s
      | none => s)

/-- A group's image reloaded on a core whose clock runs, from banks that are ON (R213, R225, R448). A marked word of an image in the
spill map kills the context (R145, R477). -/
def State.reload (s : State) (name core : Nat) (fresh : Bool) : State :=
  let g := s.group name
  if s.inSpill g.core name && s.groupMarked name then s.kill g.ctx 2 (causeCode .ecc) 0
  else match s.touchSpill g.core name with
    | (false, s) => s
    | (true, s) => s.atRunning core fun s => s.restoreGroup name core fresh

/-- RESTORE: a SPILLED group whose wake condition is true is reloaded on its core; one that is EVICTED goes to RESTORING,
its directory entry locked, and is loaded where R225 finds room; a loose thread comes back to the core it left. -/
def execRestore (isGroup : Bool) (key : Nat) (s : State) : Host.Outcome State Fault Refusal :=
  .next (if isGroup then
    match s.groups.get? key with
    | none => s
    | some g =>
      if !realGroup key then s
      else if s.saveMarked g.ctx key then s.kill g.ctx 2 (causeCode .ecc) 0
      else if g.moving then
        match s.restoreCore g with
        | none => s
        | some c =>
          if g.moveTo.isSome ∧ c ≠ g.core ∧ (s.core g.core).fwdFree.isNone then s
          else s.reload key c true
      else match g.st with
        | .spilled =>
          if s.groupWakes g && (s.lacks g.need g.core 0).isNone then s.reload key g.core false else s
        | .evicted =>
          if s.groupWakes g then
            (s.modGroup key fun g => { g with st := .restoring }).modDir key fun d => { d with locked := true }
          else s
        | _ => s
  else match s.images.get? key with
    | some i =>
      if s.saveMarked i.th.ctx key then s.kill i.th.ctx 2 (causeCode .ecc) 0
      else if s.imageReady i then s.restoreLoose key i.core else s
    | none => s)

/-- LOOSE_RESTORE_TIMEOUT: after 1 µs without a FREE slot on the core it left, a loose thread with no engine command in
flight is restored where the search of R225 finds room. -/
def execLooseRestoreTimeout (key : Nat) (s : State) : Host.Outcome State Fault Refusal :=
  .next (match s.images.get? key with
    | none => s
    | some i =>
      let old := tidOf i.hnd
      let busy := s.cores.any fun k => k.2.cmds.any fun c => decide (c.tid = old) && decide (c.gen = fld i.hnd 0 8)
      match i.since with
      | none => s
      | some t =>
        if s.saveMarked i.th.ctx key then s.kill i.th.ctx 2 (causeCode .ecc) 0
        else if !s.imageReady i || busy || decide (s.now < t + 1000) then s
        else match (searchOrder i.core).find? fun c => isNarrowCore c == isNarrowCore i.core
            && !(s.freeSlots c).isEmpty && s.slotQuota i.th.ctx c 1 with
          | some c => s.restoreLoose key c
          | none => s)

end Sys2Proof.Machine
end

