-- ==== Sys2Proof/Machine/EvBarrier.lean ====
section
/-! DEFINITION. The events of barriers: BARRIER_OPERATION (16_barrier R387, R388), BARRIER_WAKE (R396, R397),
BWAIT_TABLE_RETRY (R396). An event that is not enabled leaves the state unchanged (log 2). -/

namespace Sys2Proof.Machine

/-- The granule lies in an open mailbox ring of another core: its home refuses the operation (R163, R273, R394). -/
def State.barShut (s : State) (t : Tid) (pa : Nat) : Bool :=
  match place pa with
  | .spad core off => decide (core ≠ t.core) && (s.ringHit core off 16).isSome
  | _ => false

/-- BARRIER_OPERATION: the operation for which the thread waits is applied at its home bank on this chip, and answered, once the clocks
of both cores run (R153, R438, R445). -/
def execBarrierOperation (core slot : Nat) (s : State) : Host.Outcome State Fault Refusal :=
  let t : Tid := { core := core, slot := slot }
  .next (match (s.slot t).st, (s.thread t).wait with
    | .stall, .op (.bar op tgt va xd pd pe rs) =>
      if tgt.chip ≠ s.chip then s
      else
        s.atRunning (homeCore tgt.pa) fun s => s.atRunning core fun s =>
          let u := s.at_ t
          if s.barShut t tgt.pa then (u.trap .remote va).at_ s.cur
          else (u.barDone op tgt va xd (pd.getD 0) (pe.getD 0) rs (u.barOp op tgt.pa u.myParty (u.handle t) none)).at_ s.cur
    | _, _ => s)

/-- BARRIER_WAKE: a wake that has reached its thread. A thread being saved, its commit cycle not passed, goes on too. -/
def execBarrierWake (core slot : Nat) (s : State) : Host.Outcome State Fault Refusal :=
  let t : Tid := { core := core, slot := slot }
  .next (match (s.thread t).wait, (s.thread t).bwaitDone with
    | .block (.bwait _ _ va rs), some e => s.atRunning core fun s =>
      let u := s.at_ t
      (match e with | some c => u.trap c va | none => (u.barAcquire rs).commit).at_ s.cur
    | _, _ => s)

/-- BWAIT_TABLE_RETRY: a waiter without an entry asks its home again, on this chip or another; there with the same packet (R425). -/
def execBwaitTableRetry (core slot : Nat) (s : State) : Host.Outcome State Fault Refusal :=
  let t : Tid := { core := core, slot := slot }
  .next (match (s.slot t).st, (s.thread t).wait with
    | .wait, .block (.bwait tgt ph va rs) =>
      let home := homeCore tgt.pa
      let h := s.handle t
      if (s.thread t).bwaitDone.isSome ∨ s.now < (s.thread t).askAt then s
      else if tgt.chip ≠ s.chip then
        match s.txs.find? fun x => x.what = .bar h with
        | some x => if (s.thread t).askAt = 0 then s else (s.modSlot t fun x => { x with th := { x.th with askAt := 0 } }).post x.pkt
        | none => s.sendTx (s.thread t).ctx (.bar h) (s.barPacket t (.wait ph) tgt)
      else if (s.core home).bwt.any fun w => w.far.isNone && decide (w.h = h) then s
      else s.atRunning home fun s => s.atRunning core fun s =>
        let u := s.at_ t
        if s.barShut t tgt.pa then (u.trap .remote va).at_ s.cur
        else match u.barOp (.wait ph) tgt.pa u.myParty h none with
        | .wait u => (u.modMe fun x => { x with askAt := u.now + mesh1024 }).at_ s.cur
        | r => (u.barDone (.wait ph) tgt va none 0 0 rs r).at_ s.cur
    | _, _ => s)

end Sys2Proof.Machine
end

