-- ==== Sys2Proof/Machine/Reply.lean ====
section
/-! DEFINITION. Replies of the Farrier (20_image R455, R456), and shootdowns with their acknowledgements (17_page R410,
R411, R414; 03_region R481). -/

namespace Sys2Proof.Machine

/-! ### Replies -/

/-- The replies at the front whose effect is in force, written (R456). -/
def ReqBox.flush (b : ReqBox) : List (Nat × Bool × Reply) → ReqBox
  | [] => { b with waiting := [] }
  | (k, ok, r) :: rest =>
    if ok then ReqBox.flush { b with replies := b.replies.set (k % 32) r, rptail := b.rptail + 1 } rest
    else { b with waiting := (k, ok, r) :: rest }

/-- The Farrier writes replies: request service has not stopped (R451, R456). -/
def Farrier.answers (f : Farrier) : Bool := match f.st with
  | .run | .unowned | .recovering => true
  | .boot | .failed | .bootfail => false

/-- MSI-X messages for `n` replies, by interface and vector, when IEN is 1 (R455). -/
def ReqBox.messages (b : ReqBox) (iface n : Nat) : List (Nat × Nat) :=
  if bitN b.cfg 16 then List.replicate n (iface, fld b.cfg 0 11) else []

/-- Written replies of an interface, with an MSI-X message for each when IEN is 1 (R455, R456). -/
def State.flushReplies (s : State) (iface : Nat) : State :=
  if s.far.answers then
    let b := s.reqBox iface
    let b' := ReqBox.flush b b.waiting
    let s := s.modReqBox iface fun _ => b'
    { s with far := { s.far with msix := s.far.msix ++ b.messages iface (b'.rptail - b.rptail) } }
  else s

/-- The reply to request `k` of an interface: written at once, or when its effect is in force. -/
def State.reply (s : State) (iface k : Nat) (ready : Bool) (r : Reply) : State :=
  (s.modReqBox iface fun b => { b with waiting := b.waiting ++ [(k, ready, r)] }).flushReplies iface

/-- The reply to request `k`, which waited, as `f` makes it. -/
def State.replyAs (s : State) (iface k : Nat) (f : Reply → Reply) : State :=
  (s.modReqBox iface fun b => { b with waiting := b.waiting.map fun e => if e.1 = k then (k, true, f e.2.2) else e }).flushReplies iface

/-- The effect that the reply of a request waits for is in force. -/
def State.replyReady (s : State) (who : Option (Nat × Nat)) : State :=
  match who with
  | none => s
  | some (iface, k) => s.replyAs iface k id

/-! ### Shootdowns -/

/-- A TLB entry of the context that covers a byte of [va, va + n). -/
def TlbE.meets (e : TlbE) (c va n : Nat) : Bool :=
  decide (e.ctx = c) && decide (e.va < va + n) && decide (va < e.va + e.size)

/-- A shootdown begins: every TLB loses the page, and every core has to acknowledge (R410). -/
def State.shootdown (s : State) (c va n chip frame : Nat) (why : ShootFor) (who : Option (Nat × Nat)) : State :=
  { s with
    slots := s.slots.mapVals fun _ x => { x with th := { x.th with pages := x.th.pages.filter fun e => !e.meets c va n } },
    cores := s.cores.mapVals fun _ k => { k with tlb := k.tlb.filter fun e => !e.meets c va n },
    clusters := s.clusters.mapVals fun _ k => { k with l2 := k.l2.filter fun e => !e.meets c va n },
    shoots := s.shoots ++ [{ ctx := c, va := va, size := n, chip := chip, frame := frame, cores := List.range 256,
                             why := why, reply := who }] }

/-- An access of `m` bytes at `va` went through the page that a shootdown removes. -/
def Shoot.hits (h : Shoot) (loc : Bool) (va m : Nat) : Bool := !loc && decide (va < h.va + h.size) && decide (h.va < va + m)

/-- The thread has an access through the page that is not performed at home. -/
def Shoot.holdsThread (h : Shoot) (th : Thread) : Bool :=
  decide (th.ctx = h.ctx)
  && ((match th.wait with
      | .op (.mem parts _) => parts.any fun p => p.got.isNone && h.hits p.tgt.loc p.va.toNat p.n
      | .op (.bar _ t va _ _ _ _) | .op (.arrive t va _ _) => h.hits t.loc va.toNat 16
      | .op (.put _ _ left) => left.any fun p => h.hits p.tgt.loc p.va.toNat p.data.length
      | .retry (.fetch _) => h.hits false (pcLine th.pc) 64
      | .block (.lde t _ _ va) => h.hits t.loc va.toNat 8
      | _ => false)
    || th.owed.any fun o => o.got.isNone && h.hits o.tgt.loc o.va.toNat 8)

/-- A core may acknowledge a shootdown: its accesses through the page are performed at home, and no Bridle entry of the
context overlaps the frame (R410, R411). -/
def State.mayAck (s : State) (core : Nat) (h : Shoot) : Bool :=
  let lines := fun (l : Lock) => decide (l.chip = h.chip) && decide (l.lo * 64 < h.frame + h.size) && decide (h.frame < l.hi * 64 + 64)
  !(s.stores.any fun x => decide (x.tid.core = core) && decide (x.ctx = h.ctx) && x.phase.pending && h.hits x.tgt.loc x.va.toNat x.n)
  && !(s.slots.any fun e => decide ((Tid.ofKey e.1).core = core) && e.2.st.live && h.holdsThread e.2.th)
  && !(s.images.any fun e => decide (e.2.core = core) && h.holdsThread e.2.th)
  && !(s.groups.any fun e => decide (e.2.core = core) && e.2.saved.any fun x => h.holdsThread x.1)
  && !((s.core core).cmds.any fun c => decide (c.ctx = h.ctx) && c.locks.any lines)

/-- A frame or region that leaves its owner is zeroed (R154). -/
def State.toZero (s : State) (c pa size frames : Nat) : State :=
  { s with zeroq := s.zeroq.set s.nextZero { ctx := c, pa := pa, size := size, frames := frames }, nextZero := s.nextZero + 1 }

/-- A frame of HBM4E goes back: it is zeroed, and counts against the quota until then (R154, R410). -/
def State.freeFrame (s : State) (c pa size : Nat) : State :=
  ({ s with frames := s.frames.filter fun f => f.pa ≠ pa } : State).toZero c pa size (size / 4096)

/-- Every acknowledgement of a shootdown has arrived (R106, R410, R411, R414). -/
def State.shootEnd (s : State) (h : Shoot) : State :=
  match h.why with
  | .protect => s.replyReady h.reply
  | .unmap =>
    let s := if h.chip = s.chip ∧ h.frame < hbmSize then s.freeFrame h.ctx h.frame h.size else s
    s.replyReady h.reply
  | .moveStart => { s with moving := s.moving.map fun m => if m.ctx = h.ctx ∧ m.va = h.va ∧ m.ended = false then { m with copying := true } else m }
  | .moveEnd =>
    { s with
      moving := s.moving.map fun m => if m.ctx = h.ctx ∧ m.va = h.va ∧ m.old = h.frame then { m with ended := true } else m,
      clusters := s.clusters.mapVals fun _ k =>
        { k with lines := k.lines.filter fun l => !(decide (l.1 = h.chip) && decide (h.frame ≤ l.2.1) && decide (l.2.1 < h.frame + h.size)) } }
  | .unseal base =>
    let s := match s.regions.get? base with
      | some r => { s with regions := s.regions.set base { r with serving := false } }
      | none => s
    s.replyReady h.reply

/-- The first shootdown that `p` accepts, with the others in order. -/
def takeShoot (p : Shoot → Bool) : List Shoot → Option (Shoot × List Shoot × List Shoot)
  | [] => none
  | h :: t => if p h then some (h, [], t) else (takeShoot p t).map fun r => (r.1, h :: r.2.1, r.2.2)

/-- A core acknowledges the oldest shootdown it can. -/
def State.ackShoot (s : State) (core : Nat) : State :=
  match takeShoot (fun h => h.cores.contains core && s.mayAck core h) s.shoots with
  | none => s
  | some (h, before, after) =>
    let left := h.cores.filter fun c => c ≠ core
    if left.isEmpty then ({ s with shoots := before ++ after } : State).shootEnd h
    else { s with shoots := before ++ { h with cores := left } :: after }

end Sys2Proof.Machine
end

