-- ==== Sys2Proof/Machine/EvPage.lean ====
section
/-! DEFINITION. The events of translation: PAGE_WALK (17_page R403, R406), MISS_QUEUE_RETRY (R406), SHOOTDOWN_ACK (R410),
HOLD_QUEUE_RETRY (R413), BWCFG_WRITE (07_kernel R207). An event that is not enabled leaves the state unchanged (log 2). -/

namespace Sys2Proof.Machine

/-- The thread at `t` enters the rotation again (R230, R237). -/
def State.readyAt_ (s : State) (t : Tid) : State := ((s.at_ t).ready).at_ s.cur

/-- A fetch that waits at its home is tried again: the line, once admitted, fills the cluster cache, and the thread is READY
(R29, R109, R208, R412). -/
def State.settleFetch (s : State) (t : Tid) (line : Target) : State :=
  match s.fetchGate t line with
  | .go home s =>
    (if decide (place line.pa = .hbm) && !s.eccHit home 64 then s.fillLine (clusterOf t.core) line.chip line.pa (s.bytes home 64)
     else s).readyAt_ t
  | .later _ | .full => s
  | .refused _ => s.readyAt_ t

/-- A walk's result reaches one waiting thread (R403, R406). -/
def State.walkTo (s : State) (w : Walk) (r : Walked) (t : Tid) : State :=
  if (s.slot t).st = .stall ∧ (s.thread t).wait = .retry .walk then
    let s := match r with
      | .leaf pte size =>
        let e := mkTlbE w.ctx w.va pte size
        (s.modCore t.core fun k => { k with tlb := tlbFill tlbSize k.tlb e }).modSlot t fun x =>
          { x with th := { x.th with pages := x.th.pages ++ [e] } }
      | .fail c l => s.modSlot t fun x => { x with th := { x.th with walkFault := some (w.va, causeCode c, l) } }
    s.readyAt_ t
  else s

/-- PAGE_WALK: walker `idx` of a cluster, 0 to 31 in the order in which the walks began. -/
def execPageWalk (cluster idx : Nat) (s : State) : Host.Outcome State Fault Refusal :=
  .next (match (s.cluster cluster).walks[idx]? with
    | none => s
    | some w =>
      if 32 ≤ idx then s
      else
        let r := s.walk w.ctx w.va
        let s := s.modCluster cluster fun k =>
          { k with walks := k.walks.eraseIdx idx,
                   l2 := match r with | .leaf pte size => tlbFill l2Size k.l2 (mkTlbE w.ctx w.va pte size) | .fail _ _ => k.l2 }
        w.who.foldl (fun s t => s.walkTo w r t) s)

/-- MISS_QUEUE_RETRY. -/
def execMissQueueRetry (core slot : Nat) (s : State) : Host.Outcome State Fault Refusal :=
  let t : Tid := { core := core, slot := slot }
  .next (match (s.slot t).st, (s.thread t).wait with
    | .stall, .retry (.missFull at_) => if at_ ≤ s.now then s.readyAt_ t else s
    | _, _ => s)

/-- SHOOTDOWN_ACK. -/
def execShootdownAck (core : Nat) (s : State) : Host.Outcome State Fault Refusal := .next (s.ackShoot core)

/-- HOLD_QUEUE_RETRY: the store goes to its home again. -/
def execHoldQueueRetry (id : Nat) (s : State) : Host.Outcome State Fault Refusal :=
  .next (match s.stores.find? fun x => x.id = id with
    | some x => match x.phase with
      | .retry at_ =>
        if s.now < at_ then s
        else match s.txs.find? fun t => t.what = TxFor.store id with
          | some t => (s.setPhase id .sent).post t.pkt
          | none => (s.setPhase id .sent).storeAtHome id
      | _ => s
    | none => s)

/-- BWCFG_WRITE: it takes effect at the next refill; the zero bits of the register stay zero (R20, R207). -/
def execBwcfgWrite (cls : Nat) (v : Word) (s : State) : Host.Outcome State Fault Refusal :=
  .next (if cls < 16 ∧ s.dark 0 = false then { s with bw := s.bw.set cls { s.bwClass cls with pendingCfg := some (v &&& 0x8000FFFF0000FFFF) } } else s)

end Sys2Proof.Machine
end

