-- ==== Sys2Proof/Machine/Link.lean ====
section
/-! DEFINITION. The Huivo links: routes (18_link R420), virtual channels and datelines (R421), credits (R422), packets and
their flits (R424), replay (R430), link states and what a port that goes DOWN settles (R431, R432, R434). -/

namespace Sys2Proof.Machine

/-! ### Routes -/

/-- Extents of the pod in X, Y, Z (R419). -/
def State.extents (s : State) : List Nat :=
  [fld s.hvpod.toNat 16 4 + 1, fld s.hvpod.toNat 20 3 + 1, fld s.hvpod.toNat 24 3 + 1]

/-- Coordinates of a chip in X, Y, Z (R10). -/
def coords (c : Nat) : List Nat := [fld c 6 4, fld c 3 3, fld c 0 3]

/-- The port of the first dimension in which two chips differ, `d` the number of the first one in the lists (R420). -/
def routeFrom : Nat → List (Nat × Nat × Nat) → Option Nat
  | _, [] => none
  | d, (n, c, t) :: rest =>
    if t ≠ c then
      let f := (t + n - c) % n
      some (if f ≤ n - f then 2 * d else 2 * d + 1)
    else routeFrom (d + 1) rest

/-- The port a packet for `dst` leaves this chip by; none delivers it here (R420). -/
def State.route (s : State) (dst : Nat) : Option Nat :=
  routeFrom 0 (s.extents.zip ((coords s.chip).zip (coords dst)))

/-- The class of a packet, which is also its VC outside the escape VC (R421). -/
def PKind.cls : PKind → Nat
  | .rsp | .rty => 1
  | .spn | .kill | .kack => 2
  | _ => 0

/-- The packet expects an answer (R425). -/
def PKind.asks : PKind → Bool
  | .rsp | .rty | .kack | .other _ => false
  | _ => true

/-- The hop that leaves this chip by a port crosses the dateline of its dimension (R421). -/
def State.crosses (s : State) (port : Nat) : Bool :=
  let c := (coords s.chip).getD (port / 2) 0
  if port % 2 = 0 then decide (c = s.extents.getD (port / 2) 1 - 1) else decide (c = 0)

/-- The VC of the hop by which a packet leaves this chip: the escape VC on the hop that crosses the dateline, and on every later hop in
the same dimension, which the packet came by on that VC (R421; log 106). -/
def State.vcOf (s : State) (e : Transit) (port : Nat) : Nat :=
  if s.crosses port || (e.pkt.esc && decide (e.port.map (· / 2) = some (port / 2))) then 3 else PKind.cls e.pkt.kind

/-- Place of the credit of a VC and class (R422). -/
def creditIdx (vc cls : Nat) : Nat := if vc < 3 then vc else 3 + cls

/-- The place of the receive buffer in which a packet is held: that of the VC it came on (R421, R422). -/
def Packet.buf (p : Packet) : Nat := creditIdx (if p.esc then 3 else PKind.cls p.kind) (PKind.cls p.kind)

/-- Payload flits of a packet (R424, R425). -/
def Packet.payload (p : Packet) : Nat :=
  match p.kind with
  | .at_ | .bar | .spn => 1
  | .put => 4
  | _ => ceilDiv p.data.length 32

/-- Flits of a packet. -/
def Packet.flits (p : Packet) : Nat := 1 + Packet.payload p

/-! ### Sending -/

/-- Flits of a packet in order, the last with the packet. -/
def Packet.asFlits (p : Packet) : List (Flit × Option Packet) :=
  match Packet.payload p with
  | 0 => [(.header p, some p)]
  | n + 1 => (.header p, none) :: List.replicate n (.payload, none) ++ [(.payload, some p)]

/-- The port carries flits. -/
def Link.up (l : Link) : Bool := decide (l.st = .active) || decide (l.st = .narrow)

/-- The queued packet at a place can be sent behind `used` flits: it is the first of its VC and class, and there is credit and,
in whole blocks, replay room for all of it (R422, R429, R430). -/
def Link.canSend (l : Link) (used i : Nat) : Bool :=
  match l.queue[i]? with
  | none => false
  | some (p, vc, cls) =>
    let n := Packet.flits p
    ((l.queue.take i).all fun e => decide (creditIdx e.2.1 e.2.2 ≠ creditIdx vc cls))
    && decide (n ≤ l.credit.getD (creditIdx vc cls) 0) && decide (l.replay.length + 8 * ceilDiv (used + n) 8 ≤ 512)

/-- The VC of a queued packet. -/
def Link.vcAt (l : Link) (i : Nat) : Nat := match l.queue[i]? with | some e => e.2.1 | none => 0

/-- The queued packet sent next: VC 2 first, the others in round-robin (R422). -/
def Link.pick (l : Link) (used : Nat) : Option Nat :=
  let ok := (List.range l.queue.length).filter (l.canSend used)
  match ok.find? fun i => l.vcAt i = 2 with
  | some i => some i
  | none => ([0, 1, 2, 3].map fun k => (l.rr + 1 + k) % 4).findSome? fun vc => ok.find? fun i => l.vcAt i = vc

/-- The packet at a place of the queue leaves it, and its credit is used (R422). -/
def Link.sendAt (l : Link) (i : Nat) : Link × List (Flit × Option Packet) :=
  match l.queue[i]? with
  | none => (l, [])
  | some (p, vc, cls) =>
    let k := creditIdx vc cls
    ({ l with queue := l.queue.eraseIdx i, credit := l.credit.set k (l.credit.getD k 0 - Packet.flits p), rr := if vc = 2 then l.rr else vc },
      Packet.asFlits p)

/-- Flits of the packets that can be sent, after `acc`; `fuel` bounds them. -/
def Link.takeN (l : Link) (acc : List (Flit × Option Packet)) : Nat → Link × List (Flit × Option Packet)
  | 0 => (l, acc)
  | fuel + 1 => match l.pick acc.length with
    | some i => let (l', fl) := l.sendAt i; l'.takeN (acc ++ fl) fuel
    | none => (l, acc)

/-- The VC whose credits the next trailer returns, and how many: the lowest VC to which some are owed (R429; log 26). -/
def Link.returns (l : Link) : Nat × Nat :=
  match (List.range 4).find? fun v => 0 < l.owed.getD v 0 with
  | some v => (v, Nat.min 31 (l.owed.getD v 0))
  | none => (0, 0)

/-- A link block of 8 flits is sent: its flits take sequence numbers and stay in the replay buffer, and its trailer carries the
acknowledgement, the NAK that is due and credits (R429, R430). -/
def Link.sendBlock (l : Link) (fl : List (Flit × Option Packet)) : Link :=
  let (cv, cr) := l.returns
  { l with
    sent := l.sent ++ [.block { good := true, lost := 0, fixed := [], seq := l.txSeq, flits := fl.map (·.1), nak := l.nakDue,
                                ack := (l.rxNext + 4095) % 4096, cv := cv, cr := cr }],
    txSeq := (l.txSeq + 8) % 4096, replay := l.replay ++ fl, nakDue := false, told := l.rxNext,
    owed := l.owed.set cv (l.owed.getD cv 0 - cr) }

/-- Flits sent as blocks, the last filled with null flits; `fuel` bounds the blocks. -/
def Link.sendFlits (l : Link) (fl : List (Flit × Option Packet)) : Nat → Link
  | 0 => l
  | fuel + 1 =>
    let b := fl.take 8
    let l := l.sendBlock (b ++ List.replicate (8 - b.length) (.null, none))
    if fl.length ≤ 8 then l else l.sendFlits (fl.drop 8) fuel

/-- The next trailer has something to tell: a NAK, an acknowledgement or credits. -/
def Link.tells (l : Link) : Bool := l.nakDue || decide (l.told ≠ l.rxNext) || decide (0 < l.returns.2)

/-- The port sends what it can: with `again` every flit not acknowledged once more, from ACK + 1, and then the packets that have
credit; a block of null flits where only the trailer has something to tell (R422, R429, R430; log 26). -/
def Link.pump (l : Link) (again : Bool) : Link :=
  if !l.up || l.txHeld then l
  else
    let old := if again then l.replay else []
    let l : Link := if again then { l with replay := [], txSeq := l.acked } else l
    let (l, fl) := l.takeN old l.queue.length
    if fl.isEmpty && !(l.tells && decide (l.replay.length + 8 ≤ 512)) then l
    else l.sendFlits fl (fl.length / 8 + 1)

/-- An event begins at the port: what was sent before has left. -/
def Link.begin_ (l : Link) : Link := { l with sent := [] }

/-- The other end has accepted every flit before `upTo` (R429, R430). -/
def Link.ack (l : Link) (upTo : Nat) : Link :=
  let n := (upTo + 4096 - l.acked) % 4096
  if n ≤ l.replay.length then { l with acked := upTo % 4096, replay := l.replay.drop n } else l

/-! ### Receive buffers (R422, R430) -/

/-- Flits enter the receive buffer of a place. -/
def Link.hold (l : Link) (k n : Nat) : Link := { l with held := l.held.set k (l.held.getD k 0 + n) }

/-- Flits leave it, and their credit is owed to the other end. -/
def Link.free (l : Link) (k n : Nat) : Link :=
  let v := Nat.min k 3
  { l with held := l.held.set k (l.held.getD k 0 - n), owed := l.owed.set v (l.owed.getD v 0 + n) }

/-- Sizes of the receive buffers, by place. -/
def bufSizes : List Nat := [128, 128, 32, 32, 32, 32]

/-- Every receive buffer holds at most its size. -/
def Link.fits (l : Link) : Bool := (List.range 6).all fun k => decide (l.held.getD k 0 ≤ bufSizes.getD k 0)

/-- The packet at a place of the list leaves this chip or is delivered: its receive buffer is freed (R423, R430). -/
def State.takePacket (s : State) (i : Nat) : State :=
  let s' : State := { s with transit := s.transit.eraseIdx i }
  match s.transit[i]? with
  | some { pkt := p, port := some q, buf := some k, .. } => s'.modLink q fun l => (l.begin_.free k (Packet.flits p)).pump false
  | _ => s'

/-! ### States -/

/-- A 1 s spell of ACTIVE or NARROW ends the count of failures (R431). -/
def Link.spell (l : Link) (now : Nat) : Link :=
  if l.up && decide (l.upSince + 1000000000 ≤ now) then { l with fails := 0 } else l

/-- A packet that this chip cannot send on: its source is answered by this chip (R420, R434). -/
def State.dropPacket (s : State) (st : Status) (p : Packet) : State :=
  if PKind.asks p.kind then s.post { Packet.answer p .rsp st 0 [] with src := s.chip } else s

/-- What the answer to a packet dropped at a port that enters DOWN says (R434). -/
def State.dropStatus (s : State) (p : Packet) : Status := if s.tagKilling p.tag then .killed else .linkdown

/-- A port goes DOWN: what it cannot deliver any more is settled (R431, R434). -/
def State.portDown (s : State) (port : Nat) : State :=
  let l := (s.link port).spell s.now
  let gone := l.replay.filterMap (·.2) ++ l.queue.map (·.1)
  let s := s.modLink port fun _ =>
    { l with st := .down, stateAt := s.now, queue := [], replay := [], partial_ := none, lmap := none, txHeld := false, txw := 0, rxw := 0,
             held := Link.reset.held, owed := Link.reset.owed, sent := [] }
  let s : State := { s with transit := s.transit.map fun e => if e.port = some port then { e with buf := none } else e }
  gone.foldl (fun s p => s.dropPacket (s.dropStatus p) p) s

/-- A failure of a port is counted; the 8th takes it to FAILED, which interrupts the host driver and the Farrier (R431). -/
def State.countFailure (s : State) (port : Nat) : State :=
  let l := s.link port
  let s := s.modLink port fun l =>
    { l with fails := l.fails + 1, firstFail := if l.fails = 0 then s.now else l.firstFail,
             st := if 8 ≤ l.fails + 1 ∧ l.st = .down then .failed else l.st }
  if 8 ≤ l.fails + 1 then s.irq else s

/-- The port goes to RETRAIN: flits stop, sequence numbers and replay stay (R430, R431). -/
def State.retrain (s : State) (port : Nat) : State :=
  s.modLink port fun l => { l.spell s.now with st := .retrain, stateAt := s.now, lmap := none, txHeld := false, nakCount := 0 }

/-- Set bits of a lane mask. -/
def lanesIn (m : BitVec 8) : Nat := ((List.range 8).filter fun i => m.getLsbD i).length

/-- The width a direction runs at: the largest of 8, 4, 2 and 1 that its lanes allow (R432). -/
def widthOf (m : BitVec 8) : Nat :=
  let n := lanesIn m
  if 8 ≤ n then 8 else if 4 ≤ n then 4 else if 2 ≤ n then 2 else n

/-- The lowest-numbered working lanes that make up the width (R432). -/
def laneMap (m : BitVec 8) : BitVec 8 :=
  BitVec.ofNat 8 ((((List.range 8).filter fun i => m.getLsbD i).take (widthOf m)).map (2 ^ ·)).sum

/-- NARROW: at least one direction runs on fewer than 8 lanes (R431). -/
def widthState (tx rx : Nat) : LinkSt := if tx = 8 ∧ rx = 8 then .active else .narrow

/-- A port with an enabled peer begins to train (R431). -/
def State.startTraining (s : State) (port : Nat) : State :=
  s.modLink port fun l => if l.st = .down ∧ l.en ∧ l.peer then { l with st := .train, stateAt := s.now } else l

end Sys2Proof.Machine
end

