-- ==== Sys2Proof/Machine/EvLink.lean ====
section
/-! DEFINITION. The events of link control: HVPOD_WRITE (18_link R419), HVCTL_EN, HVCTL_RST, HVCTL_WIDEN (R431, R435),
TRAINING_END, TRAINING_TIMEOUT, PEER_SIGNAL_LOST, PEER_SIGNAL_DETECTED (R431), LANE_LOST (R432), LMAP, LACK (R433),
LINK_BLOCK, TRAILER_TIMEOUT (R429, R430). An event that is not enabled leaves the state unchanged (log 2). -/

namespace Sys2Proof.Machine

/-- HVPOD_WRITE. -/
def execHvpodWrite (v : Word) (s : State) : Host.Outcome State Fault Refusal :=
  let quiet := ((List.range 6).all fun p => (s.link p).st = .down) && s.ctxs.all fun e => e.2.st = .free
  .next (if quiet && !s.dark 0 then { s with hvpod := v &&& 0x77F03FF } else s)

/-- HVCTL_EN. -/
def execHvctlEn (port : Nat) (en : Bool) (s : State) : Host.Outcome State Fault Refusal :=
  .next (if 6 ≤ port ∨ s.dark 0 = true then s
    else
      let s := s.modLink port fun l => { l with en := en }
      if en then s.startTraining port
      else if (s.link port).up then s.portDown port else s)

/-- HVCTL_RST. -/
def execHvctlRst (port : Nat) (s : State) : Host.Outcome State Fault Refusal :=
  .next (if port < 6 ∧ (s.link port).st = .failed ∧ s.dark 0 = false then s.modLink port fun l => { l with st := .down, fails := 0, stateAt := s.now } else s)

/-- HVCTL_WIDEN. -/
def execHvctlWiden (port : Nat) (s : State) : Host.Outcome State Fault Refusal :=
  .next (if port < 6 ∧ (s.link port).st = .narrow ∧ s.dark 0 = false then s.retrain port else s)

/-- A trained port: its lanes and widths (R431, R432). -/
def Link.trained (l : Link) (m : Lanes) (now : Nat) : Link :=
  { l with st := widthState (widthOf m.tx) (widthOf m.rx), txMask := m.tx, rxMask := m.rx,
           txw := widthOf m.tx, rxw := widthOf m.rx, upSince := now, lastTrailer := now, stateAt := now,
           badRun := Link.reset.badRun, fixed := [] }

/-- A port whose sequences and replay buffer begin at 0 (R431). -/
def Link.fresh (l : Link) : Link :=
  { l with rpl := 0, txSeq := 0, rxNext := 0, acked := 0, nakSent := false, nakDue := false, told := 0, nakCount := 0, replay := [],
           partial_ := none, credit := Link.reset.credit, held := Link.reset.held, owed := Link.reset.owed, rr := 0, txHeld := false, lmap := none,
           sent := [] }

/-- An exchange begins for the direction this end receives: LMAP names its lanes and the next expected number (R433). -/
def Link.mapRx (l : Link) : Link :=
  { l with sent := [.lmap (laneMap l.rxMask) l.rxMask (some l.rxNext)], lmap := some (false, laneMap l.rxMask) }

/-- TRAINING_END. A retraining in which some direction has no lane goes on to its timeout; after another the ends exchange their
lane maps, and this one sends again from the number that the other's LMAP names (R431, R433). -/
def execTrainingEnd (port : Nat) (m : Lanes) (s : State) : Host.Outcome State Fault Refusal :=
  let ok := decide (m.tx ≠ 0) && decide (m.rx ≠ 0)
  .next (if 6 ≤ port then s
    else match (s.link port).st with
      | .train =>
        if ok then s.modLink port fun l => (l.fresh.trained m s.now).pump false
        else (s.portDown port).countFailure port
      | .retrain =>
        if ok && decide (s.now ≤ (s.link port).stateAt + 500000) then
          s.modLink port fun l => { (l.trained m s.now).mapRx with txHeld := true }
        else s
      | _ => s)

/-- TRAINING_TIMEOUT. -/
def execTrainingTimeout (port : Nat) (s : State) : Host.Outcome State Fault Refusal :=
  let l := s.link port
  let late := match l.st with
    | .train => decide (l.stateAt + 100000000 ≤ s.now)
    | .retrain => decide (l.stateAt + 500000 ≤ s.now)
    | _ => false
  .next (if late && decide (port < 6) then (s.portDown port).countFailure port else s)

/-- PEER_SIGNAL_LOST, on every lane. -/
def execPeerSignalLost (port : Nat) (s : State) : Host.Outcome State Fault Refusal :=
  .next (if 6 ≤ port then s
    else
      let s := s.modLink port fun l => { l with peer := false }
      if (s.link port).up then s.portDown port else s)

/-- PEER_SIGNAL_DETECTED. -/
def execPeerSignalDetected (port : Nat) (s : State) : Host.Outcome State Fault Refusal :=
  .next (if 6 ≤ port then s else (s.modLink port fun l => { l with peer := true }).startTraining port)

/-- Symbols that the FEC of a receive lane corrected within the last 1 ms (R432). -/
def Link.corrected (l : Link) (lane now : Nat) : Nat :=
  (l.fixed.map fun e => if e.2.1 = lane ∧ now < e.1 + 1000000 then e.2.2 else 0).sum

/-- The lane is lost for this reason (R432). The counts are those of the lanes this end receives. -/
def Link.losesLane (l : Link) (tx : Bool) (lane now : Nat) : LaneLoss → Bool
  | .signal => true
  | .corrected => !tx && decide (65536 < l.corrected lane now)
  | .uncorrectable => !tx && decide (4 ≤ l.badRun.getD lane 0)

/-- LANE_LOST: the direction runs on its lowest working lanes and a lane-map exchange begins, in which this end stops sending
when the direction is its own; with no lane left the port retrains (R431 to R433). -/
def execLaneLost (port : Nat) (tx : Bool) (what : LostLane) (s : State) : Host.Outcome State Fault Refusal :=
  let l := s.link port
  let lane := what.lane
  let clear := fun (m : BitVec 8) => m &&& ~~~(BitVec.ofNat 8 (2 ^ lane))
  let old := if tx then l.txMask else l.rxMask
  let m := clear old
  .next (if 6 ≤ port ∨ 8 ≤ lane ∨ l.up = false ∨ m = old ∨ l.losesLane tx lane s.now what.why = false then s
    else if m = 0 then s.retrain port
    else s.modLink port fun l =>
      if tx then { l with st := .narrow, txMask := m, txw := widthOf m, lmap := some (true, laneMap m), txHeld := true,
                          sent := [.lmap (laneMap m) m none] }
      else { l with st := .narrow, rxMask := m, rxw := widthOf m : Link }.mapRx)

/-- LMAP from the other end, answered LACK: with a next expected number it is for the direction this end sends, which resumes
from there with a new block; without one it is for the direction this end receives. -/
def execLmap (port : Nat) (mask working : BitVec 8) (next : Option Nat) (s : State) : Host.Outcome State Fault Refusal :=
  .next (if 6 ≤ port ∨ (s.link port).up = false then s
    else s.modLink port fun l =>
      match next with
      | some n => (({ l with st := widthState (lanesIn mask) l.rxw, txMask := working, txw := lanesIn mask, txHeld := false,
                             sent := [.lack mask] } : Link).ack n).pump true
      | none => { l with st := widthState l.txw (lanesIn mask), rxMask := working, rxw := lanesIn mask, sent := [.lack mask] })

/-- LACK: the exchange is over; a direction of this end resumes with the flits that are not acknowledged (R433). -/
def execLack (port : Nat) (mask : BitVec 8) (s : State) : Host.Outcome State Fault Refusal :=
  .next (if 6 ≤ port then s
    else match (s.link port).lmap with
      | some (tx, m) =>
        if m ≠ mask then s
        else if tx then s.modLink port fun l => ({ l.begin_ with lmap := none, txHeld := false } : Link).pump true
        else s.modLink port fun l => { l.begin_ with lmap := none }
      | none => s)

/-! ### Blocks -/

/-- A header that its destination applies: its KIND is listed and its zero bits are zero (R424). -/
def Packet.known (p : Packet) : Bool := p.clean && (match p.kind with | .other _ => false | _ => true)

/-- A whole packet received by a port: held here, or discarded at its destination and counted (R423, R424). -/
def State.receive (s : State) (port : Nat) (p : Packet) : State :=
  let k := Packet.buf p
  if !Packet.known p && decide (p.dst = s.chip) then
    s.modLink port fun l => { l.free k (Packet.flits p) with bad := Nat.min 65535 (l.bad + 1) }
  else { s with transit := s.transit ++ [{ pkt := p, port := some port, buf := some k, got := [] }] }

/-- One accepted flit, which takes its place in the receive buffer of its packet (R422, R424). -/
def State.acceptFlit (s : State) (port : Nat) (f : Flit) : State :=
  match f with
  | .null => s
  | .header p =>
    let s := s.modLink port fun l => l.hold (Packet.buf p) 1
    if Packet.payload p = 0 then s.receive port p
    else s.modLink port fun l => { l with partial_ := some (p, Packet.payload p) }
  | .payload =>
    match (s.link port).partial_ with
    | none => s
    | some (p, n) =>
      let s := s.modLink port fun l => l.hold (Packet.buf p) 1
      if n ≤ 1 then (s.modLink port fun l => { l with partial_ := none }).receive port p
      else s.modLink port fun l => { l with partial_ := some (p, n - 1) }

/-- Credits that a trailer returns: those of VC 3 go to the class of the first packet waiting on it (R429). With none
waiting the manual names no class (log 26). -/
def State.addCredit (s : State) (port cv cr : Nat) : State :=
  let l := s.link port
  let give := fun (s : State) (k : Nat) => s.modLink port fun l => { l with credit := l.credit.set k (l.credit.getD k 0 + cr) }
  if cr = 0 then s
  else if cv < 3 then give s cv
  else match l.queue.find? fun e => e.2.1 = 3 with
    | some e => give s (3 + e.2.2)
    | none => match s.choose [3, 4, 5] with
      | (some k, s) => give s k
      | (none, s) => s

/-- The trailer of a block whose CRC is correct (R429, R430). -/
def State.trailer (s : State) (port : Nat) (b : LinkBlock) : State :=
  let l := s.link port
  let upTo := (b.ack + 1) % 4096
  let same := decide (upTo = l.acked)
  let s := s.modLink port fun l => { l.ack upTo with lastTrailer := s.now }
  let s := s.addCredit port b.cv b.cr
  if b.nak then
    let n := if same then l.nakCount + 1 else 1
    let s := s.modLink port fun l => { l with nakCount := n, nakAck := b.ack, rpl := Nat.min 65535 (l.rpl + 1) }
    if 8 ≤ n then s.retrain port else s
  else if same then s
  else s.modLink port fun l => { l with nakCount := 0 }

/-- The codewords of a block: lanes that gave an uncorrectable one, and the symbols corrected (R432). -/
def Link.codewords (l : Link) (b : LinkBlock) (now : Nat) : Link :=
  { l with badRun := l.badRun.zipIdx.map fun e => if b.lost.getLsbD e.2 then e.1 + 1 else 0,
           fixed := (l.fixed.filter fun e => decide (now < e.1 + 1000000)) ++ (b.fixed.zipIdx.map fun e => (now, e.2, e.1)) }

/-- A block that is not accepted: a NAK is due unless one has been sent (R430). -/
def Link.discard (l : Link) : Link := { l with nakDue := l.nakDue || !l.nakSent, nakSent := true }

/-- The flits of a block in sequence are accepted (R430). -/
def State.acceptBlock (s : State) (port : Nat) (b : LinkBlock) : State :=
  (b.flits.foldl (fun s f => s.acceptFlit port f) s).modLink port fun l =>
    { l with rxNext := (l.rxNext + 8) % 4096, nakSent := false, nakDue := false }

/-- LINK_BLOCK. The other end sends no flit without credit (R422). -/
def execLinkBlock (port : Nat) (b : LinkBlock) (s : State) : Host.Outcome State Fault Refusal :=
  let l := s.link port
  .next (if 6 ≤ port ∨ l.up = false then s
    else
      let s' := s.modLink port fun l => l.begin_.codewords b s.now
      if b.good && decide (b.lost = 0) && decide (b.flits.length = 8) then
        if b.seq % 4096 = l.rxNext then
          let u := s'.acceptBlock port b
          if (u.link port).fits then (u.trailer port b).modLink port fun l => l.pump b.nak else s
        else ((s'.modLink port Link.discard).trailer port b).modLink port fun l => l.pump b.nak
      else s'.modLink port fun l => l.discard.pump false)

/-- TRAILER_TIMEOUT. -/
def execTrailerTimeout (port : Nat) (s : State) : Host.Outcome State Fault Refusal :=
  .next (if port < 6 ∧ (s.link port).up ∧ (s.link port).lastTrailer + 10000 ≤ s.now then s.retrain port else s)

end Sys2Proof.Machine
end

