-- ==== Sys2Proof/Machine/Rdma.lean ====
section
/-! DEFINITION. The RDMA adapter (06_queue R175 to R178): the states of a queue pair, accesses through keys, and what a request is
answered with. -/

namespace Sys2Proof.Machine

/-! ### Queue pairs -/

/-- `s` with queue pair `q` replaced. -/
def State.setQp (s : State) (q : Nat) (x : Qp) : State := { s with qps := s.qps.set q x }

/-- A queue pair goes to ERROR: its outstanding work requests, sends and receives, complete with status FAULT (R177). -/
def State.qpError (s : State) (q : Nat) : State :=
  match s.qps.get? q with
  | none => s
  | some x =>
    let s := (List.range (x.work.length + x.recvs.length)).foldl (fun s i => s.record x.ctx 4 (queueItem (queueId 4 q) i) .fault 0 0 0) s
    s.setQp q { x with st := .error, work := [], recvs := [], rsp := [] }

/-- The queue pair answers with a NAK and goes to ERROR (R176 to R178): 3 invalid request, 4 remote access error. -/
def State.qpNak (s : State) (q code : Nat) : State :=
  let s := s.qpError q
  match s.qps.get? q with
  | some x => s.setQp q { x with answer := code }
  | none => s

/-- The queue pair acknowledges. -/
def State.qpAck (s : State) (q : Nat) : State :=
  match s.qps.get? q with
  | some x => s.setQp q { x with answer := 1, out := [] }
  | none => s

/-- The queue pair's Ethernet port carries traffic (18_link R437). -/
def State.ethUp (s : State) (q : Nat) : Bool := decide ((s.eths.getD q Eth.reset).st = .up)

/-! ### Incoming packets -/

/-- Region permissions: local write, remote read, remote write, remote atomic (R458). -/
def permLocalWrite : Nat := 0
def permRemoteRead : Nat := 1
def permRemoteWrite : Nat := 2
def permRemoteAtomic : Nat := 3

/-- An access through a key is allowed (R176): the region is of the queue pair's domain, the tag matches, the
permission is granted, and the range lies in the region. -/
def State.keyOk (s : State) (x : Qp) (key va n perm : Nat) : Bool :=
  match s.regionsMr.get? (fld key 8 24) with
  | some r => decide (r.ctx = x.ctx) && decide (r.pd = x.pd) && decide (r.keyTag = fld key 0 8) && bitN r.perm perm
      && decide (r.va ≤ va) && decide (va + n ≤ r.va + r.len)
  | none => false

/-- Pieces of [va, va + n) that lie in one 4 KiB page each; `fuel` bounds them. -/
def pagePieces : Nat → Nat → Nat → List (Nat × Nat)
  | 0, _, _ => []
  | fuel + 1, va, n =>
    if n = 0 then []
    else
      let m := Nat.min n (4096 - va % 4096)
      (va, m) :: pagePieces fuel (va + m) (n - m)

/-- Every piece of a range translates with a permission, and lies where the adapter may reach it: its writes not in the weight store, and
nothing in an open ring, the control space or where nothing is (R95, R96, R107, R163, R176, R404). -/
def State.rdmaRange (s : State) (c va n : Nat) (p : Perm) : Option (List (Nat × Nat × Target)) :=
  (pagePieces (n / 4096 + 2) va n).mapM fun (e : Nat × Nat) =>
    match s.xlateFor c e.1 p with
    | .ok t => match place t.pa with
      | .wstore _ => if p = .read ∧ s.wsReadable c t.pa then some (e.1, e.2, t) else none
      | .spad core off => if (s.ringHit core off e.2).isSome then none else some (e.1, e.2, t)
      | .hbm => some (e.1, e.2, t)
      | .ctl | .none => none
    | .error _ => none

/-- Pieces of such a range for packets: each within one aligned block of 256 bytes (R425). -/
def linkPieces (l : List (Nat × Nat × Target)) : List (Nat × Nat × Target) :=
  l.flatMap fun e => (cutBy 256 e.2.2.pa e.2.1).map fun b =>
    (e.1 + (b.1 - e.2.2.pa), b.2, { e.2.2 with pa := b.1 })

/-- What an access of the adapter through a key gives. -/
inductive Rdma where
  | ok (s : State)
  /-- the key, the range or the word does not allow it -/
  | denied
  /-- a piece waits at its home: nothing is done yet -/
  | wait (s : State)
deriving DecidableEq, Repr

/-- The pieces of an access that lie on this chip have reached their homes, all of them, with the addresses at which they are performed;
false: one waits there (R206, R208, R412, R438; log 24). -/
def State.rdmaAdmit (s : State) (write : Bool) (l : List (Nat × Nat × Target)) : Bool × List (Nat × Nat × Target) × State :=
  l.foldl (fun r e =>
    if e.2.2.chip ≠ s.chip then (r.1, r.2.1 ++ [e], r.2.2)
    else match r.2.2.agentGate e.2.2 e.2.1 write with
      | .go pa s => (r.1, r.2.1 ++ [(e.1, e.2.1, { e.2.2 with pa := pa })], s)
      | .later s => (false, r.2.1, s)
      | .full | .refused _ => (false, r.2.1, r.2.2)) (true, [], s)

/-- A piece of a queue pair's access that this chip performs at once. -/
def State.rdmaPiece (s : State) (q : Nat) (d : List Byte) : State :=
  match s.qps.get? q with
  | some x => s.setQp q { x with rsp := x.rsp ++ [(2 ^ 32, some d)] }
  | none => s

/-- A packet of the adapter for another chip, whose answer completes its piece (R176, R425, R434). -/
def State.rdmaSend (s : State) (q : Nat) (p : Packet) : State :=
  match s.qps.get? q with
  | some x => (s.setQp q { x with rsp := x.rsp ++ [(p.seq, none)] }).sendTx x.ctx (.rdma q) p
  | none => s

/-- The pieces of a queue pair's access are all there: a request is answered, and an own one is retired (R175, R176). -/
def State.rdmaAnswer (s : State) (q : Nat) : State :=
  match s.qps.get? q with
  | some x =>
    if x.rsp.all fun e => e.2.isSome then
      (if x.own then s.setQp q { x with work := x.work.drop 1, tries := 0, rsp := [], own := false }
       else s.setQp q { x with answer := 1, out := x.rsp.flatMap fun e => e.2.getD [], rsp := [] })
    else s
  | none => s

/-- Every piece of a range, performed by `here` on this chip and by the packets of `far` on others; the answer follows when all are
done (R175, R176, R425). -/
def State.rdmaDo (s : State) (q : Nat) (x : Qp) (va n : Nat) (perm : Perm)
    (here : State → Nat × Nat × Target → List Byte × State) (far : State → Nat × Nat × Target → Packet) : Rdma :=
  match s.rdmaRange x.ctx va n perm with
  | none => .denied
  | some l => match s.rdmaAdmit (decide (perm ≠ .read)) l with
    | (false, _, done) => .wait (s.onlyWakes done)
    | (true, l, s) =>
      .ok ((l.foldl (fun s e =>
        if e.2.2.chip = s.chip then (let (d, s) := here s e; s.rdmaPiece q d)
        else (linkPieces [e]).foldl (fun s e => s.rdmaSend q (far s e)) s) s).rdmaAnswer q)

/-- Bytes written by the adapter through a key (R176). -/
def State.rdmaWrite (s : State) (q : Nat) (x : Qp) (key va : Nat) (d : List Byte) (perm : Nat) : Rdma :=
  let cut := fun (e : Nat × Nat × Target) => (d.drop (e.1 - va)).take e.2.1
  if s.keyOk x key va d.length perm then
    s.rdmaDo q x va d.length .write (fun s e => ([], s.storeFor x.ctx e.2.2.pa (cut e)))
      fun s e => s.packet .wr e.2.2.chip (s.ctx x.ctx).tag 0 e.2.2.bwc .plain e.2.2.pa e.2.1 0 (cut e)
  else .denied

/-- A READ: its data is gathered, from this chip at once and from others by packets; a marked word is an error (R175, R176, R477). -/
def State.rdmaRead (s : State) (q : Nat) (x : Qp) (p : RdmaPkt) : Rdma :=
  let marked := match s.rdmaRange x.ctx p.va p.len .read with
    | some l => l.any fun e => decide (e.2.2.chip = s.chip) && s.eccHit (s.livePa e.2.2.pa) e.2.1
    | none => false
  if s.keyOk x p.key p.va p.len permRemoteRead && !marked then
    s.rdmaDo q x p.va p.len .read (fun s e => (s.bytes e.2.2.pa e.2.1, s))
      fun s e => s.packet .rd e.2.2.chip (s.ctx x.ctx).tag 0 e.2.2.bwc .plain e.2.2.pa e.2.1 0 []
  else .denied

/-- An atomic of 8 bytes through a key, which answers with the old value (R175, R176). -/
def State.rdmaAtomic (s : State) (q : Nat) (x : Qp) (p : RdmaPkt) (op : AtomOp) : Rdma :=
  let marked := match s.rdmaRange x.ctx p.va 8 .atomic with
    | some l => l.any fun e => decide (e.2.2.chip = s.chip) && s.eccHit (s.livePa e.2.2.pa) 8
    | none => false
  if p.va % 8 = 0 ∧ s.keyOk x p.key p.va 8 permRemoteAtomic = true ∧ marked = false then
    s.rdmaDo q x p.va 8 .atomic
      (fun s e => match s.doAtom op e.2.2.pa 8 p.a.toNat p.b.toNat with
        | (some old, s) => (bytesOf 8 old, s.claim x.ctx e.2.2.pa 8)
        | (none, s) => ([], s))
      fun s e => s.packet .at_ e.2.2.chip (s.ctx x.ctx).tag 0 e.2.2.bwc (.atom op 8 true .none) e.2.2.pa 8 1
        (bytesOf 8 p.a.toNat ++ bytesOf 8 p.b.toNat)
  else .denied

/-- The answer of another chip to a piece of a queue pair's access; a refusal is a remote access error, or ends the pair's own request
(R176, R177). -/
def State.rdmaReply (s : State) (q seq : Nat) (st : Status) (d : List Byte) : State :=
  match s.qps.get? q with
  | some x =>
    if x.rsp.all fun e => e.1 ≠ seq then s
    else if st ≠ .ok then (if x.own then s.qpError q else s.qpNak q 4)
    else (s.setQp q { x with rsp := x.rsp.map fun e => if e.1 = seq then (seq, some d) else e }).rdmaAnswer q
  | none => s

/-- A SEND message on a receive queue bound to the Starter (R178). That one whose launch queue has been deleted gets the NAK of an
invalid request is the model's choice (log 98). -/
def State.boundSend (s : State) (q : Nat) (x : Qp) (lq : Nat) (d : List Byte) : State :=
  if d.length % 64 ≠ 0 ∨ d.length < 64 ∨ 4096 < d.length then s.qpNak q 3
  else match (s.ctx x.ctx).queues.get? lq with
    | none => s.qpNak q 3
    | some l =>
      if l.depth - (l.tail - l.head) < d.length / 64 then s.setQp q { x with answer := 2 }
      else (s.appendRecs x.ctx lq 0 d (d.length / 64)).qpAck q

/-- The data of a SEND, or what comes with the immediate data of a WRITE, uses the oldest receive request; without one it is answered
with an RNR NAK. The immediate data goes to the receiver's completion, which the spec does not lay out (R175, R176; log 27). -/
def State.useReceive (s : State) (q : Nat) (x : Qp) (imm : Option (BitVec 32)) (k : List Byte → Qp → State → State) : State :=
  match x.recvs with
  | [] => s.setQp q { x with answer := 2 }
  | w :: rest =>
    let x := { x with recvs := rest, imm := imm }
    k w x (s.setQp q x)

/-- A request served, or answered with a NAK; while it waits at a home nothing is done (R175 to R178). A bound queue pair ignores
immediate data (R178). -/
def State.rdmaServe (s : State) (x : Qp) (p : RdmaPkt) : State :=
  let done := fun (r : Rdma) => match r with
    | .ok s => s
    | .denied => s.qpNak p.qp 4
    | .wait w => s.onlyWakes w
  match p.op with
  | .send => match x.bound with
    | some lq => s.boundSend p.qp x lq p.data
    | none => s.useReceive p.qp x p.imm fun w x s =>
      let b := Config.receiveBuffer w
      done (s.rdmaWrite p.qp x b.1 b.2 p.data permLocalWrite)
  | .write =>
    if p.imm.isSome && x.bound.isNone then
      s.useReceive p.qp x p.imm fun _ x s => done (s.rdmaWrite p.qp x p.key p.va p.data permRemoteWrite)
    else done (s.rdmaWrite p.qp x p.key p.va p.data permRemoteWrite)
  | .read => done (s.rdmaRead p.qp x p)
  | .cas => done (s.rdmaAtomic p.qp x p .cas)
  | .fetchAdd => done (s.rdmaAtomic p.qp x p .add)
  | .other => s.qpNak p.qp 3
  | .nakInvalid | .nakAccess | .fatal | .ack | .cnp => s

/-- An acknowledgement retires the oldest request on the wire, once the data of a READ or an atomic stands in the buffer it names; sends
are allowed in RTS alone (R177; log 27). -/
def State.rdmaAcked (s : State) (x : Qp) (p : RdmaPkt) : State :=
  if p.data = [] then s.setQp p.qp { x with work := x.work.drop 1, tries := 0 }
  else
    let x := { x with own := true }
    match (s.setQp p.qp x).rdmaWrite p.qp x p.key p.va p.data permLocalWrite with
    | .ok s => s
    | .denied => s.qpError p.qp
    | .wait w => s.onlyWakes w

/-- The queue pair has left RESET and is not in ERROR (R177). -/
def Qp.active (x : Qp) : Bool := decide (x.st = .init) || decide (x.st = .rtr) || decide (x.st = .rts)

end Sys2Proof.Machine
end

