-- ==== Sys2Proof/Machine/EvPacket.lean ====
section
/-! DEFINITION. The events of packets: PACKET_FORWARD (18_link R420, R421, R423), RD, WR, AT, FE, BAR, PUT, MSG, SPN
(R425 to R427), KILL_PACKET, KACK (R428; 05_context R148), RSP, RTY, PACKET_TIMER_EXPIRY (R425, R434). The packets held
whole at this chip stand in `transit`, in the order in which they came. An event that is not enabled leaves the state
unchanged (log 2). -/

namespace Sys2Proof.Machine

/-! ### Order (R423) -/

/-- The packet waits at a controller, in a hold queue or for its bandwidth class. -/
def State.atController (s : State) (p : Packet) : Bool :=
  let k : AccKey := .far p.src p.seq
  s.holdq.any (fun h => h.key = k) || s.bwq.any fun q => q.2.any fun e => e.key = k

/-- The transaction of a sequence number. -/
def State.tx? (s : State) (seq : Nat) : Option Tx := s.txs.find? fun t => t.seq = seq

/-- The core of this chip to which the answer of a transaction goes; none where no core waits for it. -/
def State.txCore (s : State) (x : Tx) : Option Nat :=
  match x.what with
  | .store id => (s.stores.find? fun y => y.id = id).map (·.tid.core)
  | .load t _ => some t.core
  | .ldn h _ | .lde h | .bar h => some (fld h 16 8)
  | .item id => (s.item? id).bind fun i => i.tid.map (·.core)
  | .word core _ _ => some core
  | .rdma _ | .agent | .kill _ _ => none

/-- The core of this chip that a packet here is addressed to: where the answer's transaction stands, or the scratchpad it names. -/
def State.packetCore (s : State) (p : Packet) : Option Nat :=
  if p.dst ≠ s.chip then none
  else match p.kind with
    | .rsp | .rty => (s.tx? p.seq).bind s.txCore
    | .rd | .wr | .at_ | .fe | .bar => (match place p.addr with | .spad c _ => some c | _ => none)
    | _ => none

/-- The packet waits in the input queue of a core whose clock stands (R153, R438, R445). -/
def State.atStanding (s : State) (p : Packet) : Bool :=
  match s.packetCore p with
  | some c => !(s.core c).clockRuns
  | none => false

/-- An earlier packet of the same class, source and destination is still held here. -/
def State.behindPacket (s : State) (i : Nat) (p : Packet) : Bool :=
  (s.transit.take i).any fun e => decide (e.pkt.src = p.src) && decide (e.pkt.dst = p.dst)
    && decide (PKind.cls e.pkt.kind = PKind.cls p.kind) && !s.atController e.pkt && !s.atStanding e.pkt

/-- Where a packet of a kind for this chip stands, when its turn has come. -/
def State.arrived (s : State) (p : Packet) (k : PKind) : Option Nat :=
  match s.transit.findIdx? fun e => e.pkt = p with
  | some i => if p.kind = k ∧ p.dst = s.chip ∧ s.behindPacket i p = false then some i else none
  | none => none

/-- PACKET_FORWARD. -/
def execPacketForward (idx : Nat) (s : State) : Host.Outcome State Fault Refusal :=
  .next (match s.transit[idx]? with
    | none => s
    | some e =>
      if e.pkt.dst = s.chip ∨ s.behindPacket idx e.pkt then s
      else
        let gone := s.takePacket idx
        if !s.inPod e.pkt.dst then gone.dropPacket .linkdown e.pkt
        else match s.route e.pkt.dst with
          | none => s
          | some port =>
            match (s.link port).st with
            | .down | .failed => gone.dropPacket .linkdown e.pkt
            | _ => gone.modLink port fun l =>
                let vc := s.vcOf e port
                let p := { e.pkt with esc := decide (vc = 3) }
                ({ l.begin_ with queue := l.queue ++ [(p, vc, PKind.cls p.kind)] } : Link).pump false)

/-! ### Requests for memory (R426, R427) -/

/-- The permission bits that a packet needs: R, W, A (R427). -/
def Packet.needs (p : Packet) : Nat :=
  match p.kind, p.sub with
  | .wr, _ => 2
  | .at_, _ | .bar, _ => 7
  | .fe, .stf | .fe, .empt => 2
  | _, _ => 1

/-- A valid range-table entry of the source matches (R427). -/
def State.rangeOk (s : State) (p : Packet) : Bool :=
  let n := Packet.needs p
  (List.range 16).any fun e =>
    match s.ranges.get? (p.src * 16 + e) with
    | some r => bitN r.perm 3 && decide (r.perm % 8 &&& n = n) && decide (r.ctag = p.tag) && decide (r.base.toNat ≤ p.addr)
        && decide (p.addr + p.bytes ≤ r.limit.toNat + 1)
    | none => false

/-- Rows 1 to 3 of R426: the status a packet is refused with, if any. -/
def State.packetCheck (s : State) (p : Packet) : Option Status :=
  let inOne := match place p.addr with
    | .hbm => decide (p.addr + p.bytes ≤ hbmSize)
    | .spad _ _ => decide (p.addr + p.bytes ≤ spadBase + 256 * spadSize)
    | _ => false
  if s.tagKilling p.tag then some .killed
  else if !inOne then some .denied
  else if !s.rangeOk p then some .denied
  else none

/-- What performing a packet gives. -/
inductive Served where
  | answer (st : Status) (aux : Nat) (d : List Byte) (s : State)
  | retry (s : State)
  /-- it waits at this chip and has left the list of packets -/
  | queued (s : State)
  /-- it waits, and is tried again -/
  | later (s : State)
  /-- a word of it is performed, and others are left: the bytes performed so far -/
  | more (got : List Byte) (s : State)
deriving DecidableEq, Repr

/-- The cause of a refused barrier operation as its answer carries it (log 13). -/
def barCode : Cause → Nat
  | .bpend => 1
  | _ => 2

/-- A barrier operation of another chip (R388, R396). -/
def State.serveBar (s : State) (p : Packet) (op : BarOp) (gname pa : Nat) : Served :=
  let party : Party := { tag := p.tag, chip := p.src, core := fld p.hnd 16 8, group := if gname = 0 then none else some gname }
  match s.barOp op pa party p.hnd (some p) with
  | .err .ecc => .answer .fault 0 [] s
  | .err c => .answer .ok (barCode c) [] s
  | .ok v s => .answer .ok 0 (bytesOf 8 v) s
  | .wait t => if (t.core (homeCore pa)).bwt.length = (s.core (homeCore pa)).bwt.length then .retry s else .queued t

/-- Words of a CPYR packet combined; a marked word writes nothing (R382, R477). -/
def State.combineFar (s : State) (c : Nat) (op : CpyrOp) (pa : Nat) (d : List Byte) : State :=
  (List.range (d.length / 8)).foldl (fun s i =>
    let a := pa + 8 * i
    if s.eccHit a 8 then s else s.storeFor c a (cpyrBytes op (s.bytes a 8) ((d.drop (8 * i)).take 8))) s

/-- A packet performed at an address of this chip (R277, R279, R382, R388, R425). -/
def State.serveAt (s : State) (p : Packet) (pa : Nat) : Served :=
  match p.kind, p.sub with
  | .wr, .stf => .answer .ok 0 [] ((s.storeFor ((s.ctxOfTag p.tag).getD 256) pa p.data).fillLineBits pa p.data.length)
  | .at_, .atom op n want _ =>
    match s.doAtom op pa n (getLe p.data 0 8) (getLe p.data 8 8) with
    | (some old, s) => .answer .ok 0 (if want then bytesOf n old else []) (s.claim ((s.ctxOfTag p.tag).getD 256) pa n)
    | (none, s) => .answer .fault 0 [] s
  | .at_, .cpyr op =>
    let bad := s.eccHit pa p.data.length
    let s := s.combineFar ((s.ctxOfTag p.tag).getD 256) op pa p.data
    .answer (if bad then .fault else .ok) 0 [] (if p.aux = 1 then s.fillLineBits pa p.data.length else s)
  | .fe, .stf => .answer .ok 0 [] ((s.storeFor ((s.ctxOfTag p.tag).getD 256) pa p.data).fill pa)
  | .fe, .empt => .answer .ok 0 [] (s.setFull pa false)
  | .fe, .feq => .answer .ok 0 [BitVec.ofNat 8 (b2n (s.isFull pa))] s
  | .fe, .lde clear =>
    if s.isFull pa then
      if s.eccHit pa 8 then .answer .fault 0 [] s
      else .answer .ok 0 (s.bytes pa 8) (if clear then s.setFull pa false else s)
    else .queued { s with ldeq := s.ldeq ++ [{ pa := pa, clear := clear, who := .far p }] }
  | .bar, .bar op gname => s.serveBar p op gname pa
  | _, _ => .answer .denied 0 [] s

/-- The access a packet asks for changes memory, for the hold queues (R412). -/
def Packet.writes (p : Packet) : Bool :=
  match p.kind, p.sub with
  | .rd, _ | .fe, .feq | .fe, .lde _ => false
  | _, _ => true

/-- The packet is performed as separate aligned 8-byte words: a read, or a write that sets no full bits (R116, R425). -/
def Packet.byWords (p : Packet) : Bool :=
  match p.kind, p.sub with
  | .rd, _ => true
  | .wr, .stf => false
  | .wr, _ => true
  | _, _ => false

/-- The next word of a read or write of another chip, after the bytes `got`; its class is charged once (R116, R208, R425). -/
def State.serveWord (s : State) (p : Packet) (got : List Byte) : Served :=
  let ctx := (s.ctxOfTag p.tag).getD 256
  let at_ := p.addr + got.length
  let n := Nat.min (8 - at_ % 8) (p.bytes - got.length)
  match s.gateFor 256 (.far p.src p.seq) ctx { chip := s.chip, pa := at_, bwc := if got = [] then some p.cls else none, loc := false }
      n p.bytes (Packet.writes p) with
  | .refused st => .answer st 0 [] s
  | .full => if got = [] then .retry s else .later s
  | .later s => .later s
  | .go pa s =>
    if p.kind = .rd then
      if s.eccHit pa n then .answer .fault 0 [] s
      else
        let got := got ++ s.bytes pa n
        if got.length < p.bytes then .more got s else .answer .ok 0 got s
    else
      let d := (p.data.drop got.length).take n
      let s := s.storeFor ctx pa d
      if got.length + n < p.bytes then .more (got ++ d) s else .answer .ok 0 [] s

/-- A packet of kinds RD to BAR at its destination, `got` the bytes of it performed before. -/
def State.serve (s : State) (p : Packet) (got : List Byte) : Served :=
  match s.packetCheck p with
  | some st => .answer st 0 [] s
  | none =>
    if Packet.byWords p then s.serveWord p got
    else
    let ctx := (s.ctxOfTag p.tag).getD 256
    match s.gate 256 (.far p.src p.seq) ctx { chip := s.chip, pa := p.addr, bwc := some p.cls, loc := false } p.bytes (Packet.writes p) with
    | .refused st => .answer st 0 [] s
    | .full => .retry s
    | .later s => .later s
    | .go pa s => s.serveAt p pa

/-- The packet at a place of the list is served, and answered. -/
def State.servePacket (s : State) (i : Nat) (p : Packet) : State :=
  let got := match s.transit[i]? with | some e => e.got | none => []
  match s.serve p got with
  | .more got s => { s with transit := s.transit.modify i fun e => { e with got := got } }
  | .answer st aux d s => (s.takePacket i).post (Packet.answer p .rsp st aux d)
  | .retry s => (s.takePacket i).post (Packet.answer p .rty .ok 0 [])
  | .queued s => s.takePacket i
  | .later s => s

/-- A packet of a kind, if it has arrived. -/
def State.onArrival (s : State) (p : Packet) (k : PKind) (f : Nat → State → State) : Host.Outcome State Fault Refusal :=
  .next (match s.arrived p k with
    | some i => f i s
    | none => s)

/-- RD. -/
def execRd (p : Packet) (s : State) : Host.Outcome State Fault Refusal := s.onArrival p .rd fun i s => s.servePacket i p
/-- WR. -/
def execWr (p : Packet) (s : State) : Host.Outcome State Fault Refusal := s.onArrival p .wr fun i s => s.servePacket i p
/-- AT. -/
def execAt_ (p : Packet) (s : State) : Host.Outcome State Fault Refusal := s.onArrival p .at_ fun i s => s.servePacket i p
/-- FE. -/
def execFe (p : Packet) (s : State) : Host.Outcome State Fault Refusal := s.onArrival p .fe fun i s => s.servePacket i p
/-- BAR. -/
def execBar (p : Packet) (s : State) : Host.Outcome State Fault Refusal := s.onArrival p .bar fun i s => s.servePacket i p

/-! ### Puts, messages, spawns -/

/-- The item that a packet of another chip carries goes to a core of this chip; one sent again takes the place of the item
that was refused (R166, R425). -/
def State.landItem (s : State) (p : Packet) (kind : ItemKind) (core : Nat) : State :=
  let same := fun (i : Item) => i.tid.isNone && (match i.pkt with | some q => decide (q.src = p.src) && decide (q.seq = p.seq) | none => false)
  match s.items.find? same with
  | some i => s.modItem i.id fun i => { i with st := .flying core, pkt := some p }
  | none =>
    { s with
      items := s.items ++ [{ id := s.nextItem, kind := kind, tid := none, gen := 0, ctx := (s.ctxOfTag p.tag).getD 256, tag := p.tag,
                             hnd := p.hnd, priv := false, ev := none, st := .flying core, pkt := some p }],
      nextItem := s.nextItem + 1 }

/-- PUT: resolved at the link endpoint. A group of the name that a core here holds takes it; else it goes to the name's home
agent, on this chip or on to another (R217). -/
def execPut (p : Packet) (s : State) : Host.Outcome State Fault Refusal :=
  s.onArrival p .put fun i s =>
    let s := s.takePacket i
    let land := s.landItem p (.vput p.aux p.addr (BitVec.ofNat 1024 (valOf p.data)))
    match s.liveGroup p.aux with
    | some g => land (if g.onCore then g.core else fld p.aux 14 8)
    | none =>
      if fld p.aux 22 10 = s.chip then land (fld p.aux 14 8)
      else if s.inPod (fld p.aux 22 10) then s.post { p with dst := fld p.aux 22 10 }
      else s.post (Packet.answer p .rsp .linkdown 0 [])

/-- MSG. -/
def execMsg (p : Packet) (s : State) : Host.Outcome State Fault Refusal :=
  s.onArrival p .msg fun i s =>
    let box := fld p.aux 0 24
    (s.takePacket i).landItem p (.send box p.data.length (fld p.aux 24 2) p.data) (fld box 6 8)

/-- SPN. -/
def execSpn (p : Packet) (s : State) : Host.Outcome State Fault Refusal :=
  s.onArrival p .spn fun i s =>
    let regs := (List.range 4).map fun k => word (getLe p.data (8 * k) 8)
    (s.takePacket i).landItem p (.spnr s.chip (fld p.aux 8 8) (fld p.aux 0 8) regs 0) (fld p.aux 8 8)

/-! ### Kills -/

/-- KILL; one for a context that is already KILLING is counted, and answered at once (R143, R428). -/
def execKillPacket (p : Packet) (s : State) : Host.Outcome State Fault Refusal :=
  .next (match s.transit.findIdx? fun e => e.pkt = p with
    | none => s
    | some i =>
      if (s.arrived p .kill).isNone then s
      else
        let port := (s.transit[i]?.bind fun e => e.port).getD 0
        let s := s.takePacket i
        let ok := (List.range 16).any fun e => match s.ranges.get? (p.src * 16 + e) with
          | some r => bitN r.perm 3 && decide (r.ctag = p.tag)
          | none => false
        if !ok then s.modLink port fun l => { l with bad := Nat.min 65535 (l.bad + 1) }
        else match s.ctxOfTag p.tag with
          | none => s.post (Packet.answer p .kack .ok 0 [])
          | some c => match (s.ctx c).st with
            | .opened | .closing => (s.kill c 6 0 0).modCtx c fun k => { k with kackTo := k.kackTo ++ [p] }
            | _ => (s.kill c 6 0 0).post (Packet.answer p .kack .ok 0 []))

/-- A partner's share of a kill is settled: acknowledged, or LINKDOWN, which gets a record (R148). -/
def State.settlePartner (s : State) (c chip : Nat) (down : Bool) : State :=
  let s := s.modCtx c fun k => { k with partners := k.partners.filter (· ≠ chip) }
  if down then s.record c 5 chip .linkdown 0 (s.ctx c).reason 0 else s

/-- `s` without the transaction of a sequence number. -/
def State.dropTx (s : State) (seq : Nat) : State := { s with txs := s.txs.filter fun t => t.seq ≠ seq }

/-- KACK. -/
def execKack (p : Packet) (s : State) : Host.Outcome State Fault Refusal :=
  s.onArrival p .kack fun i s =>
    let s := s.takePacket i
    match s.tx? p.seq with
    | some t => match t.what with
      | .kill c chip => if chip = p.src then (s.dropTx p.seq).settlePartner c chip false else s
      | _ => s
    | none => s

/-! ### Answers -/

/-- The bytes that an answer to transaction `x` brings to part of an access that `core` issued: a load of HBM4E asked for its line, which
fills the cluster cache unless lines were invalidated there since. A line that the cache holds by now gives the value (R110, R117,
R122, R126). -/
def State.answerBytes (s : State) (x : Tx) (t : Tid) (core : Nat) (p : Part) (d : Dest) (data : List Byte) : List Byte × State :=
  let line := p.tgt.pa / 64 * 64
  let k := clusterOf core
  match d with
  | .atom _ _ _ _ _ _ _ _ => (data, s.dropLine k p.tgt.chip line)
  | .feq _ _ | .lde _ _ => (data, s)
  | _ =>
    if place p.tgt.pa = .hbm then
      let of := fun (l : List Byte) => s.forward t p.tgt.chip p.tgt.pa ((l.drop (p.tgt.pa - line)).take p.n)
      match s.lineAt core p.tgt with
      | some l => (of l, s)
      | none => (of data, if x.drops = (s.cluster k).drops then s.fillLine k p.tgt.chip line (data.take 64) else s)
    else (s.forward t p.tgt.chip p.tgt.pa (data.take p.n), s)

/-- Part `i` of the access of the thread at `t` is answered (R425). -/
def State.loadAnswer (s : State) (x : Tx) (t : Tid) (i : Nat) (st : Status) (data : List Byte) : State :=
  match (s.slot t).st, (s.thread t).wait with
  | .stall, .op (.mem parts d) =>
    match parts[i]? with
    | some p =>
      if p.got.isSome then s
      else
        let (b, s) := if st = .ok then s.answerBytes x t t.core p d data else ([], s)
        ((s.at_ t).tryFinish (parts.set i { p with got := some (st, b) }) d).at_ s.cur
    | none => s
  | _, _ => s

/-- The LDE at which the thread of handle `h` waits is answered: it completes, or, once the thread is saved, its record keeps the answer
(R101, R277; log 42). -/
def State.ldeAnswer (s : State) (h : Nat) (st : Status) (data : List Byte) : State :=
  match s.locate h with
  | .slot t => match (s.slot t).st, (s.thread t).wait with
    | .wait, .block (.lde _ xd _ va) | .saving, .block (.lde _ xd _ va) =>
      let u := s.at_ t
      (if st = .ok then (u.modMe fun m => m.setX xd (word (valOf data))).commit else u.trap (replyCause st) va).at_ s.cur
    | _, _ => s
  | .gone => s
  | _ => s.modHandle h fun x => { x with ldeDone := some (st, word (valOf data)) }

/-- The LDN of a thread is answered by another chip. -/
def State.ldnAnswer (s : State) (tx : Tx) (h : Nat) (x : XReg) (st : Status) (data : List Byte) : State :=
  match (s.byHandle h).bind fun th => th.owedAt x with
  | none => s
  | some o =>
    let p := o.part
    if o.got.isSome then s
    else if st = .ok then
      let (b, s) := s.answerBytes tx (tidOf h) o.core p (.load o.w x) data
      s.modHandle h fun th => th.answerOwed x (some (loadVal o.w b), .ok)
    else s.modHandle h fun th => th.answerOwed x (none, st)

/-- What the answer to a barrier operation on another chip says: done, or the cause it raises (log 13). -/
def barEnd (st : Status) (aux : Nat) : Option Cause :=
  if st ≠ .ok then some (replyCause st) else if aux = 0 then none else some (if aux = 1 then .bpend else .prot)

/-- The barrier operation of the thread of handle `h` is answered: it completes, and a BWAIT whose thread is saved keeps its
wake in the record (R396, R397). -/
def State.barAnswer (s : State) (h : Nat) (st : Status) (aux : Nat) (data : List Byte) : State :=
  match s.locate h with
  | .slot t =>
    let u := s.at_ t
    match (s.slot t).st, (s.thread t).wait with
    | .stall, .op (.bar op tgt va xd pd pe rs) =>
      (match barEnd st aux with
        | some c => u.trap c va
        | none => u.barDone op tgt va xd (pd.getD 0) (pe.getD 0) rs (.ok (valOf data) u)).at_ s.cur
    | .wait, .block (.bwait _ _ va rs) | .saving, .block (.bwait _ _ va rs) =>
      (match barEnd st aux with | some c => u.trap c va | none => (u.barAcquire rs).commit).at_ s.cur
    | _, _ => s
  | .gone => s
  | _ => s.modHandle h fun x => { x with bwaitDone := some (barEnd st aux) }

/-- A store of this chip is acknowledged by another; the issuing cluster's copy of its line follows (R110). -/
def State.storeAnswer (s : State) (id : Nat) (st : Status) : State :=
  match s.stores.find? fun x => x.id = id with
  | none => s
  | some x =>
    if st = .ok then
      let s := s.setPhase id .done
      if place x.tgt.pa = .hbm then
        (match x.kind with
          | .plain => s.updateLine (clusterOf x.tid.core) x.tgt.chip x.tgt.pa x.data
          | _ => s.dropLine (clusterOf x.tid.core) x.tgt.chip (x.tgt.pa / 64 * 64))
      else s
    else s.setPhase id (.refused st)

/-- A transaction ends with a status (R425, R434). -/
def State.settleTx (s : State) (t : Tx) (st : Status) (aux : Nat) (data : List Byte) : State :=
  let s := s.dropTx t.seq
  match t.what with
  | .store id => s.storeAnswer id st
  | .load u i => s.loadAnswer t u i st data
  | .ldn h x => s.ldnAnswer t h x st data
  | .lde h => s.ldeAnswer h st data
  | .bar h => s.barAnswer h st aux data
  | .item id => s.modItem id fun i =>
      { i with st := .answered st (match i.kind with | .spnr _ _ _ _ _ => fld (valOf data) 0 34 | _ => aux) }
  | .word core cmd w => s.wordReply core cmd w st data
  | .rdma q => s.rdmaReply q t.seq st data
  | .agent => s
  | .kill c chip => s.settlePartner c chip true

/-- What reaches the core that waits for a transaction is done once its clock runs (R153, R438, R445). -/
def State.atTx (s : State) (t : Tx) (f : State → State) : State :=
  match s.txCore t with
  | some c => s.atRunning c f
  | none => f s

/-- RSP. -/
def execRsp (p : Packet) (s : State) : Host.Outcome State Fault Refusal :=
  s.onArrival p .rsp fun i s =>
    match s.tx? p.seq with
    | some t => if t.pkt.tag = p.tag then s.atTx t fun s => (s.takePacket i).settleTx t p.status p.aux p.data else s.takePacket i
    | none => s.takePacket i

/-- A BWAIT of the thread of handle `h` asks its home again after 1,024 mesh cycles (R396). -/
def State.askLater (s : State) (h : Nat) : State :=
  match s.named h with
  | some t => s.modSlot t fun x => { x with th := { x.th with askAt := s.now + mesh1024 } }
  | none => s

/-- RTY: the timer starts again, and the packet goes again: an item when its resend is due, a store through
HOLD_QUEUE_RETRY, another access that a full hold queue refused after 256 mesh cycles; a BWAIT that finds the wait table full
asks again through BWAIT_TABLE_RETRY, always with the packet of the transaction (R166, R219, R396, R413, R425). -/
def execRty (p : Packet) (s : State) : Host.Outcome State Fault Refusal :=
  s.onArrival p .rty fun i s =>
    match s.tx? p.seq with
    | none => s.takePacket i
    | some t => s.atTx t fun s =>
      let s := s.takePacket i
      let s : State := { s with txs := s.txs.map fun e => if e.seq = p.seq then { e with due := s.now + 2000000 } else e }
      match t.what with
      | .item id =>
        let msg := decide (t.pkt.kind = .msg)
        let st : ItemSt := if msg && decide (p.aux = rtyListed) then .listed
          else if msg && decide (p.aux ≠ rtyLater) then .later s.now else .later (s.now + mesh1024)
        s.modItem id fun i => { i with st := st }
      | .store id => s.setPhase id (.retry (s.now + holdRetry))
      | .bar h => s.askLater h
      | _ => match t.key with
        | some k => { s with fullq := s.fullq ++ [(k, s.now + holdRetry)] }
        | none => s.post t.pkt

/-- PACKET_TIMER_EXPIRY. A message listed at its mailbox is not on its way, and expects no answer until it is signalled and sent
again (R166, R434; log 13). -/
def execPacketTimerExpiry (seq : Nat) (s : State) : Host.Outcome State Fault Refusal :=
  .next (match s.tx? seq with
    | some t =>
      let listed := match t.what with
        | .item id => (match s.item? id with | some i => decide (i.st = .listed) | none => false)
        | _ => false
      if t.due ≤ s.now ∧ listed = false then s.atTx t fun s => s.settleTx t .linkdown 0 [] else s
    | none => s)

end Sys2Proof.Machine
end

