-- ==== Sys2Proof/Machine/Tables.lean ====
section
/-! DEFINITION. The Farrier's page tables and frames: free frames (20_image R458), tables and leaves (17_page R400 to R402,
R410). -/

namespace Sys2Proof.Machine

/-! ### Frames -/

/-- Buffers of HBM4E in use, or not yet zeroed: address and size. -/
def State.usedFrames (s : State) : List (Nat × Nat) :=
  (s.frames.map fun f => (f.pa, f.size)) ++ s.zeroq.vals.filterMap fun z => if z.pa < hbmSize then some (z.pa, z.size) else none

/-- A frame of HBM4E that nothing uses, aligned on its size. -/
def State.frameFree (s : State) (pa size : Nat) : Bool :=
  decide (pa % size = 0) && decide (pa + size ≤ hbmSize)
  && s.usedFrames.all fun u => decide (u.1 + u.2 ≤ pa) || decide (pa + size ≤ u.1)

/-- A free frame of a size: which one is open (R458; log 9). The lowest free frame begins at 0 or after a used buffer. -/
def State.pickFrame (s : State) (size : Nat) : Option Nat :=
  let any := Config.frameChoice s.tick % (hbmSize / size) * size
  (any :: 0 :: s.usedFrames.map fun u => ceilDiv (u.1 + u.2) size * size).find? fun pa => s.frameFree pa size

/-- A frame taken for a use (R410): 0 a page, 1 a page table, 2 a queue's ring. -/
def State.takeFrame (s : State) (size ctx use : Nat) : Option (Nat × State) :=
  (s.pickFrame size).map fun pa =>
    (pa, { s with frames := s.frames ++ [{ pa := pa, size := size, ctx := ctx, use := use }], tick := s.tick + 1 })

/-- 4 KiB frames that count against the context's quota: pages, rings, and what is not yet zeroed; a save area has
a quota of its own (R142, R158, R410). -/
def State.framesHeld (s : State) (c : Nat) : Nat :=
  ((s.frames.filter fun f => decide (f.ctx = c) && decide (f.use ≠ 1) && decide (f.use ≠ 3)).map fun f => ceilDiv f.size 4096).sum
  + ((s.zeroq.vals.filter fun z => z.ctx = c).map (·.frames)).sum

/-! ### Tables -/

/-- A pointer entry to a table of this chip (R401). -/
def State.pointer (s : State) (tbl : Nat) : Word := word (2 ^ 63 + 15 * 2 ^ 59 + s.chip * 2 ^ 49 + tbl)

/-- The table at level `lv` that holds the entry of `va`, made where it is missing; `ls` are the levels above it. -/
def State.tableFor (s : State) (c va : Nat) : List Nat → Nat → Option (Nat × State)
  | [], tbl => some (tbl, s)
  | l :: ls, tbl =>
    let pa := tbl + 8 * vaIndex va l
    let e := s.readN pa 8
    if pteV e then (if pteSz e = 15 then s.tableFor c va ls (pteFrame e) else none)
    else match s.takeFrame 4096 c 1 with
      | none => none
      | some (f, s) => ((s.zero f 4096).store pa (bytesOf 8 (s.pointer f).toNat)).tableFor c va ls f

/-- Tables below an entry, all of them without a leaf (R410). -/
def tablesUnder (s : State) : List Nat → Nat → List Nat
  | [], _ => []
  | l :: ls, e =>
    if pteV e && decide (pteSz e = 15) && ptrOk s e (l - 1) then
      pteFrame e :: (List.range 512).flatMap fun i => tablesUnder s ls (s.readN (pteFrame e + 8 * i) 8)
    else []

/-- The levels above a level, and those below it. -/
def levelsAbove (lv : Nat) : List Nat := List.range lv
def levelsBelow (lv : Nat) : List Nat := (List.range (3 - lv)).map fun i => lv + 1 + i

/-- A leaf written in all its replicas, in place of empty tables, which go free (R402, R410). -/
def State.writeLeaf (s : State) (c va : Nat) (sz : Nat) (pte : Word) : Option State :=
  match szInfo sz with
  | none => none
  | some (lv, _, rep) =>
    (s.tableFor c va (levelsAbove lv) (s.ctx c).root).map fun r =>
      let base := r.1 + 8 * vaIndex va lv
      (List.range rep).foldl (fun s i =>
        let old := tablesUnder s (levelsBelow lv) (s.readN (base + 8 * i) 8)
        let s := s.store (base + 8 * i) (bytesOf 8 pte.toNat)
        old.foldl (fun s t => ({ s with frames := s.frames.filter fun f => f.pa ≠ t } : State).toZero c t 4096 0) s) r.2

/-- The page of a context that covers an address: base, size, leaf. -/
def State.pageAt (s : State) (c va : Nat) : Option (Nat × Nat × Word) :=
  match s.walk c va with
  | .leaf pte size => some (va / size * size, size, pte)
  | .fail _ _ => none

/-- Every byte of [va, va + n) is UNMAPPED (R410). -/
def State.unmapped (s : State) (c va n : Nat) : Bool :=
  (s.leaves c).all fun e => decide (e.1 + e.2.1 ≤ va) || decide (va + n ≤ e.1)

/-- A move ends when its last sub-block has been copied and nothing is held for the page: the leaf names the new frame, and
a shootdown follows (R414). -/
def State.endMove (s : State) (m : Moving) : State :=
  if m.copied < m.size / 4096 ∨ (s.holdq.any fun h => decide (m.old ≤ h.pa) && decide (h.pa < m.old + m.size)) = true then s
  else match s.pageAt m.ctx m.va with
    | some (va, size, pte) =>
      let e := pte.toNat - pteFrame pte.toNat - (if pteM pte.toNat then 8 else 0) + m.new
      match s.writeLeaf m.ctx va (pteSz pte.toNat) (word e) with
      | some s => s.shootdown m.ctx va size s.chip m.old .moveEnd none
      | none => s
    | none => s

end Sys2Proof.Machine
end

