-- ==== Sys2Proof/Machine/EvMove.lean ====
section
/-! DEFINITION. MOVE_SUBBLOCK_COPIED (17_page R411, R412, R414) and BANDWIDTH_REFILL (07_kernel R207, R208). An event that is
not enabled leaves the state unchanged (log 2). -/

namespace Sys2Proof.Machine

/-- A packet of another chip that waited is served, every word of it; `fuel` bounds them (R116, R424). -/
def State.serveWhole (s : State) (src seq : Nat) : Nat → State
  | 0 => s
  | fuel + 1 =>
    match s.transit.findIdx? fun e => decide (e.pkt.src = src) && decide (e.pkt.seq = seq) && decide (e.pkt.dst = s.chip)
        && PKind.asks e.pkt.kind with
    | some i => match s.transit[i]? with
      | some e => (s.servePacket i e.pkt).serveWhole src seq fuel
      | none => s
    | none => s

/-- An access that waited at a controller is tried again (R208, R412). -/
def State.retryKey (s : State) (k : AccKey) : State :=
  match k with
  | .store id => s.storeAtHome id
  | .load t => s.loadReplyAll t
  | .ldn h x => s.performLdn (tidOf h) x
  | .word core cmd w => s.retryWord core cmd w
  | .fetch t => match (s.slot t).st, (s.thread t).wait with
    | .stall, .retry (.fetch line) => s.settleFetch t line
    | _, _ => s
  | .far src seq => s.serveWhole src seq 33
  | .tx _ => s

/-- A sub-block copied: its bytes, and the marks of words that hold an uncorrectable error. -/
def State.copyBlock (s : State) (src dst : Nat) : State :=
  let marks := (s.ecc.filter fun w => decide (src ≤ 8 * w) && decide (8 * w < src + 4096)).map fun w => w - src / 8 + dst / 8
  let s := s.store dst (s.bytes src 4096)
  { s with ecc := marks.foldl (fun l w => insertSorted w l) s.ecc }

/-- MOVE_SUBBLOCK_COPIED: the next sub-block of the moving page of a context at virtual page number `page`. -/
def execMoveSubblockCopied (ctx page : Nat) (s : State) : Host.Outcome State Fault Refusal :=
  .next (match s.moving.find? fun m => decide (m.ctx = ctx) && decide (m.va / 4096 = page) && !m.ended with
    | none => s
    | some m =>
      if !m.copying || decide (m.size / 4096 ≤ m.copied) then s
      else
        let at_ := m.old + m.copied * 4096
        let s := s.copyBlock at_ (m.new + m.copied * 4096)
        let mine := fun (h : HeldAcc) => decide (at_ ≤ h.pa) && decide (h.pa < at_ + 4096)
        let held := s.holdq.filter mine
        let s : State := { s with
          holdq := s.holdq.filter fun h => !mine h,
          moving := s.moving.map fun x => if x = m then { m with copied := m.copied + 1 } else x }
        (held.foldl (fun s h => s.retryKey h.key) s).endMove { m with copied := m.copied + 1 })

/-- A class after a refill. A write takes effect first: the balance is clipped to the new DEPTH, and the refill is of the new RATE
(R207, R208). -/
def BwClass.refill (k : BwClass) : BwClass :=
  let all := List.range 512
  match k.pendingCfg with
  | some v =>
    let n := v.toNat
    let depth := Nat.max 64 (fld n 32 16)
    let rate := fld n 0 16
    let bal := if bitN n 63 then []
      else if k.unl then all.map fun i => (i, (depth : Int))
      else all.map fun i => (i, min (depth : Int) (min (depth : Int) (k.bal.getD i 0) + rate))
    { unl := bitN n 63, depth := depth, rate := rate, pendingCfg := none, bal := bal }
  | none =>
    if k.unl then k else { k with bal := all.map fun i => (i, min (k.depth : Int) (k.bal.getD i 0 + k.rate)) }

/-- A waiting access put in its place by arrival. -/
def BwWait.insert (x : BwWait) : List BwWait → List BwWait
  | [] => [x]
  | y :: l => if x.ord < y.ord then x :: y :: l else y :: BwWait.insert x l

/-- BANDWIDTH_REFILL: every bucket, and then the accesses that wait, in the order in which they arrived (R208). -/
def execBandwidthRefill (s : State) : Host.Outcome State Fault Refusal :=
  .next (if s.now < (s.refills + 1) * 64 then s
    else
      let s : State := { s with refills := s.refills + 1, bw := s.bw.mapVals fun _ k => k.refill }
      let all := (s.bwq.flatMap fun q => q.2).foldl (fun l x => BwWait.insert x l) []
      (all.map (·.key)).foldl State.retryKey s)

end Sys2Proof.Machine
end

