-- ==== Sys2Proof/Machine/EvHost.lean ====
section
/-! DEFINITION. Host writes to the register page of a context (05_context R141): KICK_WRITE (R152) and RHEAD_WRITE
(R148); and the events of the RDMA adapter (06_queue R175 to R178): RDMA_WORK_REQUEST, RDMA_PACKET_RECEIVED, BOUND_RECEIVE_SEND,
ROCEV2_RETRANSMISSION (18_link R437). A page whose position holds no context ignores writes; an event that is not enabled
leaves the state unchanged (log 2). -/

namespace Sys2Proof.Machine

/-- The context that a write to a register page reaches (R141, R460). -/
def State.pageCtx (s : State) (iface pos : Nat) : Option Nat := if s.dark iface then none else s.ctxAt iface pos

/-- KICK_WRITE. -/
def execKickWrite (iface pos : Nat) (s : State) : Host.Outcome State Fault Refusal :=
  .next (match s.pageCtx iface pos with
    | some c => s.modCtx c fun k => { k with wdStart := s.now }
    | none => s)

/-- RHEAD_WRITE: a value below the current one or above RTAIL is ignored. Records that waited enter the ring, and one that is full
again interrupts the host driver (R148). -/
def execRheadWrite (iface pos : Nat) (v : Word) (s : State) : Host.Outcome State Fault Refusal :=
  .next (match s.pageCtx iface pos with
    | none => s
    | some c =>
      let k := (s.ctx c).ring
      match s.rings.get? k with
      | none => s
      | some r =>
        if r.rhead ≤ v.toNat ∧ v.toNat ≤ r.rtail then
          let r := ({ r with rhead := v.toNat } : Ring).drain
          (s.setRing k r).irqIf (decide (r.size ≤ r.rtail - r.rhead))
        else s)

/-! ### The RDMA adapter -/

/-- RDMA_WORK_REQUEST: a request written to a queue pair of the page's context. In RESET and ERROR none is taken, and a bound queue
pair takes no receive request (R178; log 27). -/
def execRdmaWorkRequest (iface pos qp : Nat) (bytes : List Byte) (s : State) : Host.Outcome State Fault Refusal :=
  .next (match s.pageCtx iface pos, s.qps.get? qp with
    | some c, some x =>
      if x.ctx ≠ c ∨ x.st = .reset ∨ x.st = .error then s
      else if Config.isReceive bytes then (if x.bound.isSome then s else s.setQp qp { x with recvs := x.recvs ++ [bytes] })
      else s.setQp qp { x with work := x.work ++ [bytes] }
    | _, _ => s)

/-- RDMA_PACKET_RECEIVED: receives are accepted in RTR and RTS, while the port is UP; a fatal error or a NAK ends an active queue pair;
a packet for another UDP port is no packet of the adapter, a marked one of any kind is answered with a congestion notification, and a
request or acknowledgement that comes while the pieces of the last are under way is left to be sent again (R175, R177; 18_link R437;
log 27). -/
def execRdmaPacketReceived (p : RdmaPkt) (s : State) : Host.Outcome State Fault Refusal :=
  .next (match s.qps.get? p.qp with
    | some x =>
      if p.op = .fatal then (if x.active then s.qpError p.qp else s)
      else if p.udp ≠ 4791 ∨ s.ethUp x.eth = false then s
      else
        let x := if p.ecn && x.active then { x with cnps := x.cnps + 1 } else x
        let s := s.setQp p.qp x
        match p.op with
        | .nakInvalid | .nakAccess => if x.active then s.qpError p.qp else s
        | .cnp => if x.active then s.setQp p.qp { x with slowed := x.slowed + 1 } else s
        | .ack => if x.st = .rts ∧ x.rsp = [] then s.rdmaAcked x p else s
        | _ => if (x.st = .rtr ∨ x.st = .rts) ∧ x.rsp = [] then s.rdmaServe x p else s
    | none => s)

/-- BOUND_RECEIVE_SEND: the last packet of a SEND message has arrived. -/
def execBoundReceiveSend (qp : Nat) (bytes : List Byte) (s : State) : Host.Outcome State Fault Refusal :=
  .next (match s.qps.get? qp with
    | some x => match x.bound with
      | some lq => if (x.st = .rtr ∨ x.st = .rts) ∧ s.ethUp x.eth = true then s.boundSend qp x lq bytes else s
      | none => s
    | none => s)

/-- ROCEV2_RETRANSMISSION: the request on the wire is sent again, or its retries have run out (R177). -/
def execRocev2Retransmission (qp : Nat) (s : State) : Host.Outcome State Fault Refusal :=
  .next (match s.qps.get? qp with
    | some x =>
      if x.st ≠ .rts ∨ x.work = [] then s
      else if x.tries < x.retries then s.setQp qp { x with tries := x.tries + 1 }
      else s.qpError qp
    | none => s)

end Sys2Proof.Machine
end

