-- ==== Sys2Proof/Machine/Queue.lean ====
section
/-! DEFINITION. SEND, RECV, ENQ and MBOX (06_queue R179 to R184). -/

namespace Sys2Proof.Machine

/-- Bytes of a size code (R179). -/
def codeSize (c : Nat) : Nat := 32 * 2 ^ c

/-- A range of the local window as SEND and RECV check it: alignment, the window, the shape record where it is
written (R103, log 16), open rings, range locks (R181, R182). For an open ring that the range touches, sr.taddr names the mailbox of that ring,
which need not be the mailbox of the operand (log 46). -/
def State.localCheck (s : State) (a : Word) (n : Nat) (readOnly : Bool) : Option State :=
  if a.toNat % n ≠ 0 then some (s.trap .align a)
  else if spadSize ≤ a.toNat then some (s.trap .addr a)
  else if !readOnly && decide (shapeBase < a.toNat + n) then some (s.trap .prot a)
  else match s.ringHit s.cur.core a.toNat n with
    | some i => some (s.trap .mbox (mboxAddr .fault (boxId s.chip s.cur.core i)))
    | none =>
      if s.bridleHit s.cur.core s.chip (localPa s.cur.core a.toNat) n readOnly then some (s.trap .range a) else none

/-- SEND (R181). -/
def execSend (g : Guard) (size : Fin 4) (prio : Fin 4) (ev : EvSel) (xa xb : XReg) (s : State) :
    Host.Outcome State Fault Refusal :=
  guarded g [xa, xb] s fun s =>
    let n := codeSize size.val
    let a := s.me.xr xa
    let id := (s.me.xr xb).toNat
    let mb := fun (s : State) (st : Status) => s.trap .mbox (mboxAddr st id)
    if a.toNat % n ≠ 0 then s.trap .align a
    else if spadSize ≤ a.toNat then s.trap .addr a
    else if 2 ^ 24 ≤ id then mb s .fault
    else if !s.inPod (fld id 14 10) then mb s .linkdown
    else match s.localCheck a n true with
      | some s => s
      | none =>
        let own := decide (fld id 14 10 = s.chip) && decide (fld id 6 8 = s.cur.core)
        let refused := if own then (s.mboxTest s.cur.core (fld id 0 6) s.myTag n s.nextItem).filter fun st => st ≠ .full
          else none
        match refused with
        | some st => mb s st
        | none =>
          if s.portFull s.cur then s.stallOn .sendPort
          else
            let pa := localPa s.cur.core a.toNat
            let shape := decide (shapeBase ≤ a.toNat)
            if !shape && s.eccHit pa n then s.trap .ecc a
            else
              let d := if shape then s.shapeBytes s.cur.core s.me.launch a.toNat n else s.bytes pa n
              let item := s.nextItem
              let s := s.addItem (.send id n prio.val d) ev false
              -- a message to a mailbox of this core is accepted or refused in the cycle in which it is sent (R165)
              (if own && (match s.item? item with | some i => decide (i.st = .flying s.cur.core) | none => false) then
                s.arriveMsg item else s).commit

/-- RECV and RECV.try (R182). RECVs that wait take first what is there (R165). While another message of the cycle is still to be accepted,
RECV joins the queue of those that wait, and RECV.try is issued again: acceptances come before receives. -/
def recvOp (try_ : Bool) (g : Guard) (xd : XReg) (pd pe : PReg) (xa : XReg) (b : Src) (s : State) :
    Host.Outcome State Fault Refusal :=
  guarded g (xd :: xa :: srcRegs b) s fun s =>
    let a := s.me.xr xa
    let k := (s.me.src b).toNat
    let core := s.cur.core
    if 63 < k then s.trap .mbox (mboxAddr .fault (boxId s.chip core (k % 64)))
    else match (s.box? core k).filter fun m => decide (m.ctx = s.me.ctx) with
      | none => s.trap .mbox (mboxAddr .denied (boxId s.chip core k))
      | some m =>
        match s.localCheck a m.size false with
        | some s => s
        | none =>
          let due := s.msgDue core k
          let s := s.serveRecvs core k
          let m := (s.box? core k).getD m
          match (if due then none else takeMsg m.msgs) with
          | some (msg, rest) =>
            let s := s.setBox core k { m with msgs := rest }
            (s.deliverMsg s.cur a.toNat xd pd pe m.size msg).signalNext core k
          | none =>
            if !try_ then
              let w : RecvWait := { tid := s.cur, addr := a.toNat, xd := xd, pd := pd, pe := pe }
              (s.setBox core k { m with recvs := m.recvs ++ [w] }).blockOn (.recv k)
            else if due then s.stallOn (.held s.now)
            else (s.modMe fun t => (t.setX xd 0).setPP pd pe false).commit

/-- RECV (R182). -/
def execRecv := recvOp false
/-- RECV.try (R182). -/
def execRecvTry := recvOp true

/-- The core ENQ takes: the first of 16 from the hash of the address with a free task-queue entry (R183). -/
def State.enqCore (s : State) (a c : Nat) : Option Nat :=
  let h := (fld a 8 8) ^^^ (fld a 16 8) ^^^ (fld a 24 8) ^^^ (fld a 32 8) ^^^ (fld a 40 8)
  if (s.ctx c).quota.slotsCore = 0 then none
  else ((List.range 16).map fun i => (h + i) % 256).find? fun k => decide ((s.core k).taskq.length < 256)

/-- ENQ (R183). -/
def execEnq (g : Guard) (xd : XReg) (pd pe : PReg) (xa : XReg) (s : State) : Host.Outcome State Fault Refusal :=
  guarded g [xd, xa] s fun s =>
    let a := s.me.xr xa
    if a.toNat % 64 ≠ 0 then s.trap .align a
    else if a.toNat < spadSize ∨ 2 ^ 48 ≤ a.toNat then s.trap .addr a
    else match s.xlate a.toNat with
      | .wait s => s
      | .fault c _ s => s.trap c a
      | .ok e s =>
        match permCheck s s.me.ctx e.pte.toNat (e.pa a.toNat) .read with
        | some c => s.trap c a
        | none =>
          if s.bridleHit s.cur.core (pteChip e.pte.toNat) (e.pa a.toNat) 256 true then s.trap .range a
          else s.release fun s =>
            match s.enqCore a.toNat s.me.ctx with
            | none => s.refuse xd pd pe .full
            | some k =>
              let c := s.me.ctx
              ((s.modCore k fun x => { x with taskq := x.taskq ++ [(a, c)] }).wakeCore k).accept xd pd pe (word k)

/-- MBOX.open: size code and log2 depth in the configuration (R184). -/
def execMboxOpen (g : Guard) (xd : XReg) (pd pe : PReg) (xa : XReg) (b : Src) (s : State) : Host.Outcome State Fault Refusal :=
  guarded g (xd :: xa :: srcRegs b) s fun s =>
    let a := (s.me.xr xa).toNat
    let cfg := (s.me.src b).toNat
    let core := s.cur.core
    let m : Mailbox := { ctx := s.me.ctx, tag := s.myTag, size := codeSize (fld cfg 0 2), depth := 2 ^ fld cfg 2 4, base := a,
                         msgs := [], resv := [], waits := [], recvs := [] }
    if 64 ≤ cfg ∨ 8 < fld cfg 2 4 ∨ a % 64 ≠ 0 ∨ shapeBase < a + m.ringLen ∨ (s.ringHit core a m.ringLen).isSome then
      s.refuse xd pd pe .fault
    else match s.myCore.boxes.lowestFree 64 with
      | none => s.refuse xd pd pe .full
      | some k =>
        let c := s.me.ctx
        if (s.ctx c).quota.boxes ≤ (s.myCore.boxes.filter fun e => e.2.ctx = c).length then s.refuse xd pd pe .quota
        else (s.setBox core k m).accept xd pd pe (word k)

/-- A mailbox closes: waiting RECVs trap, listed senders are refused, the ring is zeroed (R154, R168). -/
def State.closeBox (s : State) (core k : Nat) : State :=
  match s.box? core k with
  | none => s
  | some m =>
    let s := s.modCore core fun c => { c with boxes := c.boxes.erase k }
    let s := s.zero (localPa core m.base) m.ringLen
    let s := m.recvs.foldl (fun s w =>
      ((s.at_ w.tid).trap .mbox (mboxAddr .denied (boxId s.chip core k))).at_ s.cur) s
    m.waits.foldl (fun s id => s.answerItem id .denied 0) s

/-- MBOX.close (R184). -/
def execMboxClose (g : Guard) (xd : XReg) (pd pe : PReg) (b : Src) (s : State) : Host.Outcome State Fault Refusal :=
  guarded g (xd :: srcRegs b) s fun s =>
    let k := (s.me.src b).toNat
    let core := s.cur.core
    if 63 < k then s.refuse xd pd pe .fault
    else match (s.box? core k).filter fun m => decide (m.ctx = s.me.ctx) with
      | none => s.refuse xd pd pe .denied
      | some m => (s.closeBox core k).accept xd pd pe (word m.msgs.length)

/-- log2 of a power of two up to 256. -/
def log2Small (n : Nat) : Nat := Nat.log2 n

/-- MBOX.query (R184). -/
def execMboxQuery (g : Guard) (xd : XReg) (pd pe : PReg) (b : Src) (s : State) : Host.Outcome State Fault Refusal :=
  guarded g (xd :: srcRegs b) s fun s =>
    let k := (s.me.src b).toNat
    if 63 < k then s.refuse xd pd pe .fault
    else match s.box? s.cur.core k with
      | none => s.accept xd pd pe 0
      | some m =>
        if m.ctx ≠ s.me.ctx then s.refuse xd pd pe .denied
        else s.accept xd pd pe (word (m.base / 64 * 2 ^ 32 + Nat.min m.recvs.length 255 * 2 ^ 17 + 2 ^ 16
          + sizeCode m.size * 2 ^ 13 + log2Small m.depth * 2 ^ 9 + m.msgs.length))

end Sys2Proof.Machine
end

