-- ==== Sys2Proof/Machine/Release.lean ====
section
/-! DEFINITION. What a context gives back (05_context R143, R148, R152, R154, R479; 18_link R427, R428): the entry to
ZEROING, the end of a close, the confirmation of a purge, and the kill that an expired watchdog put off. -/

namespace Sys2Proof.Machine

/-- No TLB keeps an entry of the context, and no walk is in flight for it (R410). -/
def State.dropTlbs (s : State) (c : Nat) : State :=
  { s with
    cores := s.cores.mapVals fun _ k => { k with tlb := k.tlb.filter fun e => e.ctx ≠ c },
    clusters := s.clusters.mapVals fun _ k => { k with l2 := k.l2.filter fun e => e.ctx ≠ c, walks := k.walks.filter fun w => w.ctx ≠ c } }

/-- Entry to ZEROING: every page is unmapped, regions are unsealed and freed, queue pairs, domains and memory regions
are gone, its scratchpad ranges are zero, and every frame is on its way to zero (R143, R154, R410). Requests that waited are
answered. -/
def State.enterZeroing (s : State) (c : Nat) : State :=
  let mine := s.shoots.filter fun h => h.ctx = c
  let frames := s.frames.filter fun f => f.ctx = c
  let regions := s.regions.filter fun e => e.2.ctx = c
  let s : State := { s.dropTlbs c with
    shoots := s.shoots.filter fun h => h.ctx ≠ c,
    moving := s.moving.filter fun m => m.ctx ≠ c,
    holdq := s.holdq.filter fun h => h.ctx ≠ c,
    frames := s.frames.filter fun f => f.ctx ≠ c,
    regions := s.regions.keep fun _ r => decide (r.ctx ≠ c),
    qps := s.qps.keep fun _ q => decide (q.ctx ≠ c),
    pds := s.pds.keep fun _ d => decide (d ≠ c),
    regionsMr := s.regionsMr.keep fun _ r => decide (r.ctx ≠ c) }
  let s := frames.foldl (fun s f => s.toZero c f.pa f.size (if f.use = 1 ∨ f.use = 3 then 0 else ceilDiv f.size 4096)) s
  let s := regions.foldl (fun s e => s.toZero c e.1 e.2.size 0) s
  let s := (s.zeroSpads c).modCtx c fun k => { k with st := .zeroing, saves := [] }
  let s := regions.foldl (fun s e => s.replyReady e.2.sealing) s
  mine.foldl (fun s h => s.replyReady h.reply) s

/-- Nothing keeps a CLOSING context: no launch in flight, no thread on any core or in an image, no task-queue entry
(R143, R479). -/
def State.closeReady (s : State) (c : Nat) : Bool :=
  decide (s.inFlight c = 0) && !(s.liveSlots.any fun t => decide ((s.thread t).ctx = c))
  && !(s.images.any fun e => decide (e.2.th.ctx = c)) && !(s.groups.any fun e => decide (e.2.ctx = c) && decide (e.2.saved ≠ []))
  && !(s.cores.any fun e => e.2.taskq.any fun q => q.2 = c)

/-- The objects that remain at the end of a close are ended (R168, R177, R245, R479). -/
def State.closeDone (s : State) (c : Nat) : State :=
  let boxes := s.cores.flatMap fun e => (e.2.boxes.filter fun b => b.2.ctx = c).map fun b => (e.1, b.1)
  let s := boxes.foldl (fun s b => s.closeBox b.1 b.2) s
  let s : State := { s with cores := s.cores.mapVals fun _ k => { k with chans := k.chans.keep fun _ h => decide (h.ctx ≠ c) } }
  let qs := (s.qps.filter fun e => e.2.ctx = c).map (·.1)
  (qs.foldl State.qpError s).enterZeroing c

/-- The condition of R148: every unit, router and partner is done, no record waits for room in the ring, and the ring has room for
the summary. -/
def State.purged (s : State) (c : Nat) : Bool :=
  let k := s.ctx c
  k.units.isEmpty && k.routers.isEmpty && k.partners.isEmpty
  && (match s.rings.get? k.ring with | some r => r.waiting.isEmpty && decide (r.rtail - r.rhead < r.size) | none => true)

/-- CAUSE of a summary record (R150). -/
def summaryCause (reason cause : Nat) : Nat := if reason = 1 then cause else if reason = 2 then causeCode .ecc else 0

/-- The purge is confirmed: the summary record, the KACKs that wait, the range-table entries of the tag, and ZEROING
(R143, R148, R427, R428). -/
def State.purgeEnd (s : State) (c : Nat) : State :=
  let k := s.ctx c
  let s := s.record c 5 k.faults .ok (summaryCause k.reason k.cause) k.reason k.faddr
  let s := k.kackTo.foldl (fun s p => s.post (Packet.answer p .kack .ok 0 [])) s
  let s : State := { s with ranges := s.ranges.keep fun _ r => decide (r.ctag ≠ k.tag) }
  (s.modCtx c fun k => { k with kackTo := [] }).enterZeroing c

/-- A save of a thread or group of the context is in progress (R152). -/
def State.savingCtx (s : State) (c : Nat) : Bool :=
  s.slots.any (fun e => decide (e.2.st = .saving) && decide (e.2.th.ctx = c))
  || s.images.any (fun e => !e.2.complete && decide (e.2.th.ctx = c))
  || s.groups.any fun e => e.2.saving && decide (e.2.ctx = c)

/-- A gang stop holds a core of the context: a core with a thread of it (R152, R153). -/
def State.heldCtx (s : State) (c : Nat) : Bool :=
  s.liveSlots.any fun t => (s.core t.core).stop.isSome && decide ((s.thread t).ctx = c)

end Sys2Proof.Machine
end

