-- ==== Sys2Proof/Machine/EvKill.lean ====
section
/-! DEFINITION. The events of a kill and of zeroing: WATCHDOG_EXPIRY (05_context R152), KILL_DISCARD_END (R146),
PURGE_DONE_REPORT, PURGE_CONFIRMED (R148), ZEROING_DONE, BUFFER_ZEROED (R154), FUNCTION_LEVEL_RESET, PCIE_LINK_DOWN (R145;
20_image R455). An event that is not enabled leaves the state unchanged (log 2). -/

namespace Sys2Proof.Machine

/-- WATCHDOG_EXPIRY: with a save in progress the kill waits for its end (`settle`). -/
def execWatchdogExpiry (ctx : Nat) (s : State) : Host.Outcome State Fault Refusal :=
  let k := s.ctx ctx
  .next (if (k.st = .opened ∨ k.st = .closing) ∧ k.period ≠ 0 ∧ k.wdStart + k.period * 1000 ≤ s.now ∧ k.wdHold = none
      ∧ s.heldCtx ctx = false then
    (if s.savingCtx ctx then s.modCtx ctx fun k => { k with wdLate := true } else s.kill ctx 3 0 0)
  else s)

/-- 4,096 mesh cycles of 0.8 ns, in whole ns (R146). -/
def discardNs : Nat := 3277

/-- KILL_DISCARD_END. -/
def execKillDiscardEnd (ctx router : Nat) (s : State) : Host.Outcome State Fault Refusal :=
  .next (if (s.ctx ctx).st = .killing ∧ (s.ctx ctx).killAt + discardNs ≤ s.now then
    s.modCtx ctx fun k => { k with routers := k.routers.filter (· ≠ router) }
  else s)

/-- PURGE_DONE_REPORT. -/
def execPurgeDoneReport (ctx unit : Nat) (s : State) : Host.Outcome State Fault Refusal :=
  .next (if (s.ctx ctx).st = .killing then s.modCtx ctx fun k => { k with units := k.units.filter (· ≠ unit) } else s)

/-- PURGE_CONFIRMED. -/
def execPurgeConfirmed (ctx : Nat) (s : State) : Host.Outcome State Fault Refusal :=
  .next (if (s.ctx ctx).st = .killing ∧ s.purged ctx = true then s.purgeEnd ctx else s)

/-- Something still goes to the buffer: a range lock of a command, or a shootdown of its page (R154, R410). -/
def State.bufferBusy (s : State) (z : ZeroBuf) : Bool :=
  s.cores.any (fun e => e.2.cmds.any fun c => c.locks.any fun l =>
    decide (l.chip = s.chip) && decide (l.lo * 64 < z.pa + z.size) && decide (z.pa < l.hi * 64 + 64))
  || s.shoots.any fun h => decide (h.chip = s.chip) && decide (h.frame < z.pa + z.size) && decide (z.pa < h.frame + h.size)

/-- BUFFER_ZEROED: no cluster cache keeps a line of it. -/
def execBufferZeroed (id : Nat) (s : State) : Host.Outcome State Fault Refusal :=
  .next (match s.zeroq.get? id with
    | none => s
    | some z =>
      if s.bufferBusy z then s
      else
        let s := s.zero z.pa z.size
        { s with
          zeroq := s.zeroq.erase id,
          clusters := s.clusters.mapVals fun _ k =>
            { k with lines := k.lines.filter fun l => !(decide (l.1 = s.chip) && decide (z.pa ≤ l.2.1) && decide (l.2.1 < z.pa + z.size)) } })

/-- A command or store of the context still runs, and may write what has been zeroed (R154, R248). -/
def State.writesLeft (s : State) (c : Nat) : Bool :=
  (s.cores.any fun e => e.2.cmds.any fun d => d.ctx = c) || s.stores.any fun x => decide (x.ctx = c) && x.phase.pending

/-- ZEROING_DONE: the number is free for reuse; the ring stays until it is released (R143, R150). What commands of exited threads wrote
to a scratchpad meanwhile is zeroed too (R154, R248). A context whose ring still has records waiting for room stays, so that its host
driver can make room for them (R148; log 93). -/
def execZeroingDone (ctx : Nat) (s : State) : Host.Outcome State Fault Refusal :=
  let k := s.ctx ctx
  let waits := match s.rings.get? k.ring with | some r => !r.waiting.isEmpty | none => false
  .next (if k.st = .zeroing ∧ (s.zeroq.any fun e => e.2.ctx = ctx) = false ∧ waits = false ∧ s.writesLeft ctx = false then
    { s.zeroSpads ctx with
      ctxs := s.ctxs.erase ctx,
      rings := match s.rings.get? k.ring with
        | some r => s.rings.set k.ring { r with live := false }
        | none => s.rings }
  else s)

/-- Contexts bound to an interface, killed with reason 5 (R145). -/
def State.killIface (s : State) (iface : Nat) : State :=
  ((s.ctxs.filter fun e => decide (e.2.st ≠ .free) && decide (e.2.iface = iface)).map (·.1)).foldl (fun s c => s.kill c 5 0 0) s

/-- FUNCTION_LEVEL_RESET: the request mailbox is reset, requests not yet taken are discarded, and no reply to an
earlier request is written any more (R455). -/
def execFunctionLevelReset (iface : Nat) (s : State) : Host.Outcome State Fault Refusal :=
  .next (if 64 ≤ iface then s
    else
      let s := s.killIface iface
      let mine := fun (r : Option (Nat × Nat)) => match r with
        | some (i, _) => if i = iface then none else r
        | none => none
      { s with
        far := { s.far with boxes := s.far.boxes.erase iface, order := s.far.order.filter (· ≠ iface) },
        shoots := s.shoots.map fun h => { h with reply := mine h.reply },
        regions := s.regions.mapVals fun _ r => { r with sealing := mine r.sealing } })

/-- PCIE_LINK_DOWN. -/
def execPcieLinkDown (s : State) : Host.Outcome State Fault Refusal :=
  .next ((List.range 64).foldl State.killIface s)

end Sys2Proof.Machine
end

