-- ==== Sys2Proof/Machine/Journal.lean ====
section
/-! DEFINITION. The Farrier's journal (20_image R452 to R454): the pieces of state it keeps, transactions with the undo and redo image
of every change, and recovery. -/

namespace Sys2Proof.Machine

/-! ### Pieces (log 30) -/

/-- The key of a piece: its kind and number. -/
def pieceKey (kind i : Nat) : Nat := kind * 2 ^ 64 + i

/-- What of a value the Farrier's requests change. The rest is the hardware's, and no change of it is written to the journal. -/
def JVal.norm : JVal → JVal
  | .ctx k => .ctx { Context.reset with
      st := k.st, tag := k.tag, iface := k.iface, pos := k.pos, tvec := k.tvec, spread := k.spread, period := k.period, quota := k.quota,
      root := k.root, ring := k.ring, saveBase := k.saveBase }
  | .queue q => .queue { q with head := 0, tail := 0, drops := 0, recs := [], taken := [] }
  | .ring r => .ring { r with rtail := 0, rhead := 0, recs := [], waiting := [] }
  | .qp q => .qp { q with tries := 0, work := [], recvs := [], answer := 0, out := [], rsp := [], cnps := 0, slowed := 0 }
  | v => v

/-- Frames of page tables with the cells that stand in them. -/
def State.tablePages (s : State) : Tab JVal :=
  s.frames.foldl (fun t f =>
    if f.use = 1 then
      match s.mem.filter fun e => decide (f.pa ≤ e.1) && decide (e.1 < f.pa + f.size) with
      | [] => t
      | l => t.set (pieceKey 3 f.pa) (.table l)
    else t) []

/-- Entries of a table as pieces of a kind. -/
def asPieces {α : Type} (kind : Nat) (f : α → JVal) (t : Tab α) : Tab JVal := t.map fun e => (pieceKey kind e.1, f e.2)

/-- Every piece that is there, with its value. Owner slot and select byte count as absent while they are as an erased flash holds them. -/
def State.pieces (s : State) : Tab JVal :=
  asPieces 0 .ctx s.ctxs
  ++ s.ctxs.flatMap (fun e => e.2.queues.map fun q => (pieceKey 1 (e.1 * 4 + q.1), JVal.queue q.2))
  ++ s.frames.foldl (fun (t : Tab JVal) f => t.set (pieceKey 2 f.pa) (.frame f)) []
  ++ s.tablePages
  ++ asPieces 4 .region s.regions ++ asPieces 5 .range s.ranges ++ asPieces 6 .domain s.pds ++ asPieces 7 .memRegion s.regionsMr
  ++ asPieces 8 .qp s.qps ++ asPieces 9 .budget s.far.budgets ++ asPieces 10 .ring s.rings
  ++ (if s.far.ownerKey.isNone && decide (s.far.counter = 0) then [] else [(pieceKey 11 0, .owner s.far.ownerKey s.far.counter)])
  ++ (if s.far.select = 0 then [] else [(pieceKey 12 0, .select s.far.select)])

/-- The pieces that differ between two lists: key, old value, new value. -/
def pieceChanges (old new : Tab JVal) : List (Nat × JVal × JVal) :=
  (old.filterMap fun e =>
    let v := new.getD e.1 .absent
    if v.norm = e.2.norm then none else some (e.1, e.2, v))
  ++ new.filterMap fun e => if (old.get? e.1).isNone then some (e.1, .absent, e.2) else none

/-- A value in a table, or none where it is absent. -/
def JVal.into {α : Type} (v : JVal) (get : JVal → Option α) (t : Tab α) (i : Nat) : Tab α :=
  match get v with
  | some a => t.set i a
  | none => t.erase i

/-- `s` with a piece given a value. -/
def State.setPiece (s : State) (key : Nat) (v : JVal) : State :=
  let i := key % 2 ^ 64
  match key / 2 ^ 64 with
  | 0 => { s with ctxs := v.into (fun | .ctx k => some k | _ => none) s.ctxs i }
  | 1 => s.modCtx (i / 4) fun k => { k with queues := v.into (fun | .queue q => some q | _ => none) k.queues (i % 4) }
  | 2 => { s with frames := (s.frames.filter fun f => f.pa ≠ i) ++ match v with | .frame f => [f] | _ => [] }
  | 3 => let s := s.store i (zeros 4096)
    match v with | .table l => l.foldl (fun s e => s.store e.1 [e.2]) s | _ => s
  | 4 => { s with regions := v.into (fun | .region r => some r | _ => none) s.regions i }
  | 5 => { s with ranges := v.into (fun | .range r => some r | _ => none) s.ranges i }
  | 6 => { s with pds := v.into (fun | .domain c => some c | _ => none) s.pds i }
  | 7 => { s with regionsMr := v.into (fun | .memRegion r => some r | _ => none) s.regionsMr i }
  | 8 => { s with qps := v.into (fun | .qp q => some q | _ => none) s.qps i }
  | 9 => { s with far := { s.far with budgets := v.into (fun | .budget n => some n | _ => none) s.far.budgets i } }
  | 10 => { s with rings := v.into (fun | .ring r => some r | _ => none) s.rings i }
  | 11 => match v with
    | .owner k n => { s with far := { s.far with ownerKey := k, counter := n } }
    | _ => { s with far := { s.far with ownerKey := none, counter := 0 } }
  | 12 => { s with far := { s.far with select := match v with | .select n => n | _ => 0 } }
  | _ => s

/-! ### Transactions (R453) -/

/-- Bytes that a record takes, fewer than 16 KiB (log 30). -/
def recordBytes (lsn : Nat) : Nat := Config.journalBytes lsn % 0x4000

/-- Bytes of the ring. -/
def journalSize : Nat := 0x100000

/-- Records of the transaction that is open next, from the next number on. -/
def Farrier.numbered (f : Farrier) (iface reqId : Nat) (l : List (JKind × Option (Nat × JVal × JVal))) : List JRec :=
  l.zipIdx.map fun e => { lsn := f.nextLsn + e.2, tx := f.nextTx, kind := e.1.1, iface := iface, reqId := reqId, image := e.1.2,
                          size := recordBytes (f.nextLsn + e.2) }

/-- BEGIN, and one UPDATE for each change. -/
def openRecords (l : List (Nat × JVal × JVal)) : List (JKind × Option (Nat × JVal × JVal)) :=
  (.begin_, none) :: l.map fun u => (.update, some u)

/-- The records of one transaction. -/
def Farrier.txRecords (f : Farrier) (iface reqId : Nat) (l : List (Nat × JVal × JVal)) : List JRec :=
  f.numbered iface reqId (openRecords l ++ [(.commit, none)])

/-- Room in the ring for some records. -/
def journalFits (j l : List JRec) : Bool := decide (((j ++ l).map (·.size)).sum ≤ journalSize)

/-- A CHECKPOINT written, and every record before it reclaimed. -/
def Farrier.checkpoint (f : Farrier) : Farrier :=
  { f with
    nextLsn := f.nextLsn + 1,
    journal := [{ lsn := f.nextLsn, tx := 0, kind := .checkpoint, iface := 0, reqId := 0, image := none, size := recordBytes f.nextLsn }] }

/-- The ring with room for a transaction: as it stands, or after a CHECKPOINT; none where room is still lacking. -/
def Farrier.roomFor (f : Farrier) (iface reqId : Nat) (l : List (Nat × JVal × JVal)) : Option Farrier :=
  if journalFits f.journal (f.txRecords iface reqId l) then some f
  else if journalFits f.checkpoint.journal (f.checkpoint.txRecords iface reqId l) then some f.checkpoint
  else none

/-- Changes that UPDATE records have told. -/
def logChanges (t : Tab JVal) (l : List (Nat × JVal × JVal)) : Tab JVal :=
  l.foldl (fun t u => if u.2.2 = .absent then t.erase u.1 else t.set u.1 u.2.2.norm) t

/-- The ring with a whole transaction written. -/
def Farrier.wrote (f : Farrier) (iface reqId : Nat) (l : List (Nat × JVal × JVal)) : Farrier :=
  let r := f.txRecords iface reqId l
  { f with journal := f.journal ++ r, nextLsn := f.nextLsn + r.length, nextTx := f.nextTx + 1, logged := logChanges f.logged l }

/-- The transaction of some changes; none where the ring lacks room for it. -/
def Farrier.journalTx (f : Farrier) (iface reqId : Nat) (l : List (Nat × JVal × JVal)) : Option Farrier :=
  (f.roomFor iface reqId l).map fun f => f.wrote iface reqId l

/-- Changes of journaled pieces that no request makes are a transaction of their own (R143, R452; log 30). The journal is reached by the
control core only. -/
def Farrier.journalRest (f : Farrier) (now : Tab JVal) : Farrier :=
  match f.st with
  | .run | .unowned | .recovering =>
    match pieceChanges f.logged now with
    | [] => f
    | l => (f.journalTx 0 0 l).getD f
  | _ => f

/-! ### Recovery (R454) -/

/-- The records since the last CHECKPOINT. -/
def Farrier.sinceCheckpoint (f : Farrier) : List JRec := (f.journal.reverse.takeWhile fun r => r.kind ≠ .checkpoint).reverse

/-- A transaction has its COMMIT. -/
def committed (l : List JRec) (tx : Nat) : Bool := l.any fun r => decide (r.kind = .commit) && decide (r.tx = tx)

/-- The value that recovery gives each piece the journal names: the redo images of the committed transactions in rising order, then the
undo images of the others in falling order. -/
def recoveredValues (l : List JRec) : Tab JVal :=
  let up := l.filterMap fun r => r.image.map fun u => (r, u)
  let redone := up.foldl (fun (t : Tab JVal) e => if committed l e.1.tx then t.set e.2.1 e.2.2.2 else t) []
  up.reverse.foldl (fun (t : Tab JVal) e => if committed l e.1.tx then t else t.set e.2.1 e.2.2.1) redone

/-- The pieces given those values. A value that stands already is not written again. -/
def State.restorePieces (s : State) (t : Tab JVal) : State :=
  let now := s.pieces
  t.foldl (fun s e => if (now.getD e.1 .absent).norm = e.2.norm then s else s.setPiece e.1 e.2) s

/-- Recovery: the pieces as the journal gives them, and COMMIT for the transaction that was rolled back. -/
def State.recover (s : State) : State :=
  let l := s.far.sinceCheckpoint
  let s := s.restorePieces (recoveredValues l)
  match l.find? fun r => !committed l r.tx with
  | none => s
  | some r =>
    let f := s.far
    { s with far := { f with
        journal := f.journal ++ [{ r with lsn := f.nextLsn, kind := .commit, image := none, size := recordBytes f.nextLsn }],
        nextLsn := f.nextLsn + 1 } }

/-- A transaction of some changes is cut short after the first `n` of them: BEGIN and their UPDATEs are in the journal, and they are
made (R453, R454). -/
def State.cutShort (s : State) (iface reqId : Nat) (l : List (Nat × JVal × JVal)) (n : Nat) : State :=
  match s.far.roomFor iface reqId l with
  | none => s
  | some f =>
    let r := f.numbered iface reqId (openRecords (l.take n))
    (l.take n).foldl (fun s u => s.setPiece u.1 u.2.2)
      { s with far := { f with journal := f.journal ++ r, nextLsn := f.nextLsn + r.length, nextTx := f.nextTx + 1 } }

end Sys2Proof.Machine
end

