-- ==== Sys2Proof/Machine/Boot.lean ====
section
/-! DEFINITION. Boot and its events (20_image R460 to R463): the checks of an image, the measurement registers, MODULE_RESET
and IMGCTL_GO; and HEARTBEAT (R451). An event that is not enabled leaves the state unchanged (log 2). -/

namespace Sys2Proof.Machine

/-! ### Images (R460) -/

/-- Bytes of the image header. -/
def headerLen : Nat := 8192
/-- Bytes of an ML-DSA-65 signature. -/
def sigLen : Nat := 3309

/-- `n` bytes from offset `o` of a buffer; beyond its end they are zero. -/
def slice (l : List Byte) (o n : Nat) : List Byte :=
  let d := (l.drop o).take n
  d ++ zeros (n - d.length)

/-- The body of an image. -/
def imageBody (img : List Byte) : List Byte := slice img headerLen (getLe img 8 8)

/-- SVN of an image. -/
def imageSvn (img : List Byte) : Nat := getLe img 4 4

/-- SHAKE256, 64 bytes of output (R460, R461). -/
def hash64 (l : List Byte) : List Byte := slice (Config.shake256 l) 0 64

/-- The owner's signature: by the key of the slot, or zero while the slot is empty. -/
def ownerSigned (key : Option (List Byte)) (img : List Byte) : Bool :=
  match key with
  | some k => Config.mldsaVerify k (hash64 (slice img 0 80)) (slice img 3389 sigLen)
  | none => (slice img 3389 sigLen).all fun b => b = 0

/-- The ERR code of R462 for an image: 0 accepted. -/
def checkImage (key : Option (List Byte)) (minSvn : Nat) (img : List Byte) : Nat :=
  let len := getLe img 8 8
  if getLe img 0 4 ≠ 0x4B575A39 then 1
  else if len % 4096 ≠ 0 ∨ 8380416 < len then 2
  else if slice img 16 64 ≠ hash64 (imageBody img) then 3
  else if !Config.mldsaVerify Config.makerKey (hash64 (slice img 0 80)) (slice img 80 sigLen) then 4
  else if !ownerSigned key img then 5
  else if imageSvn img < minSvn then 6
  else 0

/-! ### Measurements (R461) -/

/-- Measurement register `i` extended by a 64-byte value. -/
def Farrier.extend (f : Farrier) (i : Nat) (d : List Byte) : Farrier :=
  { f with meas := f.meas.set i (hash64 (slice (f.meas.getD i []) 0 64 ++ slice d 0 64)) }

/-- An accepted image runs: the boot ROM extends M0 to M3, and the slot's key decides RUN or UNOWNED. -/
def Farrier.run (f : Farrier) (img : List Byte) (fromWindow : Bool) (now : Nat) : Farrier :=
  let owner := match f.bootKey with | some k => hash64 k | none => zeros 64
  let f := (((f.extend 0 Config.romDigest).extend 1 (slice img 16 64)).extend 2 owner).extend 3 (bytesOf 64 (imageSvn img))
  { f with st := if f.bootKey.isSome then .run else .unowned, src := fromWindow, err := 0, svn := imageSvn img, lastBeat := now }

/-- The image of a flash slot. -/
def Farrier.flash (f : Farrier) (slot : Nat) : List Byte := if slot = 0 then f.flash0 else f.flash1

/-- The ERR code of R462 for a flash slot at one boot. -/
def Farrier.checkSlot (f : Farrier) (slot tick : Nat) : Nat :=
  if Config.flashBad (tick * 2 + slot) then 7 else checkImage f.bootKey f.minSvn (f.flash slot)

/-- The boot ROM after module reset: the selected slot, then the other (R463). -/
def Farrier.bootFlash (f : Farrier) (now tick : Nat) : Farrier :=
  let a := f.select
  let b := 1 - f.select
  if f.checkSlot a tick = 0 then f.run (f.flash a) false now
  else if f.checkSlot b tick = 0 then f.run (f.flash b) false now
  else { f with st := .bootfail, err := f.checkSlot a tick }

/-- MODULE_RESET: what survives is the flash with its select byte, the owner key slot, the transfer counter and the fused
minimum SVN (R463, R464); reference time runs on (log 6). -/
def execModuleReset (s : State) : Host.Outcome State Fault Refusal :=
  let f := s.far
  let f' : Farrier :=
    { Farrier.reset with
      flash0 := f.flash0, flash1 := f.flash1, select := f.select, ownerKey := f.ownerKey, bootKey := f.ownerKey,
      counter := f.counter, minSvn := f.minSvn }
  let u : State := { State.reset with now := s.now, agenda := s.agenda, hostw := s.hostw, tick := s.tick + 1, far := f'.bootFlash s.now s.tick }
  .next { u with far := { u.far with logged := u.pieces.mapVals fun _ v => v.norm } }

/-! ### The image window (R462) -/

/-- A check of the window's image begins: LCK is 1 until its end, which the manual gives no time (log 28). -/
def State.beginCheck (s : State) (c : ImgCheck) : State :=
  { s with far := { s.far with lck := true, check := some (c, s.now + Config.checkNs s.tick) }, tick := s.tick + 1 }

/-- IMGCTL_GO, with the bytes the host has written to the window before it. GO is acted on while ST is BOOTFAIL or UNOWNED,
when the boot ROM waits and checks no image already (R462; log 28). -/
def execImgctlGo (window : List Byte) (s : State) : Host.Outcome State Fault Refusal :=
  let f : Farrier := if s.far.lck then s.far else { s.far with window := window.take 0x800000 }
  let s : State := { s with far := f }
  .next (if (f.st = .bootfail ∨ f.st = .unowned) ∧ f.check = none then s.beginCheck .go else s)

/-- The end of a check that GO began: the image runs, or ERR names the failed check. -/
def Farrier.goEnd (f : Farrier) (now : Nat) : Farrier :=
  let e := checkImage f.ownerKey f.minSvn f.window
  if e = 0 then ({ f with bootKey := f.ownerKey } : Farrier).run f.window true now else { f with err := e }

/-- The end of a check that IMG_WRITE began, against the keys in force (R463; log 73): an accepted image is in its slot. -/
def Farrier.writeEnd (f : Farrier) (slot : Nat) : Farrier :=
  let e := checkImage f.bootKey f.minSvn f.window
  let img := slice f.window 0 (headerLen + getLe f.window 8 8)
  if e ≠ 0 then { f with err := e }
  else if slot = 0 then { f with err := 0, flash0 := img }
  else { f with err := 0, flash1 := img }

/-- A check that has come to its end (R462, R463). -/
def State.settleCheck (s : State) : State :=
  match s.far.check with
  | none => s
  | some (c, end_) =>
    if s.now < end_ then s
    else
      let f : Farrier := { s.far with lck := false, check := none }
      match c with
      | .go => { s with far := f.goEnd s.now }
      | .write slot iface k =>
        let f := f.writeEnd slot
        ({ s with far := f } : State).replyAs iface k fun r =>
          if f.err = 0 then r else { r with status := .fault, r0 := word f.err }

/-- The control core runs, or recovers from a reset. -/
def FarSt.beats (st : FarSt) : Bool := decide (st = .run) || decide (st = .unowned) || decide (st = .recovering)

/-- HEARTBEAT: the first after a reset of the control core says that its recovery is done (R451, R454). -/
def execHeartbeat (s : State) : Host.Outcome State Fault Refusal :=
  let f := s.far
  .next (if f.st.beats && decide (f.lastBeat + 1000000 ≤ s.now) && decide (s.now < f.lastBeat + 10000000) then
    { s with far := { f with
        lastBeat := s.now,
        st := if f.st = .recovering then (if f.bootKey.isSome then .run else .unowned) else f.st } }
  else s)

end Sys2Proof.Machine
end

