-- ==== Sys2Proof/Decode.lean ====
section
/-! DEFINITION. Encoder and decoder of the 96-bit instructions (01_lines R37 to R49). The decoder reads
the fields (`parse`), and then accepts only a word that the encoder gives back bit for bit: a nonzero zero
field, or a field the entry does not use, is ILL (R48). -/

namespace Sys2Proof

/-- Why a word is no instruction; every case raises ILL (R48). -/
inductive Reject where
  /-- OP, FN, TY, SCP, AN, TSLOT or another code is not assigned. -/
  | unassigned
  /-- A field that must be zero, or that the entry does not use, is not zero (R49). -/
  | zeroField
  /-- The fields are assigned one by one but the entry forbids them together (R310, R318, R383). -/
  | illFormed
deriving DecidableEq, Repr

/-! ### Codes -/

/-- TY codes (R44). -/
def tyCode : Ty → BitVec 4
  | .f32 => 0 | .bf16 => 1 | .f16 => 2 | .i32 => 3 | .i16 => 4 | .u32 => 5 | .u16 => 6
  | .f8e4 => 8 | .f8e5 => 9 | .f4 => 10

/-- The type a TY code names (R44). -/
def tyOf (c : BitVec 4) : Option Ty :=
  match c.toNat with
  | 0 => some .f32 | 1 => some .bf16 | 2 => some .f16 | 3 => some .i32 | 4 => some .i16 | 5 => some .u32
  | 6 => some .u16 | 8 => some .f8e4 | 9 => some .f8e5 | 10 => some .f4 | _ => none

/-- RM codes (R43). -/
def rmCode : Rm → BitVec 2
  | .rne => 0 | .rtz => 1 | .rdn => 2 | .rup => 3

/-- The mode an RM code names. -/
def rmOf (c : BitVec 2) : Rm :=
  match c.toNat with
  | 0 => .rne | 1 => .rtz | 2 => .rdn | _ => .rup

/-- SCP codes (R46). -/
def scpCode : Scope → BitVec 3
  | .grp => 0 | .core => 1 | .clu => 2 | .dev => 3 | .pod => 4

/-- The scope an SCP code names. -/
def scpOf (c : BitVec 3) : Option Scope :=
  match c.toNat with
  | 0 => some .grp | 1 => some .core | 2 => some .clu | 3 => some .dev | 4 => some .pod | _ => none

/-- ORD codes (R46). -/
def ordCode : Ord → BitVec 2
  | .none => 0 | .acq => 1 | .rel => 2 | .ar => 3

/-- The order an ORD code names. -/
def ordOf (c : BitVec 2) : Ord :=
  match c.toNat with
  | 0 => .none | 1 => .acq | 2 => .rel | _ => .ar

/-- MOD of an atomic or FENCE (R46). -/
def orderCode (o : Order) : BitVec 5 := ordCode o.ord ++ scpCode o.scp

/-- ORD and SCP of a MOD field. -/
def orderOf (m : BitVec 5) : Option Order :=
  (scpOf (m.extractLsb' 0 3)).map fun s => { ord := ordOf (m.extractLsb' 3 2), scp := s }

/-- AN codes (R41). -/
def annulCode : Annul → BitVec 2
  | .none => 0 | .an => 1 | .at_ => 2

/-- The annulment an AN code names. -/
def annulOf (c : BitVec 2) : Option Annul :=
  match c.toNat with
  | 0 => some .none | 1 => some .an | 2 => some .at_ | _ => none

/-- Event field codes: 0 none, 4 to 7 e0 to e3 (R179). -/
def evCode : EvSel → BitVec 3
  | none => 0
  | some e => 1#1 ++ BitVec.ofFin (w := 2) e

/-- The event an event code names; 1 to 3 give ILL. -/
def evOf (c : BitVec 3) : Option EvSel :=
  if c = 0 then some none
  else if c.extractLsb' 2 1 = 1#1 then some (some (c.extractLsb' 0 2).toFin) else none

/-- FN of LD and LDN (R47). -/
def ldwCode : LdW → BitVec 8
  | .b1 => 0 | .b2 => 1 | .b4 => 2 | .b8 => 3 | .s1 => 4 | .s2 => 5 | .s4 => 6

/-- The width an FN of LD or LDN names. -/
def ldwOf (c : BitVec 8) : Option LdW :=
  match c.toNat with
  | 0 => some .b1 | 1 => some .b2 | 2 => some .b4 | 3 => some .b8 | 4 => some .s1 | 5 => some .s2
  | 6 => some .s4 | _ => none

/-- FN of ST (R47). -/
def stwCode : StW → BitVec 8
  | .b1 => 0 | .b2 => 1 | .b4 => 2 | .b8 => 3

/-- The width an FN of ST names. -/
def stwOf (c : BitVec 8) : Option StW :=
  match c.toNat with
  | 0 => some .b1 | 1 => some .b2 | 2 => some .b4 | 3 => some .b8 | _ => none

/-- FN of CMP (R47). -/
def cmpCode : CmpCond → BitVec 8
  | .eq => 0 | .ne => 1 | .lt => 2 | .ge => 3 | .ltu => 4 | .geu => 5

/-- The condition an FN of CMP names. -/
def cmpOf (c : BitVec 8) : Option CmpCond :=
  match c.toNat with
  | 0 => some .eq | 1 => some .ne | 2 => some .lt | 3 => some .ge | 4 => some .ltu | 5 => some .geu | _ => none

/-- FN of SEXT (R47). -/
def sextCode : SextW → BitVec 8
  | .b1 => 0 | .b2 => 1 | .b4 => 2

/-- The width an FN of SEXT names. -/
def sextOf (c : BitVec 8) : Option SextW :=
  match c.toNat with
  | 0 => some .b1 | 1 => some .b2 | 2 => some .b4 | _ => none

/-- FN of PANY (R47). -/
def anyCode : AnyKind → BitVec 8
  | .any => 0 | .all => 1 | .none => 2

/-- The form an FN of PANY names. -/
def anyOf (c : BitVec 8) : Option AnyKind :=
  match c.toNat with
  | 0 => some .any | 1 => some .all | 2 => some .none | _ => none

/-- FN of VCMP (R47). -/
def vcondCode : VCond → BitVec 8
  | .eq => 0 | .lt => 1 | .le => 2 | .un => 3

/-- The condition an FN of VCMP names. -/
def vcondOf (c : BitVec 8) : Option VCond :=
  match c.toNat with
  | 0 => some .eq | 1 => some .lt | 2 => some .le | 3 => some .un | _ => none

/-- FN of VRED (R47). -/
def vredCode : VRedOp → BitVec 8
  | .add => 0 | .min => 1 | .max => 2

/-- The operation an FN of VRED names. -/
def vredOf (c : BitVec 8) : Option VRedOp :=
  match c.toNat with
  | 0 => some .add | 1 => some .min | 2 => some .max | _ => none

/-- SZ/FMT of TLOAD and TSTORE (R337). -/
def tfmtCode : TFmt → BitVec 4
  | .f32 => 0 | .bf16 => 1 | .f16 => 2

/-- The format a SZ/FMT names. -/
def tfmtOf (c : BitVec 4) : Option TFmt :=
  match c.toNat with
  | 0 => some .f32 | 1 => some .bf16 | 2 => some .f16 | _ => none

/-- K codes (R337, R358). -/
def kCode : KCode → BitVec 4
  | .k32 => 0 | .k64 => 1 | .k128 => 2

/-- The depth a K code names. -/
def kOf (c : BitVec 4) : Option KCode :=
  match c.toNat with
  | 0 => some .k32 | 1 => some .k64 | 2 => some .k128 | _ => none

/-- SZ/FMT of CPYR (R382). -/
def cpyrCode : CpyrOp → BitVec 4
  | .addF32 => 0 | .addBf16 => 1 | .addI32 => 2 | .maxF32 => 3 | .minF32 => 4

/-- The operation a SZ/FMT of CPYR names. -/
def cpyrOf (c : BitVec 4) : Option CpyrOp :=
  match c.toNat with
  | 0 => some .addF32 | 1 => some .addBf16 | 2 => some .addI32 | 3 => some .maxF32 | 4 => some .minF32 | _ => none

/-- Reach codes of TLBI (R415). -/
def reachCode : Reach → BitVec 2
  | .core => 0 | .clu => 1 | .dev => 2

/-- The reach a code names. -/
def reachOf (c : BitVec 2) : Option Reach :=
  match c.toNat with
  | 0 => some .core | 1 => some .clu | 2 => some .dev | _ => none

/-- Access codes of PROBE (R415). -/
def permCode : Perm → BitVec 5
  | .read => 0 | .write => 1 | .atomic => 2 | .fetch => 3

/-- The access a code names. -/
def permOf (c : BitVec 5) : Option Perm :=
  match c.toNat with
  | 0 => some .read | 1 => some .write | 2 => some .atomic | 3 => some .fetch | _ => none

/-- EV and WT fields (R337). -/
def doneEv : Done → BitVec 2
  | .async e => BitVec.ofFin (w := 2) e
  | .wait => 0

/-- WT field. -/
def doneWt : Done → BitVec 1
  | .async _ => 0
  | .wait => 1

/-- The completion form of EV and WT; WT = 1 with EV nonzero is refused by the re-encoding. -/
def doneOf (ev : BitVec 2) (wt : BitVec 1) : Done := if wt = 1#1 then .wait else .async ev.toFin

/-! ### Packing the five formats -/

/-- Format S (R39). -/
def packS (g : Guard) (op fn : BitVec 8) (xd xa xb : BitVec 4) (pd pe : BitVec 3) (is : BitVec 1)
    (mod : BitVec 5) (imm : BitVec 48) : Slot96 :=
  op ++ BitVec.ofBool g.neg ++ BitVec.ofFin (w := 3) g.p ++ fn ++ xd ++ xa ++ xb ++ pd ++ pe ++ is ++ mod ++ 0#4 ++ imm

/-- Format L (R40). -/
def packL (g : Guard) (op fn : BitVec 8) (xd : BitVec 4) (imm : BitVec 64) : Slot96 :=
  op ++ BitVec.ofBool g.neg ++ BitVec.ofFin (w := 3) g.p ++ fn ++ xd ++ 0#8 ++ imm

/-- Format B (R41). -/
def packB (g : Guard) (op : BitVec 8) (fn : BitVec 4) (an : BitVec 2) (xa : BitVec 4) (loff : BitVec 42)
    (ts : BitVec 3) : Slot96 :=
  op ++ BitVec.ofBool g.neg ++ BitVec.ofFin (w := 3) g.p ++ fn ++ an ++ xa ++ 0#10 ++ loff ++ ts ++ 0#19

/-- Format V (R43). -/
def packV (g : Guard) (op fn : BitVec 8) (vd va vb vc : BitVec 6) (ty : BitVec 4) (pd pe : BitVec 3)
    (rm : BitVec 2) (xa xb : BitVec 4) (imm : BitVec 32) : Slot96 :=
  op ++ BitVec.ofBool g.neg ++ BitVec.ofFin (w := 3) g.p ++ fn ++ vd ++ va ++ vb ++ vc ++ ty ++ pd ++ pe ++ rm
    ++ xa ++ xb ++ imm

/-- Format M (R45). -/
def packM (g : Guard) (op fn : BitVec 8) (xa xb xc : BitVec 4) (ev tl : BitVec 2) (bk wt : BitVec 1)
    (vi : BitVec 6) (sz : BitVec 4) (low : BitVec 48) : Slot96 :=
  op ++ BitVec.ofBool g.neg ++ BitVec.ofFin (w := 3) g.p ++ fn ++ xa ++ xb ++ xc ++ ev ++ tl ++ bk ++ wt ++ vi ++ sz ++ low

/-- XB of a second source. -/
def srcXb : Src → BitVec 4
  | .reg x => BitVec.ofFin (w := 4) x
  | .imm _ => 0

/-- IS of a second source. -/
def srcIs : Src → BitVec 1
  | .reg _ => 0
  | .imm _ => 1

/-- IMM48 of a second source. -/
def srcImm : Src → BitVec 48
  | .reg _ => 0
  | .imm v => v

/-- x register field. -/
abbrev xf (x : XReg) : BitVec 4 := BitVec.ofFin (w := 4) x
/-- Predicate register field. -/
abbrev pf (p : PReg) : BitVec 3 := BitVec.ofFin (w := 3) p
/-- Predicate source in an XA or XB field: bit 3 is 0 (R262). -/
abbrev pxf (p : PReg) : BitVec 4 := 0#1 ++ BitVec.ofFin (w := 3) p
/-- Vector register field. -/
abbrev vf (v : VIdx) : BitVec 6 := BitVec.ofFin (w := 6) v

/-- Format S with a second source. -/
def encSrc (g : Guard) (op fn : BitVec 8) (xd xa : BitVec 4) (b : Src) (pd pe : BitVec 3) (mod : BitVec 5) : Slot96 :=
  packS g op fn xd xa (srcXb b) pd pe (srcIs b) mod (srcImm b)

/-- PE and XD of an atomic's form (R278). -/
def encAtom (g : Guard) (op fn : BitVec 8) (o : Order) (d : ADest) (xa xb : XReg) (off : BitVec 48) : Slot96 :=
  match d with
  | .res xd => packS g op fn (xf xd) (xf xa) (xf xb) 0 0 0 (orderCode o) off
  | .drop => packS g op fn 0 (xf xa) (xf xb) 0 1 0 (orderCode o) off

/-- Copy-port command (R375). -/
def encCopy (g : Guard) (op : BitVec 8) (o : CopyOpts) (xa xb xc : XReg) (sz : BitVec 4) (msk : BitVec 8) : Slot96 :=
  packM g op 0 (xf xa) (xf xb) (xf xc) (doneEv o.done) 0 0 (doneWt o.done) 0 sz
    (BitVec.ofBool o.bar.isSome ++ o.bar.getD 0 ++ BitVec.ofBool o.full ++ msk ++ 0#21)

/-- CB and NBM in [47:40] (R337). -/
def encRange (cb nbm : BitVec 4) (lay row : BitVec 1) : BitVec 48 := cb ++ nbm ++ lay ++ row ++ 0#38

/-- Register form or immediate form of a vector shift (R313). -/
def encShift (g : Guard) (op : BitVec 8) (ty : Ty) (vd va : VIdx) : VShift → Slot96
  | .reg vb => packV g op 0 (vf vd) (vf va) (vf vb) 0 (tyCode ty) 0 0 0 0 0 0
  | .imm n => packV g op 0 (vf vd) (vf va) 0 0 (tyCode ty) 0 0 0 0 0 (1#1 ++ 0#26 ++ BitVec.ofFin (w := 5) n)

/-- Mode and k of VSHUF in IMM32 (R317). -/
def shufImm : Shuf → BitVec 32
  | .zipl => 0 | .ziph => 1 | .even => 2 | .odd => 3
  | .rot k => 0#17 ++ BitVec.ofFin (w := 7) k ++ 0#4 ++ 4#4

/-- The 96-bit encoding of an instruction; none for an event (R37 to R49 and the entries). -/
def encode : Instr → Option Slot96
  | .add g xd xa b => some (encSrc g 0x01 0 (xf xd) (xf xa) b 0 0 0)
  | .sub g xd xa b => some (encSrc g 0x02 0 (xf xd) (xf xa) b 0 0 0)
  | .mul g xd xa b => some (encSrc g 0x03 0 (xf xd) (xf xa) b 0 0 0)
  | .mulh g u xd xa b => some (encSrc g 0x04 (0#7 ++ BitVec.ofBool u) (xf xd) (xf xa) b 0 0 0)
  | .div g u xd xa b => some (encSrc g 0x05 (0#7 ++ BitVec.ofBool u) (xf xd) (xf xa) b 0 0 0)
  | .rem g u xd xa b => some (encSrc g 0x06 (0#7 ++ BitVec.ofBool u) (xf xd) (xf xa) b 0 0 0)
  | .and g xd xa b => some (encSrc g 0x07 0 (xf xd) (xf xa) b 0 0 0)
  | .or g xd xa b => some (encSrc g 0x08 0 (xf xd) (xf xa) b 0 0 0)
  | .xor g xd xa b => some (encSrc g 0x09 0 (xf xd) (xf xa) b 0 0 0)
  | .andn g xd xa b => some (encSrc g 0x0A 0 (xf xd) (xf xa) b 0 0 0)
  | .orn g xd xa b => some (encSrc g 0x0B 0 (xf xd) (xf xa) b 0 0 0)
  | .shl g xd xa b => some (encSrc g 0x0C 0 (xf xd) (xf xa) b 0 0 0)
  | .shr g xd xa b => some (encSrc g 0x0D 0 (xf xd) (xf xa) b 0 0 0)
  | .sar g xd xa b => some (encSrc g 0x0E 0 (xf xd) (xf xa) b 0 0 0)
  | .rol g xd xa b => some (encSrc g 0x0F 0 (xf xd) (xf xa) b 0 0 0)
  | .min g u xd xa b => some (encSrc g 0x10 (0#7 ++ BitVec.ofBool u) (xf xd) (xf xa) b 0 0 0)
  | .max g u xd xa b => some (encSrc g 0x11 (0#7 ++ BitVec.ofBool u) (xf xd) (xf xa) b 0 0 0)
  | .clz g xd xa => some (packS g 0x12 0 (xf xd) (xf xa) 0 0 0 0 0 0)
  | .ctz g xd xa => some (packS g 0x13 0 (xf xd) (xf xa) 0 0 0 0 0 0)
  | .popc g xd xa => some (packS g 0x14 0 (xf xd) (xf xa) 0 0 0 0 0 0)
  | .bext g xd xa b => some (encSrc g 0x15 0 (xf xd) (xf xa) b 0 0 0)
  | .bins g xd xa b => some (encSrc g 0x16 0 (xf xd) (xf xa) b 0 0 0)
  | .sext g w xd xa => some (packS g 0x17 (sextCode w) (xf xd) (xf xa) 0 0 0 0 0 0)
  | .mov g xd b => some (encSrc g 0x18 0 (xf xd) 0 b 0 0 0)
  | .li g xd v => some (packL g 0x19 0 (xf xd) v)
  | .sel g xd pn neg xa b =>
    some (encSrc g 0x1A 0 (xf xd) (xf xa) b 0 0 (0#1 ++ BitVec.ofBool neg ++ pf pn))
  | .cmp g c pd pe xa b => some (encSrc g 0x1B (cmpCode c) 0 (xf xa) b (pf pd) (pf pe) 0)
  | .tstb g pd pe xa b => some (encSrc g 0x1C 0 0 (xf xa) b (pf pd) (pf pe) 0)
  | .pand g pd pa pb => some (packS g 0x20 0 0 (pxf pa) (pxf pb) (pf pd) 0 0 0 0)
  | .por g pd pa pb => some (packS g 0x21 0 0 (pxf pa) (pxf pb) (pf pd) 0 0 0 0)
  | .pxor g pd pa pb => some (packS g 0x22 0 0 (pxf pa) (pxf pb) (pf pd) 0 0 0 0)
  | .pandn g pd pa pb => some (packS g 0x23 0 0 (pxf pa) (pxf pb) (pf pd) 0 0 0 0)
  | .pnot g pd pa => some (packS g 0x24 0 0 (pxf pa) 0 (pf pd) 0 0 0 0)
  | .pmovPtox g xd pa => some (packS g 0x25 0 (xf xd) (pxf pa) 0 0 0 0 0 0)
  | .pmovXtop g pd xa => some (packS g 0x25 1 0 (xf xa) 0 (pf pd) 0 0 0 0)
  | .pany g k pd pe pa b => some (encSrc g 0x26 (anyCode k) 0 (pxf pa) b (pf pd) (pf pe) 0)
  | .pcnt g xd pa b => some (encSrc g 0x27 0 (xf xd) (pxf pa) b 0 0 0)
  | .ld g w xd xa off => some (packS g 0x30 (ldwCode w) (xf xd) (xf xa) 0 0 0 0 0 off)
  | .st g w xa xb off => some (packS g 0x31 (stwCode w) 0 (xf xa) (xf xb) 0 0 0 0 off)
  | .ldn g w xd xa off => some (packS g 0x32 (ldwCode w) (xf xd) (xf xa) 0 0 0 0 0 off)
  | .lde g xd xa off => some (packS g 0x33 0 (xf xd) (xf xa) 0 0 0 0 0 off)
  | .ldeC g xd xa off => some (packS g 0x33 1 (xf xd) (xf xa) 0 0 0 0 0 off)
  | .stf g xa xb off => some (packS g 0x34 0 0 (xf xa) (xf xb) 0 0 0 0 off)
  | .empt g xa off => some (packS g 0x35 0 0 (xf xa) 0 0 0 0 0 off)
  | .feq g pd pe xa off => some (packS g 0x36 0 0 (xf xa) 0 (pf pd) (pf pe) 0 0 off)
  | .aadd g w8 o d xa xb off => some (encAtom g 0x40 (0#7 ++ BitVec.ofBool w8) o d xa xb off)
  | .aand g w8 o d xa xb off => some (encAtom g 0x41 (0#7 ++ BitVec.ofBool w8) o d xa xb off)
  | .aor g w8 o d xa xb off => some (encAtom g 0x42 (0#7 ++ BitVec.ofBool w8) o d xa xb off)
  | .axor g w8 o d xa xb off => some (encAtom g 0x43 (0#7 ++ BitVec.ofBool w8) o d xa xb off)
  | .amin g w8 u o d xa xb off => some (encAtom g 0x44 (0#6 ++ BitVec.ofBool u ++ BitVec.ofBool w8) o d xa xb off)
  | .amax g w8 u o d xa xb off => some (encAtom g 0x45 (0#6 ++ BitVec.ofBool u ++ BitVec.ofBool w8) o d xa xb off)
  | .aswap g w8 o d xa xb off => some (encAtom g 0x46 (0#7 ++ BitVec.ofBool w8) o d xa xb off)
  | .acas g w8 o xd pd pe xa xb off =>
    some (packS g 0x47 (0#7 ++ BitVec.ofBool w8) (xf xd) (xf xa) (xf xb) (pf pd) (pf pe) 0 (orderCode o) off)
  | .afadd g o d xa xb off => some (encAtom g 0x48 0 o d xa xb off)
  | .br g t an loff ts =>
    some (match t with
      | .always => packB g 0x50 0 (annulCode an) 0 loff (BitVec.ofNat 3 ts.val)
      | .z x => packB g 0x50 1 (annulCode an) (xf x) loff (BitVec.ofNat 3 ts.val)
      | .nz x => packB g 0x50 2 (annulCode an) (xf x) loff (BitVec.ofNat 3 ts.val)
      | .neg x => packB g 0x50 3 (annulCode an) (xf x) loff (BitVec.ofNat 3 ts.val)
      | .nneg x => packB g 0x50 4 (annulCode an) (xf x) loff (BitVec.ofNat 3 ts.val))
  | .brx g an xa => some (packB g 0x51 0 (annulCode an) (xf xa) 0 0)
  | .call g an loff ts => some (packB g 0x52 0 (annulCode an) 0 loff (BitVec.ofNat 3 ts.val))
  | .callx g an xa => some (packB g 0x53 0 (annulCode an) (xf xa) 0 0)
  | .trap g b => some (encSrc g 0x54 0 0 0 b 0 0 0)
  | .eret g => some (packS g 0x55 0 0 0 0 0 0 0 0 0)
  | .nop g => some (packS g 0x58 0 0 0 0 0 0 0 0 0)
  | .srd g xd n => some (packS g 0x59 0 (xf xd) 0 0 0 0 0 0 (0#36 ++ n))
  | .swr g n xa => some (packS g 0x5A 0 0 (xf xa) 0 0 0 0 0 (0#36 ++ n))
  | .ts g xd => some (packS g 0x5B 0 (xf xd) 0 0 0 0 0 0 0)
  | .cyc g xd => some (packS g 0x5C 0 (xf xd) 0 0 0 0 0 0 0)
  | .tpost g xd pd pe xa b => some (encSrc g 0x5D 0 (xf xd) (xf xa) b (pf pd) (pf pe) 0)
  | .fence g o => some (packS g 0x5E 0 0 0 0 0 0 0 (orderCode o) 0)
  | .wswin g xd b => some (encSrc g 0x5F 0 (xf xd) 0 b 0 0 0)
  | .spawn g xd pd pe xa b => some (encSrc g 0x60 0 (xf xd) (xf xa) b (pf pd) (pf pe) 0)
  | .spawnLoose g xd pd pe xa b => some (encSrc g 0x60 1 (xf xd) (xf xa) b (pf pd) (pf pe) 0)
  | .spnr g xa xb ev => some (packS g 0x61 0 0 (xf xa) (xf xb) 0 0 0 0 (0#45 ++ evCode ev))
  | .join g xd pd pe xa => some (packS g 0x62 0 (xf xd) (xf xa) 0 (pf pd) (pf pe) 0 0 0)
  | .exit g => some (packS g 0x63 0 0 0 0 0 0 0 0 0)
  | .yield g b => some (encSrc g 0x64 0 0 0 b 0 0 0)
  | .prio g xd pd pe xa b => some (encSrc g 0x65 0 (xf xd) (xf xa) b (pf pd) (pf pe) 0)
  | .slot g xd pd pe b => some (encSrc g 0x66 0 (xf xd) 0 b (pf pd) (pf pe) 0)
  | .migr g xd pd pe xa => some (packS g 0x67 0 (xf xd) (xf xa) 0 (pf pd) (pf pe) 0 0 0)
  | .semw g k b => some (encSrc g 0x68 0 0 0 b 0 0 (0#3 ++ BitVec.ofFin (w := 2) k))
  | .sema g xd pd pe k xa b => some (encSrc g 0x69 0 (xf xd) (xf xa) b (pf pd) (pf pe) (0#3 ++ BitVec.ofFin (w := 2) k))
  | .chanInstall g xd pd pe xa b => some (encSrc g 0x6A 0 (xf xd) (xf xa) b (pf pd) (pf pe) 0)
  | .chanBlock g xd pd pe b => some (encSrc g 0x6A 0 (xf xd) 0 b (pf pd) (pf pe) 1)
  | .chanUnblock g xd pd pe b => some (encSrc g 0x6A 0 (xf xd) 0 b (pf pd) (pf pe) 2)
  | .chanRemove g xd pd pe b => some (encSrc g 0x6A 0 (xf xd) 0 b (pf pd) (pf pe) 3)
  | .chanQuery g xd pd pe b => some (encSrc g 0x6A 0 (xf xd) 0 b (pf pd) (pf pe) 4)
  | .gname g xd => some (packS g 0x70 0 (xf xd) 0 0 0 0 0 0 0)
  | .gnameRank g xd pd pe b => some (encSrc g 0x70 0 (xf xd) 0 b (pf pd) (pf pe) 1)
  | .varm g vd c => some (packV g 0x71 0 (vf vd) 0 0 0 0 0 0 0 0 0 (0#24 ++ c))
  | .vput g va xa idx ev =>
    some (packV g 0x72 0 0 (vf va) 0 0 0 0 0 0 (xf xa) 0 (0#21 ++ evCode ev ++ 0#2 ++ BitVec.ofFin (w := 6) idx))
  | .send g size prio ev xa xb =>
    some (packS g 0x74 0 0 (xf xa) (xf xb) 0 0 0
      (0#1 ++ BitVec.ofFin (w := 2) prio ++ BitVec.ofFin (w := 2) size) (0#45 ++ evCode ev))
  | .recv g xd pd pe xa b => some (encSrc g 0x75 0 (xf xd) (xf xa) b (pf pd) (pf pe) 0)
  | .recvTry g xd pd pe xa b => some (encSrc g 0x75 1 (xf xd) (xf xa) b (pf pd) (pf pe) 0)
  | .enq g xd pd pe xa => some (packS g 0x76 0 (xf xd) (xf xa) 0 (pf pd) (pf pe) 0 0 0)
  | .mboxOpen g xd pd pe xa b => some (encSrc g 0x77 0 (xf xd) (xf xa) b (pf pd) (pf pe) 0)
  | .mboxClose g xd pd pe b => some (encSrc g 0x77 1 (xf xd) 0 b (pf pd) (pf pe) 0)
  | .mboxQuery g xd pd pe b => some (encSrc g 0x77 2 (xf xd) 0 b (pf pd) (pf pe) 0)
  | .wid g xd sel => some (packS g 0x78 0 (xf xd) 0 0 0 0 1 0 (BitVec.ofNat 48 sel.val))
  | .trig g => some (packS g 0x79 0 0 0 0 0 0 0 0 0)
  | .kwait g pd pe => some (packS g 0x7A 0 0 0 0 (pf pd) (pf pe) 0 0 0)
  | .klnch g xd pd pe xa => some (packS g 0x7B 0 (xf xd) (xf xa) 0 (pf pd) (pf pe) 0 0 0)
  | .binit g scp xa b => some (encSrc g 0x7C 0 0 (xf xa) b 0 0 (0#2 ++ scpCode scp))
  | .barr g xd xa => some (packS g 0x7D 0 (xf xd) (xf xa) 0 0 0 0 0 0)
  | .bexp g xd xa b => some (encSrc g 0x7D 1 (xf xd) (xf xa) b 0 0 0)
  | .bwait g xa b => some (encSrc g 0x7E 0 0 (xf xa) b 0 0 0)
  | .btest g pd pe xa b => some (encSrc g 0x7E 1 0 (xf xa) b (pf pd) (pf pe) 0)
  | .bind g scp xd pd pe xa b => some (encSrc g 0x7F 0 (xf xd) (xf xa) b (pf pd) (pf pe) (0#2 ++ scpCode scp))
  | .unbind g xd pd pe b => some (encSrc g 0x7F 1 (xf xd) 0 b (pf pd) (pf pe) 0)
  | .vadd g ty rm vd va vb => some (packV g 0x80 0 (vf vd) (vf va) (vf vb) 0 (tyCode ty) 0 0 (rmCode rm) 0 0 0)
  | .vsub g ty rm vd va vb => some (packV g 0x81 0 (vf vd) (vf va) (vf vb) 0 (tyCode ty) 0 0 (rmCode rm) 0 0 0)
  | .vmul g ty rm vd va vb => some (packV g 0x82 0 (vf vd) (vf va) (vf vb) 0 (tyCode ty) 0 0 (rmCode rm) 0 0 0)
  | .vfma g ty rm vd va vb vc => some (packV g 0x83 0 (vf vd) (vf va) (vf vb) (vf vc) (tyCode ty) 0 0 (rmCode rm) 0 0 0)
  | .vfms g ty rm vd va vb vc => some (packV g 0x84 0 (vf vd) (vf va) (vf vb) (vf vc) (tyCode ty) 0 0 (rmCode rm) 0 0 0)
  | .vmin g ty vd va vb => some (packV g 0x85 0 (vf vd) (vf va) (vf vb) 0 (tyCode ty) 0 0 0 0 0 0)
  | .vmax g ty vd va vb => some (packV g 0x86 0 (vf vd) (vf va) (vf vb) 0 (tyCode ty) 0 0 0 0 0 0)
  | .vabs g ty vd va => some (packV g 0x87 0 (vf vd) (vf va) 0 0 (tyCode ty) 0 0 0 0 0 0)
  | .vneg g ty vd va => some (packV g 0x88 0 (vf vd) (vf va) 0 0 (tyCode ty) 0 0 0 0 0 0)
  | .vrcp g ty rm vd va => some (packV g 0x89 0 (vf vd) (vf va) 0 0 (tyCode ty) 0 0 (rmCode rm) 0 0 0)
  | .vrsq g ty rm vd va => some (packV g 0x8A 0 (vf vd) (vf va) 0 0 (tyCode ty) 0 0 (rmCode rm) 0 0 0)
  | .vexp2 g ty rm vd va => some (packV g 0x8B 0 (vf vd) (vf va) 0 0 (tyCode ty) 0 0 (rmCode rm) 0 0 0)
  | .vlog2 g ty rm vd va => some (packV g 0x8C 0 (vf vd) (vf va) 0 0 (tyCode ty) 0 0 (rmCode rm) 0 0 0)
  | .vcmp g c ty pd pe va vb => some (packV g 0x8D (vcondCode c) 0 (vf va) (vf vb) 0 (tyCode ty) (pf pd) (pf pe) 0 0 0 0)
  | .vsel g ty vd pn neg va vb =>
    some (packV g 0x8E 0 (vf vd) (vf va) (vf vb) 0 (tyCode ty) 0 0 0 0 0 (0#28 ++ BitVec.ofBool neg ++ pf pn))
  | .vmov g ty vd va => some (packV g 0x8F 0 (vf vd) (vf va) 0 0 (tyCode ty) 0 0 0 0 0 0)
  | .vbcst g ty vd xa => some (packV g 0x90 0 (vf vd) 0 0 0 (tyCode ty) 0 0 0 (xf xa) 0 0)
  | .vextr g ty xd va k => some (packV g 0x91 0 0 (vf va) 0 0 (tyCode ty) 0 0 0 0 (xf xd) (0#26 ++ BitVec.ofFin (w := 6) k))
  | .vcvt g dt st ns rm vd va part =>
    some (packV g 0x92 (0#3 ++ BitVec.ofBool ns ++ tyCode st) (vf vd) (vf va) 0 0 (tyCode dt) 0 0 (rmCode rm) 0 0
      (0#29 ++ BitVec.ofFin (w := 3) part))
  | .vred g op ty rm vd va => some (packV g 0x93 (vredCode op) (vf vd) (vf va) 0 0 (tyCode ty) 0 0 (rmCode rm) 0 0 0)
  | .vperm g ty vd va vb vc => some (packV g 0x94 0 (vf vd) (vf va) (vf vb) (vf vc) (tyCode ty) 0 0 0 0 0 0)
  | .vshuf g ty vd va vb m => some (packV g 0x95 0 (vf vd) (vf va) (vf vb) 0 (tyCode ty) 0 0 0 0 0 (shufImm m))
  | .vand g ty vd va vb => some (packV g 0x96 0 (vf vd) (vf va) (vf vb) 0 (tyCode ty) 0 0 0 0 0 0)
  | .vor g ty vd va vb => some (packV g 0x97 0 (vf vd) (vf va) (vf vb) 0 (tyCode ty) 0 0 0 0 0 0)
  | .vxor g ty vd va vb => some (packV g 0x98 0 (vf vd) (vf va) (vf vb) 0 (tyCode ty) 0 0 0 0 0 0)
  | .vshl g ty vd va sh => some (encShift g 0x99 ty vd va sh)
  | .vshr g ty vd va sh => some (encShift g 0x9A ty vd va sh)
  | .vsar g ty vd va sh => some (encShift g 0x9B ty vd va sh)
  | .viadd g ty vd va vb => some (packV g 0x9C 0 (vf vd) (vf va) (vf vb) 0 (tyCode ty) 0 0 0 0 0 0)
  | .vimul g ty vd va vb => some (packV g 0x9D 0 (vf vd) (vf va) (vf vb) 0 (tyCode ty) 0 0 0 0 0 0)
  | .vidx g ty vd xa step => some (packV g 0x9E 0 (vf vd) 0 0 0 (tyCode ty) 0 0 0 (xf xa) 0 step)
  | .vins g ty vd xa k => some (packV g 0x9F 0 (vf vd) 0 0 0 (tyCode ty) 0 0 0 (xf xa) 0 (0#26 ++ BitVec.ofFin (w := 6) k))
  | .vld g ty vd xa off => some (packV g 0xA0 0 (vf vd) 0 0 0 (tyCode ty) 0 0 0 (xf xa) 0 off)
  | .vst g ty va xa off => some (packV g 0xA1 0 0 (vf va) 0 0 (tyCode ty) 0 0 0 (xf xa) 0 off)
  | .vldg g ty vd vb xa sh => some (packV g 0xA2 0 (vf vd) 0 (vf vb) 0 (tyCode ty) 0 0 0 (xf xa) 0 (0#30 ++ BitVec.ofFin (w := 2) sh))
  | .vsts g ty va vb xa sh => some (packV g 0xA3 0 0 (vf va) (vf vb) 0 (tyCode ty) 0 0 0 (xf xa) 0 (0#30 ++ BitVec.ofFin (w := 2) sh))
  | .vclass g ty vd pd pe va mask =>
    some (packV g 0xA4 0 (vf vd) (vf va) 0 0 (tyCode ty) (pf pd) (pf pe) 0 0 0 (0#22 ++ mask))
  | .topen g t w => some (packM g 0xC0 0 0 0 0 0 (BitVec.ofFin (w := 2) t) 0 0 0 (BitVec.ofFin (w := 4) w) 0)
  | .tclose g t => some (packM g 0xC1 0 0 0 0 0 (BitVec.ofFin (w := 2) t) 0 0 0 0 0)
  | .tzero g t cb nbm =>
    some (packM g 0xC2 0 0 0 0 0 (BitVec.ofFin (w := 2) t) 0 0 0 0 (encRange (BitVec.ofFin (w := 4) cb) (BitVec.ofFin (w := 4) nbm) 0 0))
  | .tload g f d t xa xb cb nbm rmaj =>
    some (packM g 0xC3 0 (xf xa) (xf xb) 0 (doneEv d) (BitVec.ofFin (w := 2) t) 0 (doneWt d) 0 (tfmtCode f)
      (encRange (BitVec.ofFin (w := 4) cb) (BitVec.ofFin (w := 4) nbm) (BitVec.ofBool rmaj) 0))
  | .tstore g f d t xa xb cb nbm rmaj =>
    some (packM g 0xC4 0 (xf xa) (xf xb) 0 (doneEv d) (BitVec.ofFin (w := 2) t) 0 (doneWt d) 0 (tfmtCode f)
      (encRange (BitVec.ofFin (w := 4) cb) (BitVec.ofFin (w := 4) nbm) (BitVec.ofBool rmaj) 0))
  | .tread g t vi xb xc row =>
    some (packM g 0xC5 0 0 (xf xb) (xf xc) 0 (BitVec.ofFin (w := 2) t) 0 0 (vf vi) 0 (encRange 0 0 0 (BitVec.ofBool row)))
  | .twrite g t vi xb xc row =>
    some (packM g 0xC6 0 0 (xf xb) (xf xc) 0 (BitVec.ofFin (w := 2) t) 0 0 (vf vi) 0 (encRange 0 0 0 (BitVec.ofBool row)))
  | .midx g t vi xa xb => some (packM g 0xC7 0 (xf xa) (xf xb) 0 0 (BitVec.ofFin (w := 2) t) 0 0 (vf vi) 0 0)
  | .mma g d t xb xc k cb nbm =>
    some (packM g 0xC8 0 0 (xf xb) (xf xc) (doneEv d) (BitVec.ofFin (w := 2) t) 0 (doneWt d) 0 (kCode k)
      (encRange (BitVec.ofFin (w := 4) cb) (0#2 ++ BitVec.ofFin (w := 2) nbm) 0 0))
  | .mres g w t => some (packM g 0xC9 0 0 0 0 0 (BitVec.ofFin (w := 2) t) 0 (BitVec.ofBool w) 0 0 0)
  | .tsave g d t xa => some (packM g 0xCA 0 (xf xa) 0 0 (doneEv d) (BitVec.ofFin (w := 2) t) 0 (doneWt d) 0 0 0)
  | .trest g d t xa => some (packM g 0xCB 0 (xf xa) 0 0 (doneEv d) (BitVec.ofFin (w := 2) t) 0 (doneWt d) 0 0 0)
  | .tqry g xa t => some (packM g 0xCC 0 (xf xa) 0 0 0 (BitVec.ofFin (w := 2) t) 0 0 0 0 0)
  | .mcnt g d bk t xb xc k nbm =>
    some (packM g 0xD0 0 0 (xf xb) (xf xc) (doneEv d) (BitVec.ofFin (w := 2) t) (BitVec.ofBool bk) (doneWt d) 0 (kCode k)
      (encRange 0 (0#1 ++ BitVec.ofFin (w := 3) nbm) 0 0))
  | .mmrg g d => some (packM g 0xD1 0 0 0 0 (doneEv d) 0 0 (doneWt d) 0 0 0)
  | .mdrn g d bk t cb nbm =>
    some (packM g 0xD2 0 0 0 0 (doneEv d) (BitVec.ofFin (w := 2) t) (BitVec.ofBool bk) (doneWt d) 0 0
      (encRange (BitVec.ofFin (w := 4) cb) (0#1 ++ BitVec.ofFin (w := 3) nbm) 0 0))
  | .mclr g d bk => some (packM g 0xD3 0 0 0 0 (doneEv d) 0 (BitVec.ofBool bk) (doneWt d) 0 0 0)
  | .mdep g xa bk => some (packM g 0xD4 0 (xf xa) 0 0 0 0 (BitVec.ofBool bk) 0 0 0 0)
  | .cpy g o xa xb xc => some (encCopy g 0xE0 o xa xb xc 0 0)
  | .cpy2 g o xa xb xc => some (encCopy g 0xE1 o xa xb xc 0 0)
  | .cpym g o xa xb xc msk => some (encCopy g 0xE2 o xa xb xc 0 msk)
  | .cpyw g o xa xb xc => some (encCopy g 0xE3 o xa xb xc 0 0)
  | .fill g o xa xb xc => some (encCopy g 0xE4 o xa xb xc 0 0)
  | .cpyr g op o xa xb xc => some (encCopy g 0xE5 o xa xb xc (cpyrCode op) 0)
  | .portq g xa => some (packM g 0xE6 0 (xf xa) 0 0 0 0 0 0 0 0 0)
  | .tlbi g r m =>
    some (match m with
      | .page xa => packS g 0xE8 0 0 (xf xa) 0 0 0 0 (reachCode r ++ 0#3) 0
      | .ctx => packS g 0xE8 0 0 0 0 0 0 0 (reachCode r ++ 1#3) 0
      | .all => packS g 0xE8 0 0 0 0 0 0 0 (reachCode r ++ 2#3) 0)
  | .probe g acc xd pd pe xa => some (packS g 0xE9 0 (xf xd) (xf xa) 0 (pf pd) (pf pe) 0 (permCode acc) 0)
  | _ => none

/-! ### Reading the fields -/

/-- GN and GP. -/
def guardOf (w : Slot96) : Guard := { neg := w.getLsbD 87, p := (w.extractLsb' 84 3).toFin }
/-- FN of formats S, V and M. -/
def fFn (w : Slot96) : BitVec 8 := w.extractLsb' 76 8
/-- XD of format S, XA of format M. -/
def fX75 (w : Slot96) : XReg := (w.extractLsb' 72 4).toFin
/-- XA of format S, XB of format M. -/
def fX71 (w : Slot96) : XReg := (w.extractLsb' 68 4).toFin
/-- XB of format S, XC of format M. -/
def fX67 (w : Slot96) : XReg := (w.extractLsb' 64 4).toFin
/-- PD of format S. -/
def fPd (w : Slot96) : PReg := (w.extractLsb' 61 3).toFin
/-- PE of format S. -/
def fPe (w : Slot96) : PReg := (w.extractLsb' 58 3).toFin
/-- MOD of format S. -/
def fMod (w : Slot96) : BitVec 5 := w.extractLsb' 52 5
/-- IMM48 of format S, the low fields of format M. -/
def fImm48 (w : Slot96) : BitVec 48 := w.extractLsb' 0 48
/-- The second source of format S (R39). -/
def fSrc (w : Slot96) : Src := if w.getLsbD 57 then .imm (fImm48 w) else .reg (fX67 w)
/-- Predicate source in XA (R262). -/
def fPa (w : Slot96) : PReg := (w.extractLsb' 68 3).toFin
/-- Predicate source in XB (R262). -/
def fPb (w : Slot96) : PReg := (w.extractLsb' 64 3).toFin
/-- VD of format V. -/
def fVd (w : Slot96) : VIdx := (w.extractLsb' 70 6).toFin
/-- VA of format V. -/
def fVa (w : Slot96) : VIdx := (w.extractLsb' 64 6).toFin
/-- VB of format V. -/
def fVb (w : Slot96) : VIdx := (w.extractLsb' 58 6).toFin
/-- VC of format V, VI of format M. -/
def fVc (w : Slot96) : VIdx := (w.extractLsb' 52 6).toFin
/-- TY of format V, SZ/FMT of format M. -/
def fTy (w : Slot96) : BitVec 4 := w.extractLsb' 48 4
/-- PD of format V. -/
def fVPd (w : Slot96) : PReg := (w.extractLsb' 45 3).toFin
/-- PE of format V. -/
def fVPe (w : Slot96) : PReg := (w.extractLsb' 42 3).toFin
/-- RM of format V. -/
def fRm (w : Slot96) : Rm := rmOf (w.extractLsb' 40 2)
/-- XA of format V. -/
def fVXa (w : Slot96) : XReg := (w.extractLsb' 36 4).toFin
/-- XB of format V. -/
def fVXb (w : Slot96) : XReg := (w.extractLsb' 32 4).toFin
/-- IMM32 of format V. -/
def fImm32 (w : Slot96) : BitVec 32 := w.extractLsb' 0 32
/-- TL of format M. -/
def fTl (w : Slot96) : TileNo := (w.extractLsb' 60 2).toFin
/-- BK of format M. -/
def fBk (w : Slot96) : Bool := w.getLsbD 59
/-- EV and WT of format M. -/
def fDone (w : Slot96) : Done := doneOf (w.extractLsb' 62 2) (w.extractLsb' 58 1)
/-- CB of format M. -/
def fCb (w : Slot96) : Fin 16 := (w.extractLsb' 44 4).toFin
/-- NBM of format M. -/
def fNbm (w : Slot96) : Fin 16 := (w.extractLsb' 40 4).toFin
/-- BN, BAR, FS with EV and WT of a copy command. -/
def fCopy (w : Slot96) : CopyOpts :=
  { done := fDone w, bar := if w.getLsbD 47 then some (w.extractLsb' 30 17) else none, full := w.getLsbD 29 }

/-- TSLOT (R41). -/
def fTs (w : Slot96) : Option (Fin 5) :=
  if h : (w.extractLsb' 19 3).toNat < 5 then some ⟨(w.extractLsb' 19 3).toNat, h⟩ else none

/-- PE form of an atomic (R278). -/
def fADest (w : Slot96) : Option ADest :=
  if w.extractLsb' 58 3 = 0#3 then some (.res (fX75 w))
  else if w.extractLsb' 58 3 = 1#3 then some .drop else none

/-- Shift form of IMM32[31] (R313). -/
def fShift (w : Slot96) : VShift :=
  if w.getLsbD 31 then .imm (w.extractLsb' 0 5).toFin else .reg (fVb w)

/-- VSHUF mode (R317). -/
def fShuf (w : Slot96) : Option Shuf :=
  match (w.extractLsb' 0 4).toNat with
  | 0 => some .zipl | 1 => some .ziph | 2 => some .even | 3 => some .odd
  | 4 => some (.rot (w.extractLsb' 8 7).toFin)
  | _ => none

/-- FN as the .u flag: only 0 and 1 survive the re-encoding. -/
def fU (w : Slot96) : Bool := w.getLsbD 76

/-- OP 0x01 to 0x27: scalar and predicate instructions. -/
def parseScalar (op : Nat) (w : Slot96) : Option Instr :=
  let g := guardOf w
  match op with
  | 0x01 => some (.add g (fX75 w) (fX71 w) (fSrc w))
  | 0x02 => some (.sub g (fX75 w) (fX71 w) (fSrc w))
  | 0x03 => some (.mul g (fX75 w) (fX71 w) (fSrc w))
  | 0x04 => some (.mulh g (fU w) (fX75 w) (fX71 w) (fSrc w))
  | 0x05 => some (.div g (fU w) (fX75 w) (fX71 w) (fSrc w))
  | 0x06 => some (.rem g (fU w) (fX75 w) (fX71 w) (fSrc w))
  | 0x07 => some (.and g (fX75 w) (fX71 w) (fSrc w))
  | 0x08 => some (.or g (fX75 w) (fX71 w) (fSrc w))
  | 0x09 => some (.xor g (fX75 w) (fX71 w) (fSrc w))
  | 0x0A => some (.andn g (fX75 w) (fX71 w) (fSrc w))
  | 0x0B => some (.orn g (fX75 w) (fX71 w) (fSrc w))
  | 0x0C => some (.shl g (fX75 w) (fX71 w) (fSrc w))
  | 0x0D => some (.shr g (fX75 w) (fX71 w) (fSrc w))
  | 0x0E => some (.sar g (fX75 w) (fX71 w) (fSrc w))
  | 0x0F => some (.rol g (fX75 w) (fX71 w) (fSrc w))
  | 0x10 => some (.min g (fU w) (fX75 w) (fX71 w) (fSrc w))
  | 0x11 => some (.max g (fU w) (fX75 w) (fX71 w) (fSrc w))
  | 0x12 => some (.clz g (fX75 w) (fX71 w))
  | 0x13 => some (.ctz g (fX75 w) (fX71 w))
  | 0x14 => some (.popc g (fX75 w) (fX71 w))
  | 0x15 => some (.bext g (fX75 w) (fX71 w) (fSrc w))
  | 0x16 => some (.bins g (fX75 w) (fX71 w) (fSrc w))
  | 0x17 => (sextOf (fFn w)).map fun s => .sext g s (fX75 w) (fX71 w)
  | 0x18 => some (.mov g (fX75 w) (fSrc w))
  | 0x19 => some (.li g (fX75 w) (w.extractLsb' 0 64))
  | 0x1A => some (.sel g (fX75 w) (w.extractLsb' 52 3).toFin (w.getLsbD 55) (fX71 w) (fSrc w))
  | 0x1B => (cmpOf (fFn w)).map fun c => .cmp g c (fPd w) (fPe w) (fX71 w) (fSrc w)
  | 0x1C => some (.tstb g (fPd w) (fPe w) (fX71 w) (fSrc w))
  | 0x20 => some (.pand g (fPd w) (fPa w) (fPb w))
  | 0x21 => some (.por g (fPd w) (fPa w) (fPb w))
  | 0x22 => some (.pxor g (fPd w) (fPa w) (fPb w))
  | 0x23 => some (.pandn g (fPd w) (fPa w) (fPb w))
  | 0x24 => some (.pnot g (fPd w) (fPa w))
  | 0x25 => if fU w then some (.pmovXtop g (fPd w) (fX71 w)) else some (.pmovPtox g (fX75 w) (fPa w))
  | 0x26 => (anyOf (fFn w)).map fun k => .pany g k (fPd w) (fPe w) (fPa w) (fSrc w)
  | 0x27 => some (.pcnt g (fX75 w) (fPa w) (fSrc w))
  | _ => none

/-- OP 0x30 to 0x48: memory instructions and atomics. -/
def parseMem (op : Nat) (w : Slot96) : Option Instr :=
  let g := guardOf w
  match op with
  | 0x30 => (ldwOf (fFn w)).map fun l => .ld g l (fX75 w) (fX71 w) (fImm48 w)
  | 0x31 => (stwOf (fFn w)).map fun l => .st g l (fX71 w) (fX67 w) (fImm48 w)
  | 0x32 => (ldwOf (fFn w)).map fun l => .ldn g l (fX75 w) (fX71 w) (fImm48 w)
  | 0x33 => if fU w then some (.ldeC g (fX75 w) (fX71 w) (fImm48 w)) else some (.lde g (fX75 w) (fX71 w) (fImm48 w))
  | 0x34 => some (.stf g (fX71 w) (fX67 w) (fImm48 w))
  | 0x35 => some (.empt g (fX71 w) (fImm48 w))
  | 0x36 => some (.feq g (fPd w) (fPe w) (fX71 w) (fImm48 w))
  | 0x40 => (orderOf (fMod w)).bind fun o => (fADest w).map fun d => .aadd g (fU w) o d (fX71 w) (fX67 w) (fImm48 w)
  | 0x41 => (orderOf (fMod w)).bind fun o => (fADest w).map fun d => .aand g (fU w) o d (fX71 w) (fX67 w) (fImm48 w)
  | 0x42 => (orderOf (fMod w)).bind fun o => (fADest w).map fun d => .aor g (fU w) o d (fX71 w) (fX67 w) (fImm48 w)
  | 0x43 => (orderOf (fMod w)).bind fun o => (fADest w).map fun d => .axor g (fU w) o d (fX71 w) (fX67 w) (fImm48 w)
  | 0x44 => (orderOf (fMod w)).bind fun o => (fADest w).map fun d =>
      .amin g (fU w) (w.getLsbD 77) o d (fX71 w) (fX67 w) (fImm48 w)
  | 0x45 => (orderOf (fMod w)).bind fun o => (fADest w).map fun d =>
      .amax g (fU w) (w.getLsbD 77) o d (fX71 w) (fX67 w) (fImm48 w)
  | 0x46 => (orderOf (fMod w)).bind fun o => (fADest w).map fun d => .aswap g (fU w) o d (fX71 w) (fX67 w) (fImm48 w)
  | 0x47 => (orderOf (fMod w)).map fun o => .acas g (fU w) o (fX75 w) (fPd w) (fPe w) (fX71 w) (fX67 w) (fImm48 w)
  | 0x48 => (orderOf (fMod w)).bind fun o => (fADest w).map fun d => .afadd g o d (fX71 w) (fX67 w) (fImm48 w)
  | _ => none

/-- OP 0x50 to 0x5F: control flow, traps, system. -/
def parseFlow (op : Nat) (w : Slot96) : Option Instr :=
  let g := guardOf w
  let xa : XReg := (w.extractLsb' 74 4).toFin
  match op with
  | 0x50 => (annulOf (w.extractLsb' 78 2)).bind fun an => (fTs w).bind fun ts =>
      (match (w.extractLsb' 80 4).toNat with
        | 0 => some BrTest.always | 1 => some (.z xa) | 2 => some (.nz xa) | 3 => some (.neg xa) | 4 => some (.nneg xa)
        | _ => none).map fun t => .br g t an (w.extractLsb' 22 42) ts
  | 0x51 => (annulOf (w.extractLsb' 78 2)).map fun an => .brx g an xa
  | 0x52 => (annulOf (w.extractLsb' 78 2)).bind fun an => (fTs w).map fun ts => .call g an (w.extractLsb' 22 42) ts
  | 0x53 => (annulOf (w.extractLsb' 78 2)).map fun an => .callx g an xa
  | 0x54 => some (.trap g (fSrc w))
  | 0x55 => some (.eret g)
  | 0x58 => some (.nop g)
  | 0x59 => some (.srd g (fX75 w) (w.extractLsb' 0 12))
  | 0x5A => some (.swr g (w.extractLsb' 0 12) (fX71 w))
  | 0x5B => some (.ts g (fX75 w))
  | 0x5C => some (.cyc g (fX75 w))
  | 0x5D => some (.tpost g (fX75 w) (fPd w) (fPe w) (fX71 w) (fSrc w))
  | 0x5E => (orderOf (fMod w)).map fun o => .fence g o
  | 0x5F => some (.wswin g (fX75 w) (fSrc w))
  | _ => none

/-- OP 0x60 to 0x7F: thread life, names, queues, kernels, barriers. -/
def parseThread (op : Nat) (w : Slot96) : Option Instr :=
  let g := guardOf w
  let k : EReg := (w.extractLsb' 52 2).toFin
  match op with
  | 0x60 => if fU w then some (.spawnLoose g (fX75 w) (fPd w) (fPe w) (fX71 w) (fSrc w))
            else some (.spawn g (fX75 w) (fPd w) (fPe w) (fX71 w) (fSrc w))
  | 0x61 => (evOf (w.extractLsb' 0 3)).map fun e => .spnr g (fX71 w) (fX67 w) e
  | 0x62 => some (.join g (fX75 w) (fPd w) (fPe w) (fX71 w))
  | 0x63 => some (.exit g)
  | 0x64 => some (.yield g (fSrc w))
  | 0x65 => some (.prio g (fX75 w) (fPd w) (fPe w) (fX71 w) (fSrc w))
  | 0x66 => some (.slot g (fX75 w) (fPd w) (fPe w) (fSrc w))
  | 0x67 => some (.migr g (fX75 w) (fPd w) (fPe w) (fX71 w))
  | 0x68 => some (.semw g k (fSrc w))
  | 0x69 => some (.sema g (fX75 w) (fPd w) (fPe w) k (fX71 w) (fSrc w))
  | 0x6A =>
    (match (fMod w).toNat with
      | 0 => some (.chanInstall g (fX75 w) (fPd w) (fPe w) (fX71 w) (fSrc w))
      | 1 => some (.chanBlock g (fX75 w) (fPd w) (fPe w) (fSrc w))
      | 2 => some (.chanUnblock g (fX75 w) (fPd w) (fPe w) (fSrc w))
      | 3 => some (.chanRemove g (fX75 w) (fPd w) (fPe w) (fSrc w))
      | 4 => some (.chanQuery g (fX75 w) (fPd w) (fPe w) (fSrc w))
      | _ => none)
  | 0x70 => if fMod w = 0 then some (.gname g (fX75 w)) else some (.gnameRank g (fX75 w) (fPd w) (fPe w) (fSrc w))
  | 0x71 => some (.varm g (fVd w) (w.extractLsb' 0 8))
  | 0x72 => (evOf (w.extractLsb' 8 3)).map fun e => .vput g (fVa w) (fVXa w) (w.extractLsb' 0 6).toFin e
  | 0x74 => (evOf (w.extractLsb' 0 3)).map fun e =>
      .send g (w.extractLsb' 52 2).toFin (w.extractLsb' 54 2).toFin e (fX71 w) (fX67 w)
  | 0x75 => if fU w then some (.recvTry g (fX75 w) (fPd w) (fPe w) (fX71 w) (fSrc w))
            else some (.recv g (fX75 w) (fPd w) (fPe w) (fX71 w) (fSrc w))
  | 0x76 => some (.enq g (fX75 w) (fPd w) (fPe w) (fX71 w))
  | 0x77 =>
    (match (fFn w).toNat with
      | 0 => some (.mboxOpen g (fX75 w) (fPd w) (fPe w) (fX71 w) (fSrc w))
      | 1 => some (.mboxClose g (fX75 w) (fPd w) (fPe w) (fSrc w))
      | 2 => some (.mboxQuery g (fX75 w) (fPd w) (fPe w) (fSrc w))
      | _ => none)
  | 0x78 => if h : (fImm48 w).toNat < 17 then some (.wid g (fX75 w) ⟨(fImm48 w).toNat, h⟩) else none
  | 0x79 => some (.trig g)
  | 0x7A => some (.kwait g (fPd w) (fPe w))
  | 0x7B => some (.klnch g (fX75 w) (fPd w) (fPe w) (fX71 w))
  | 0x7C => (scpOf (w.extractLsb' 52 3)).map fun s => .binit g s (fX71 w) (fSrc w)
  | 0x7D => if fU w then some (.bexp g (fX75 w) (fX71 w) (fSrc w)) else some (.barr g (fX75 w) (fX71 w))
  | 0x7E => if fU w then some (.btest g (fPd w) (fPe w) (fX71 w) (fSrc w)) else some (.bwait g (fX71 w) (fSrc w))
  | 0x7F => if fU w then some (.unbind g (fX75 w) (fPd w) (fPe w) (fSrc w))
            else (scpOf (w.extractLsb' 52 3)).map fun s => .bind g s (fX75 w) (fPd w) (fPe w) (fX71 w) (fSrc w)
  | _ => none

/-- OP 0x80 to 0xA4: vector instructions. -/
def parseVector (op : Nat) (w : Slot96) : Option Instr :=
  let g := guardOf w
  (tyOf (fTy w)).bind fun ty =>
  match op with
  | 0x80 => some (.vadd g ty (fRm w) (fVd w) (fVa w) (fVb w))
  | 0x81 => some (.vsub g ty (fRm w) (fVd w) (fVa w) (fVb w))
  | 0x82 => some (.vmul g ty (fRm w) (fVd w) (fVa w) (fVb w))
  | 0x83 => some (.vfma g ty (fRm w) (fVd w) (fVa w) (fVb w) (fVc w))
  | 0x84 => some (.vfms g ty (fRm w) (fVd w) (fVa w) (fVb w) (fVc w))
  | 0x85 => some (.vmin g ty (fVd w) (fVa w) (fVb w))
  | 0x86 => some (.vmax g ty (fVd w) (fVa w) (fVb w))
  | 0x87 => some (.vabs g ty (fVd w) (fVa w))
  | 0x88 => some (.vneg g ty (fVd w) (fVa w))
  | 0x89 => some (.vrcp g ty (fRm w) (fVd w) (fVa w))
  | 0x8A => some (.vrsq g ty (fRm w) (fVd w) (fVa w))
  | 0x8B => some (.vexp2 g ty (fRm w) (fVd w) (fVa w))
  | 0x8C => some (.vlog2 g ty (fRm w) (fVd w) (fVa w))
  | 0x8D => (vcondOf (fFn w)).map fun c => .vcmp g c ty (fVPd w) (fVPe w) (fVa w) (fVb w)
  | 0x8E => some (.vsel g ty (fVd w) (w.extractLsb' 0 3).toFin (w.getLsbD 3) (fVa w) (fVb w))
  | 0x8F => some (.vmov g ty (fVd w) (fVa w))
  | 0x90 => some (.vbcst g ty (fVd w) (fVXa w))
  | 0x91 => some (.vextr g ty (fVXb w) (fVa w) (w.extractLsb' 0 6).toFin)
  | 0x92 => (tyOf (w.extractLsb' 76 4)).map fun st =>
      .vcvt g ty st (w.getLsbD 80) (fRm w) (fVd w) (fVa w) (w.extractLsb' 0 3).toFin
  | 0x93 => (vredOf (fFn w)).map fun o => .vred g o ty (fRm w) (fVd w) (fVa w)
  | 0x94 => some (.vperm g ty (fVd w) (fVa w) (fVb w) (fVc w))
  | 0x95 => (fShuf w).map fun m => .vshuf g ty (fVd w) (fVa w) (fVb w) m
  | 0x96 => some (.vand g ty (fVd w) (fVa w) (fVb w))
  | 0x97 => some (.vor g ty (fVd w) (fVa w) (fVb w))
  | 0x98 => some (.vxor g ty (fVd w) (fVa w) (fVb w))
  | 0x99 => some (.vshl g ty (fVd w) (fVa w) (fShift w))
  | 0x9A => some (.vshr g ty (fVd w) (fVa w) (fShift w))
  | 0x9B => some (.vsar g ty (fVd w) (fVa w) (fShift w))
  | 0x9C => some (.viadd g ty (fVd w) (fVa w) (fVb w))
  | 0x9D => some (.vimul g ty (fVd w) (fVa w) (fVb w))
  | 0x9E => some (.vidx g ty (fVd w) (fVXa w) (fImm32 w))
  | 0x9F => some (.vins g ty (fVd w) (fVXa w) (w.extractLsb' 0 6).toFin)
  | 0xA0 => some (.vld g ty (fVd w) (fVXa w) (fImm32 w))
  | 0xA1 => some (.vst g ty (fVa w) (fVXa w) (fImm32 w))
  | 0xA2 => some (.vldg g ty (fVd w) (fVb w) (fVXa w) (w.extractLsb' 0 2).toFin)
  | 0xA3 => some (.vsts g ty (fVa w) (fVb w) (fVXa w) (w.extractLsb' 0 2).toFin)
  | 0xA4 => some (.vclass g ty (fVd w) (fVPd w) (fVPe w) (fVa w) (w.extractLsb' 0 10))
  | _ => none

/-- OP 0xC0 to 0xE9: engine instructions, TLBI and PROBE. -/
def parseEngine (op : Nat) (w : Slot96) : Option Instr :=
  let g := guardOf w
  match op with
  | 0xC0 => some (.topen g (fTl w) (w.extractLsb' 48 4).toFin)
  | 0xC1 => some (.tclose g (fTl w))
  | 0xC2 => some (.tzero g (fTl w) (fCb w) (fNbm w))
  | 0xC3 => (tfmtOf (fTy w)).map fun f => .tload g f (fDone w) (fTl w) (fX75 w) (fX71 w) (fCb w) (fNbm w) (w.getLsbD 39)
  | 0xC4 => (tfmtOf (fTy w)).map fun f => .tstore g f (fDone w) (fTl w) (fX75 w) (fX71 w) (fCb w) (fNbm w) (w.getLsbD 39)
  | 0xC5 => some (.tread g (fTl w) (fVc w) (fX71 w) (fX67 w) (w.getLsbD 38))
  | 0xC6 => some (.twrite g (fTl w) (fVc w) (fX71 w) (fX67 w) (w.getLsbD 38))
  | 0xC7 => some (.midx g (fTl w) (fVc w) (fX75 w) (fX71 w))
  | 0xC8 => (kOf (fTy w)).map fun k => .mma g (fDone w) (fTl w) (fX71 w) (fX67 w) k (fCb w) (w.extractLsb' 40 2).toFin
  | 0xC9 => some (.mres g (w.getLsbD 58) (fTl w))
  | 0xCA => some (.tsave g (fDone w) (fTl w) (fX75 w))
  | 0xCB => some (.trest g (fDone w) (fTl w) (fX75 w))
  | 0xCC => some (.tqry g (fX75 w) (fTl w))
  | 0xD0 => (kOf (fTy w)).map fun k => .mcnt g (fDone w) (fBk w) (fTl w) (fX71 w) (fX67 w) k (w.extractLsb' 40 3).toFin
  | 0xD1 => some (.mmrg g (fDone w))
  | 0xD2 => some (.mdrn g (fDone w) (fBk w) (fTl w) (fCb w) (w.extractLsb' 40 3).toFin)
  | 0xD3 => some (.mclr g (fDone w) (fBk w))
  | 0xD4 => some (.mdep g (fX75 w) (fBk w))
  | 0xE0 => some (.cpy g (fCopy w) (fX75 w) (fX71 w) (fX67 w))
  | 0xE1 => some (.cpy2 g (fCopy w) (fX75 w) (fX71 w) (fX67 w))
  | 0xE2 => some (.cpym g (fCopy w) (fX75 w) (fX71 w) (fX67 w) (w.extractLsb' 21 8))
  | 0xE3 => some (.cpyw g (fCopy w) (fX75 w) (fX71 w) (fX67 w))
  | 0xE4 => some (.fill g (fCopy w) (fX75 w) (fX71 w) (fX67 w))
  | 0xE5 => (cpyrOf (fTy w)).map fun o => .cpyr g o (fCopy w) (fX75 w) (fX71 w) (fX67 w)
  | 0xE6 => some (.portq g (fX75 w))
  | 0xE8 => (reachOf (w.extractLsb' 55 2)).bind fun r =>
      (match (w.extractLsb' 52 3).toNat with
        | 0 => some (.tlbi g r (.page (fX71 w))) | 1 => some (.tlbi g r .ctx) | 2 => some (.tlbi g r .all) | _ => none)
  | 0xE9 => (permOf (fMod w)).map fun a => .probe g a (fX75 w) (fPd w) (fPe w) (fX71 w)
  | _ => none

/-- The instruction the assigned fields of a word name, zero fields not yet looked at (R47). -/
def parse (w : Slot96) : Option Instr :=
  let op := (w.extractLsb' 88 8).toNat
  if op < 0x30 then parseScalar op w
  else if op < 0x50 then parseMem op w
  else if op < 0x60 then parseFlow op w
  else if op < 0x80 then parseThread op w
  else if op < 0xB0 then parseVector op w
  else parseEngine op w

/-- The decoder: total, rejecting by name (R48). -/
def decode (w : Slot96) : Except Reject Instr :=
  match parse w with
  | none => .error .unassigned
  | some i =>
    if encode i = some w then
      if wf i then .ok i else .error .illFormed
    else .error .zeroField

/-- What the decoder reads from an instruction whose bits are `w`, the bits above `nbits` being zero: the
twelve bytes in memory order are the little-endian bytes of the word (R18, R25). -/
def decodeTableWord (nbits w : Nat) : Option Instr :=
  match decode (BitVec.ofNat 96 (w % 2 ^ nbits)) with
  | .ok i => some i
  | .error _ => none

end Sys2Proof
end

