-- ==== Sys2Proof/Machine/EvPower.lean ====
section
/-! DEFINITION. The events of power (19_core_power): CURB_DIVISION, FDUTY_UPDATE (R443, R444), CURBDIE_WRITE (R441),
CPWR_FREQ_WRITE, FREQUENCY_RAMP_END (R439, R440), CPWR_WAKE, CORE_IDLE, CORE_RETENTION, CORE_GATED, CORE_WAKE_EVENT, RAMP_END
(R448), INRUSH_GRANT (R449), DROOP_TRIP, DROOP_PAUSE_END, DROOP_HALVING_END (R445), PHASE_LOSS (R446). An event that is not
enabled leaves the state unchanged (log 2). -/

namespace Sys2Proof.Machine

/-! ### The Curb tree (R443) -/

/-- The extra position of each child in rising id while some are left. -/
def spread : Nat → List (Nat × Nat) → List Nat
  | _, [] => []
  | l, (g, d) :: t => if 0 < l ∧ g < d then (g + 1) :: spread (l - 1) t else g :: spread l t

/-- The rule of R443 for children given by floor and demand: their shares, and OVR. -/
def divide (b : Nat) (l : List (Nat × Nat)) : List Nat × Bool :=
  let f := (l.map (·.1)).sum
  let d := (l.map (·.2)).sum
  if d ≤ b then (l.map (·.2), false)
  else if b ≤ f then (l.map (·.1), decide (b < f))
  else
    let g := l.map fun e => e.1 + (b - f) * (e.2 - e.1) / (d - f)
    (spread (b - g.sum) (g.zip (l.map (·.2))), false)

/-- Floor and demand of a core (R443). -/
def State.report (s : State) (c : Nat) : Nat × Nat :=
  let f := s.floor c
  let n := (s.liveSlots.filter fun t => decide (t.core = c) && (decide ((s.slot t).st = .ready) || decide ((s.slot t).st = .stall))).length
  (f, Nat.max f (Nat.min 16 n))

/-- The clusters of a die, rising. -/
def clustersOf (die : Nat) : List Nat := (List.range 16).map fun i => die * 16 + i

/-- The budget of a die: BUD, or the DERATED bound where that is lower (R443, R447). -/
def Die.budget (x : Die) : Nat := if x.der then Nat.min x.bud (2048 * x.pw / x.ph) else x.bud

/-- The shares of every core of a die, and OVR. -/
def State.division (s : State) (die : Nat) : List (Nat × Nat) × Bool :=
  let reports := (clustersOf die).map fun k => (coresOf k).map fun c => (c, s.report c)
  let sums := reports.map fun l => ((l.map (·.2.1)).sum, (l.map (·.2.2)).sum)
  let (top, ovr) := divide (s.die die).budget sums
  ((reports.zip top).flatMap fun e => (e.1.map (·.1)).zip (divide e.2 (e.1.map (·.2))).1, ovr)

/-- CURB_DIVISION: at the next multiple of 10 µs, or once for a lost phase. -/
def execCurbDivision (die : Nat) (s : State) : Host.Outcome State Fault Refusal :=
  let x := s.die die
  .next (if 2 ≤ die then s
    else
      let due := decide (x.divs * 10000 ≤ s.now)
      if !due && x.unsched.isNone then s
      else
        let (g, ovr) := s.division die
        s.modDie die fun x => { x with ovr := ovr, shares := x.shares ++ [((if due then s.now / 10000 * 10000 else s.now) + 1000, g)],
                                       divs := if due then s.now / 10000 + 1 else x.divs,
                                       unsched := if due then x.unsched else none })

/-- A core takes its share; sr.fduty is never below its floor (R443, R444). -/
def State.takeShare (s : State) (e : Nat × Nat) : State :=
  (s.modCore e.1 fun k => { k with fduty := e.2 }).raiseFloor e.1

/-- FDUTY_UPDATE. -/
def execFdutyUpdate (die : Nat) (s : State) : Host.Outcome State Fault Refusal :=
  .next (match (s.die die).shares with
    | [] => s
    | (t, g) :: rest =>
      if s.now < t then s else g.foldl State.takeShare (s.modDie die fun x => { x with shares := rest }))

/-- CURBDIE_WRITE. -/
def execCurbdieWrite (die : Nat) (v : Word) (s : State) : Host.Outcome State Fault Refusal :=
  .next (if die < 2 ∧ s.dark 0 = false then s.modDie die fun x => { x with bud := Nat.min 2048 (v.toNat % 4096) } else s)

/-- PHASE_LOSS: a division within 1 µs, and an interrupt. -/
def execPhaseLoss (die : Nat) (s : State) : Host.Outcome State Fault Refusal :=
  .next (if 2 ≤ die ∨ (s.die die).pw = 0 then s
    else (s.modDie die fun x => { x with pw := x.pw - 1, der := true, unsched := some (s.now + 1000) }).irq)

/-! ### Clocks (R439, R440) -/

/-- The clock of a core in steps of 25 MHz: the lower frequency during a ramp. -/
def Core.clock (k : Core) : Nat :=
  match k.freqNew with
  | some f => if k.freqRamp then Nat.min k.freq f else k.freq
  | none => k.freq

/-- FREQ as a write stores it. -/
def freqStored (n : Nat) : Nat := Nat.max 16 (Nat.min 64 n)

/-- A write of CPWR but for WAKE. A ramp in progress counts as ended (log 36). -/
def Core.writePower (k : Core) (v : Nat) : Core :=
  let f := freqStored (fld v 32 8)
  let k := if k.freqRamp then { k with freq := k.freqNew.getD k.freq, freqRamp := false } else k
  { k with freqNew := if f = k.freq then none else some f, reti := fld v 16 8, gati := fld v 8 8 }

/-- CPWR_FREQ_WRITE: a write of the whole register. -/
def execCpwrFreqWrite (core : Nat) (v : Word) (s : State) : Host.Outcome State Fault Refusal :=
  .next (if 256 ≤ core ∨ s.dark 0 = true then s
    else
      let s := s.modCore core fun k => k.writePower v.toNat
      if bitN v.toNat 3 then s.wakeCore core else s)

/-- CPWR_WAKE. -/
def execCpwrWake (core : Nat) (s : State) : Host.Outcome State Fault Refusal :=
  .next (if core < 256 ∧ s.dark 0 = false then s.wakeCore core else s)

/-- FREQUENCY_RAMP_END. -/
def execFrequencyRampEnd (core : Nat) (s : State) : Host.Outcome State Fault Refusal :=
  .next (let k := s.core core
    if k.freqRamp then s.setCore core { k with freq := k.freqNew.getD k.freq, freqNew := none, freqRamp := false } else s)

/-! ### Droop (R445) -/

/-- A time of `n` cycles at a clock of `f` × 25 MHz, in ns, rounded up. -/
def cyclesNs (n f : Nat) : Nat := ceilDiv (n * 40) f

/-- DROOP_TRIP: the rail is `mv` millivolts below the set point. -/
def execDroopTrip (core mv : Nat) (s : State) : Host.Outcome State Fault Refusal :=
  .next (let k := s.core core
    if core < 256 ∧ k.clockRuns = true ∧ k.dthr ≠ 0 ∧ k.dthr < mv then
      s.setCore core { k with paused := true, pauseEnd := s.now + cyclesNs 6 k.clock, halve := k.cyc + 63 }
    else s)

/-- DROOP_PAUSE_END. -/
def execDroopPauseEnd (core : Nat) (s : State) : Host.Outcome State Fault Refusal :=
  .next (let k := s.core core
    if k.paused ∧ k.pauseEnd ≤ s.now then s.setCore core { k with paused := false } else s)

/-- DROOP_HALVING_END. -/
def execDroopHalvingEnd (core : Nat) (s : State) : Host.Outcome State Fault Refusal :=
  .next (let k := s.core core
    if k.halve < k.cyc then s.setCore core { k with halve := 0 } else s)

/-! ### Power states (R448, R449) -/

/-- Something of the core's own is to be done: a READY or STALL thread, a command in flight, a packet that waits, a move or
an Outrider command that names it, or a continuation record that it can restore. -/
def State.coreBusy (s : State) (c : Nat) : Bool :=
  s.liveSlots.any (fun t => decide (t.core = c) && (decide ((s.slot t).st = .ready) || decide ((s.slot t).st = .stall)))
  || !(s.core c).cmds.isEmpty
  || s.items.any (fun i => match i.st with | .flying k | .queued k _ _ => decide (k = c) | _ => false)
  || s.outrider.any (fun e => decide (e.1 = c) || decide (e.2.1 = c))
  || s.moves.any (fun m => decide (m.dest = c))
  || match (s.core c).taskq with
    | (_, ctx) :: _ => !(s.freeSlots c).isEmpty && s.slotQuota ctx c 1
    | [] => false

/-- CORE_IDLE: 64 cycles with nothing to do. -/
def execCoreIdle (core : Nat) (s : State) : Host.Outcome State Fault Refusal :=
  .next (let k := s.core core
    if core < 256 ∧ k.clockRuns = true ∧ s.coreBusy core = false ∧ k.busyAt + 64 ≤ k.cyc then
      s.setCore core { k with pow := .idle, idleSince := s.now }
    else s)

/-- CORE_RETENTION. -/
def execCoreRetention (core : Nat) (s : State) : Host.Outcome State Fault Refusal :=
  .next (let k := s.core core
    if k.pow = .idle ∧ k.reti ≠ 0 ∧ k.idleSince + k.reti * 10000 ≤ s.now then
      s.setCore core { k with pow := .retention, entered := s.now, wakePend := false }
    else s)

/-- A scratchpad range of a context lies on the core: lines a context has written, a valid range-table entry that covers a byte
of it, or barriers there with waiters (R154, R448; log 37, log 86). -/
def State.spadOwned (s : State) (core : Nat) : Bool :=
  let a := localPa core 0
  s.ranges.any (fun e => bitN e.2.perm 3 && decide (e.2.base.toNat < a + spadSize) && decide (a ≤ e.2.limit.toNat))
  || !(s.core core).bwt.isEmpty || s.spads.any fun e => decide (a / 64 ≤ e.1) && decide (e.1 < (a + spadSize) / 64)

/-- The core holds nothing of any context (R448). -/
def State.coreEmpty (s : State) (core : Nat) : Bool :=
  let k := s.core core
  !(s.liveSlots.any fun t => decide (t.core = core))
  && !(s.groups.any fun e => decide (e.2.core = core) && decide (e.2.st = .running ∨ e.2.st = .exiting ∨ e.2.st = .spilled))
  && k.spillBlk.isEmpty && k.spillBank.isEmpty && k.boxes.isEmpty && k.chans.isEmpty && k.shapes.isEmpty
  && !s.spadOwned core

/-- CORE_GATED. -/
def execCoreGated (core : Nat) (s : State) : Host.Outcome State Fault Refusal :=
  .next (let k := s.core core
    if k.pow = .idle ∧ k.gati ≠ 0 ∧ k.idleSince + k.gati * 10000 ≤ s.now ∧ s.coreEmpty core = true then
      s.setCore core { k with pow := .gated, entered := s.now, wakePend := false }
    else s)

/-- CORE_WAKE_EVENT: something is to be done at a core that is not ON. -/
def execCoreWakeEvent (core : Nat) (s : State) : Host.Outcome State Fault Refusal :=
  .next (if s.coreBusy core then s.wakeCore core else s)

/-- Of two requests, the one whose hold ended first, then the lower core (R449). -/
def rampFirst (a b : Nat × Nat) : Nat × Nat := if b.1 < a.1 ∨ (b.1 = a.1 ∧ b.2 < a.2) then b else a

/-- INRUSH_GRANT: one ramp at a time in a cluster. -/
def execInrushGrant (cluster : Nat) (s : State) : Host.Outcome State Fault Refusal :=
  let cs := coresOf cluster
  let asks := cs.filterMap fun c =>
    let k := s.core c
    if k.wakePend && (decide (k.pow = .retention) || decide (k.pow = .gated)) && decide (k.entered + 20000 ≤ s.now) then
      some (k.entered + 20000, c)
    else none
  .next (if cs.any fun c => (s.core c).ramping then s
    else match asks with
      | [] => s
      | a :: l => s.modCore (l.foldl rampFirst a).2 fun k => { k with ramping := true, rampAt := s.now })

/-- A core that comes from GATED: core reset, with what is no storage of the core kept: its power register, its task queue and its stop
record (R440, R448; log 37). -/
def Core.afterGate (k : Core) : Core :=
  { Core.reset with freq := k.freq, freqNew := k.freqNew, reti := k.reti, gati := k.gati, taskq := k.taskq,
                    stop := k.stop, stopRec := k.stopRec, departs := k.departs }

/-- The forwarding entries of a core are gone with its contents: replies that would pass through them come without (R133, R448; log 37). -/
def State.forgetVia (s : State) (core : Nat) : State :=
  let less := fun (t : Thread) => { t with owed := t.owed.map fun o => { o with via := o.via.filter fun v => v.1 ≠ core } }
  { s with
    slots := s.slots.mapVals fun _ x => { x with th := less x.th },
    images := s.images.mapVals fun _ i => { i with th := less i.th },
    groups := s.groups.mapVals fun _ g => { g with saved := g.saved.map fun e => (less e.1, e.2) } }

/-- RAMP_END. -/
def execRampEnd (core : Nat) (s : State) : Host.Outcome State Fault Refusal :=
  .next (let k := s.core core
    if k.ramping ∧ k.rampAt + 500 ≤ s.now then
      let up := fun (k : Core) => { k with pow := .on, ramping := false, wakePend := false, busyAt := k.cyc }
      if k.pow = .gated then
        let s := (s.zero (localPa core 0) spadSize).forgetVia core
        (({ s with slots := s.slots.keep fun t _ => decide ((Tid.ofKey t).core ≠ core) } : State).setCore core (up k.afterGate)).raiseFloor core
      else (s.setCore core (up k)).raiseFloor core
    else s)

end Sys2Proof.Machine
end

