-- ==== Sys2Proof/Machine/Issue.lean ====
section
/-! DEFINITION. Issue: ISSUE_POSITION (09_thread_life R233 to R236; 11_thread_flow R284, R291; 19_core_power R439, R445), and what
stands between a position and the effect of an instruction: the fetch (01_lines R25 to R30), the checks of R34 to R36, pairs
(R50 to R53; 10_thread_scalar R478) and breakpoints (11_thread_flow R302). -/

namespace Sys2Proof.Machine

/-! ### Choosing a thread (R233) -/

/-- The thread may issue: READY, and no issue of its own in the previous 15 cycles. -/
def State.mayIssue (s : State) (t : Tid) : Bool :=
  decide ((s.slot t).st = .ready)
  && match (s.thread t).lastIssue with | some c => decide (c + 16 ≤ (s.core t.core).cyc) | none => true

/-- The position of the core's cycle is closed (R236). -/
def Core.closed (k : Core) : Bool := decide (k.fduty ≤ k.cyc % 16) || (decide (k.cyc % 2 = 1) && decide (k.cyc ≤ k.halve))

/-- A goes before B: higher effective priority, then earlier ready time (R233). -/
def State.before (s : State) (a b : Tid) : Bool :=
  let k := s.core a.core
  let pa := (s.thread a).effPrio k k.cyc
  let pb := (s.thread b).effPrio k k.cyc
  decide (pb < pa) || (decide (pa = pb) && decide ((s.thread a).readyAt < (s.thread b).readyAt))

/-- The best of some threads in rising slot order: the first of equals. -/
def State.best (s : State) : List Tid → Option Tid
  | [] => none
  | a :: l => match s.best l with
    | none => some a
    | some b => some (if s.before b a then b else a)

/-- The owner of the core's position, when the reservation holds and the owner may issue (R233, R235). -/
def State.owner (s : State) (core : Nat) : Option Tid :=
  let k := s.core core
  match k.resv.get? (k.cyc % 16) with
  | some (slot, from_) =>
    let t : Tid := { core := core, slot := slot }
    if decide (from_ ≤ k.cyc) && s.mayIssue t then some t else none
  | none => none

/-- The thread that issues in the core's cycle. -/
def State.pick (s : State) (core : Nat) : Option Tid :=
  if (s.core core).closed then none
  else (s.owner core).or (s.best (s.liveSlots.filter fun t => decide (t.core = core) && s.mayIssue t))

/-- An asynchronous trap is taken at the position: pending at a thread that is not privileged, or left pending by the entry to a
handler whose first instruction has not issued (R291). -/
def Thread.takesAsync (t : Thread) : Bool := !t.takeable.isEmpty

/-- The thread issues, or passes an annulled slot, in cycle `cyc`: its age starts anew (R233, R234, R239). -/
def Thread.issuesAt (t : Thread) (cyc : Nat) : Thread := { t with lastIssue := some cyc, readyAt := cyc, left := [] }

/-- A position in cycle `cyc` given to a thread: it takes a trap, which leaves its age alone, passes an annulled slot, or is marked
for issue (R239, R284, R291, R293). -/
def State.givePosition (s : State) (t : Tid) (cyc : Nat) : State :=
  let th := s.thread t
  if th.takesAsync then ((s.at_ t).asyncTrap).at_ s.cur
  else if th.a0 then s.setThread t ((th.issuesAt cyc).advance none false)
  else { s.setThread t (th.issuesAt cyc) with issueq := s.issueq ++ [(t, .whole)] }

/-- The core's clock goes on by one cycle; at a rotation boundary a new frequency begins its ramp (R439). -/
def Core.tickOn (k : Core) (busy : Bool) : Core :=
  { k with cyc := k.cyc + 1, busyAt := if busy then k.cyc else k.busyAt,
           freqRamp := k.freqRamp || (decide (k.cyc % 16 = 0) && k.freqNew.isSome) }

/-- ISSUE_POSITION. -/
def execIssuePosition (core : Nat) (s : State) : Host.Outcome State Fault Refusal :=
  .next (let k := s.core core
    if core < 256 ∧ k.clockRuns = true then
      let who := s.pick core
      let s := s.setCore core (k.tickOn (s.coreBusy core))
      match who with
      | none => s
      | some t => s.givePosition t k.cyc
    else s)

/-! ### Fetch (R25, R29) -/

/-- What a fetch gives. -/
inductive Fetched where
  | line (d : List Byte) (s : State)
  | stop (s : State)
deriving DecidableEq, Repr

/-- A line of this chip read at its home for the executing thread; one of HBM4E fills the cluster cache (R29, R110). -/
def State.fetchHome (s : State) (line : Target) (home : Nat) (pc : Word) : Fetched :=
  if s.eccHit home 64 then .stop (s.trapFetch .ecc pc)
  else
    let d := s.bytes home 64
    .line d (if place line.pa = .hbm then s.fillLine (clusterOf s.cur.core) line.chip line.pa d else s)

/-- The line of the executing thread's PC (check 1 of R34): from the cluster cache where it holds the line, else from home,
whose bandwidth class, refresh window or moving page can make the fetch wait (R29, R109, R206, R412). That the faulting address of
every fault of the fetch, ECC among them, is the PC and not the address of the line is the model's choice (R34, R114; log 40). -/
def State.fetch (s : State) : Fetched :=
  let pc := s.me.pc
  -- a fetch that waits has not passed the later checks yet
  let waits := fun (s' : State) => Fetched.stop (s'.modMe fun t => { t with reissue := s.me.reissue })
  if 2 ^ 48 ≤ pc.toNat then .stop (s.trapFetch .addr pc)
  else match s.xlate pc.toNat with
    | .wait s' => waits s'
    | .fault c _ s => .stop (s.trapFetch c pc)
    | .ok e s =>
      let line : Target := { chip := pteChip e.pte.toNat, pa := e.pa (pcLine pc), bwc := some (pteBwc e.pte.toNat), loc := false }
      match permCheck s s.me.ctx e.pte.toNat line.pa .fetch with
      | some c => .stop (s.trapFetch c pc)
      | none =>
        let shut := match place line.pa with | .wstore _ => !s.wsReadable s.me.ctx line.pa | _ => false
        if shut then .stop (s.trapFetch .prot pc)
        else match (if place line.pa = .hbm then s.cached (clusterOf s.cur.core) s.chip line.pa else none) with
          | some d => .line d s
          | none =>
            match s.fetchGate s.cur line with
            | .go home s => s.fetchHome line home pc
            | .later s' => waits (s'.stallOn (.fetch line))
            | .full => waits (s.stallOn (.fetch line))
            | .refused _ => .stop (s.trapFetch .addr pc)

/-! ### The line (R26 to R28) -/

/-- The line word. -/
def lineWord (d : List Byte) : Nat := getLe d 60 4

/-- Slot `i` of a line. -/
def slotOf (d : List Byte) (i : Nat) : Slot96 := BitVec.ofNat 96 (getLe d (12 * i) 12)

/-- The line word is good (check 2 of R34). -/
def lineOk (w : Nat) : Bool :=
  decide (fld w 30 2 = 2) && decide (fld w 9 15 = 0) && decide (fld w 5 4 ≤ 7) && decide (parity 24 w = bitN w 29)

/-- The parity bit of slot `i` is correct (check 4). -/
def slotParity (d : List Byte) (i : Nat) : Bool := decide (parity 96 (slotOf d i).toNat = bitN (lineWord d) (24 + i))

/-- The slots that begin a pair under a template (R28). -/
def pairHeads : Nat → List Nat
  | 1 => [0] | 2 => [1] | 3 => [2] | 4 => [3] | 5 => [0, 2] | 6 => [0, 3] | 7 => [1, 3] | _ => []

/-- A slot's instruction, when its encoding is assigned and its zero fields are zero (check 6). -/
def slotInstr (d : List Byte) (i : Nat) : Option Instr :=
  match decode (slotOf d i) with
  | .ok x => some x
  | .error _ => none

/-! ### The checks of R34 -/

/-- What the checks end with: a trap or a wait, or the instruction to run. -/
inductive Prepared where
  | stop (s : State)
  | run (i : Instr) (s : State)
deriving DecidableEq, Repr

/-- The slot at PC is the breakpoint's, for the first time (R302). -/
def Thread.breaks (t : Thread) : Bool :=
  !t.reissue && t.bkpt.getLsbD 63 && decide (fld t.bkpt.toNat 0 48 = t.pc.toNat)

/-- The breakpoint, before checks 4 to 9 (R302). -/
def State.breakThen (s : State) (k : State → Prepared) : Prepared :=
  if s.me.breaks then
    (if s.me.bsk then k (s.modMe fun t => { t with bsk := false }) else .stop (s.trap .break_ s.me.pc))
  else k s

/-- Checks 3 and 4 of the slot at PC in its line, with the breakpoint between them; `k` follows with the slot's number. -/
def State.slotChecks (s : State) (d : List Byte) (k : Nat → State → Prepared) : Prepared :=
  let t := s.me
  let i := pcSlot t.pc
  if t.k0 && !t.reissue && !bitN (lineWord d) i then .stop (s.trap .btm t.pc)
  else s.breakThen fun s =>
    if !slotParity d i then .stop (s.trap .line (word (pcLine s.me.pc))) else k i s

/-- Checks 1 to 4 of the slot at PC; `k` follows with the line and the slot's number. -/
def State.lineChecks (s : State) (k : List Byte → Nat → State → Prepared) : Prepared :=
  match s.fetch with
  | .stop s => .stop s
  | .line d s =>
    if !lineOk (lineWord d) then .stop (s.trap .line (word (pcLine s.me.pc)))
    else s.slotChecks d (k d)

/-- The slot at PC and the next one issue together (R52). -/
def Thread.pairs (t : Thread) (d : List Byte) (i : Nat) : Bool :=
  (pairHeads (fld (lineWord d) 5 4)).contains i && decide (t.npc = nextPc t.pc) && !t.a1

/-- The guard of a half is true: for a vector instruction with an x register, some lane it names is enabled (R306, R478). -/
def Thread.halfOn (t : Thread) (i : Instr) : Bool :=
  match i with
  | .vbcst g ty _ _ | .vidx g ty _ _ _ | .vld g ty _ _ _ | .vst g ty _ _ _ | .vldg g ty _ _ _ _ | .vsts g ty _ _ _ _ => t.anyLane g ty.lanes
  | .vins g _ _ _ k | .vextr g _ _ _ k => t.laneOn g k.val
  | i => match guardOf i with | some g => t.guard g | none => true

/-- The x registers for which a pair waits as one (R478). -/
def Thread.pairRegs (t : Thread) (a b : Instr) : List XReg :=
  (if t.halfOn a then xregsOf a else []) ++ (if t.halfOn b then xregsOf b else [])

/-- The slot at PC, or the pair that begins there: checks 1 to 6 (R34, R36, R51, R52). Check 7 is made by the meaning. -/
def State.prepareWhole (s : State) : Prepared :=
  s.lineChecks fun d i s =>
    let t := s.me
    match slotInstr d i with
    | none => .stop (s.trap .ill t.pc)
    | some a =>
      if t.pairs d i then
        match slotInstr d (i + 1) with
        | none => .run a (s.modMe fun t => { t with pairRest := true, pairLine := d })
        | some b =>
          if !pairLegal a b then .stop (s.trap .pair t.pc)
          else match t.firstOwed (t.pairRegs a b) with
            | some r => .stop (s.blockOn (.owed r))
            | none => .run a (s.modMe fun t => { t with pairRest := true, pairLine := d })
      else .run a (s.modMe fun t => { t with pairRest := false })

/-- The second half of a pair, after the first has committed: checks 3, 4 and 6, in the line from which the pair issued (R36). -/
def State.prepareSecond (s : State) : Prepared :=
  s.slotChecks s.me.pairLine fun i s =>
    let d := s.me.pairLine
    match slotInstr d i with
    | none => .stop (s.trap .ill s.me.pc)
    | some a => .run a s

/-- An issue mark of the executing thread. -/
def State.prepare (s : State) : Half → Prepared
  | .whole => s.prepareWhole
  | .second => s.prepareSecond

end Sys2Proof.Machine
end

