-- ==== Sys2Proof/Machine/EvEngine.lean ====
section
/-! DEFINITION. The events of the engine ports: COMMAND_START (15_port R373), COMMAND_COMPLETE (15_port R368, R369;
04_order R128), PASS_STOP (13_tile R334, R335). An event that is not enabled leaves the state unchanged (log 2). -/

namespace Sys2Proof.Machine

/-- COMMAND_START. -/
def execCommandStart (core cmd : Nat) (s : State) : Host.Outcome State Fault Refusal :=
  .next (match s.cmd? core cmd with
    | some c => if !c.started && s.engRuns core && s.mayStart core c then s.startCmd core c else s
    | none => s)

/-- Every earlier copy-port command of a marker's thread has completed (R383). -/
def State.markerDone (s : State) (core : Nat) (c : Cmd) : Bool :=
  s.afterDone c && ((s.core core).cmds.all fun d =>
    !(d.copy && decide (d.tid = c.tid) && decide (d.gen = c.gen) && decide (d.id < c.id)))

/-- The tile after a TSAVE: SAVED, or the blocks are those of the TREST queued next (R325, R345). -/
def Tile.saved (x : Tile) : Tile :=
  let y : Tile := { x.emptied with st := x.st, desc := if x.next.isEmpty then none else x.desc }
  { y with blocks := x.next.head?.getD [], next := x.next.tail }

/-- A TSAVE's completion leaves its tile SAVED, its blocks zeroed and returned (R325). -/
def State.tsaveEnd (s : State) (core : Nat) (c : Cmd) : State :=
  match c.op with
  | .tsave t _ _ _ => if s.tileGone c then s else (s.zeroBlocks core (s.tile c.own t).blocks).modTile c.own t Tile.saved
  | _ => s

/-- The command completes once it has been performed and every packet of it is answered (R128). -/
def State.completeIf (s : State) (core cmd : Nat) : State :=
  match s.cmd? core cmd with
  | some c => if c.did && !s.cmdOut core cmd then (s.tsaveEnd core c).finishCmd core c else s
  | none => s

/-- A pass with a failed read of another chip does not complete: it stops (R334). One with a failing read on this chip as well completes,
as R347 gives: the rules do not say which holds, and this is the model's choice (log 102). -/
def State.mustStop (s : State) (core : Nat) (c : Cmd) : Bool :=
  match c.op with
  | .mma t p from_ => (s.pieceErr core c false).isSome && (s.passErr core c (s.tile c.own t) p from_).isNone
  | _ => false

/-- COMMAND_COMPLETE: what is left of the command is performed as far as its homes allow, and it completes when nothing
of it is left. -/
def execCommandComplete (core cmd : Nat) (s : State) : Host.Outcome State Fault Refusal :=
  .next (match s.cmd? core cmd with
    | none => s
    | some c =>
      if !s.engRuns core then s
      else if c.isMarker then (if s.markerDone core c then s.finishCmd core c else s)
      else if !c.started then s
      else if c.did then s.completeIf core cmd
      else if c.copy then (s.runCopy core cmd).completeIf core cmd
      else if s.tileFirst core c && !s.tileHeld c then
        match s.gather core cmd with
        | (false, s) => s
        | (true, s) => match s.cmd? core cmd with
          | some c => if s.mustStop core c then s else (s.runTile core c).completeIf core cmd
          | none => s
      else s)

/-- Chunks of a pass, counted from its first, whose B reads have all returned and whose predecessors have (R334). -/
def foldable (c : Cmd) (p : Pass) (from_ : Nat) : Nat :=
  if isFp8 (mfA p.fmt) then 0
  else
    let e := fmtBytes (mfB p.fmt)
    let have_ := fun (ch : Nat) => (List.range (32 * (p.nbm + 1))).all fun j =>
      let va := p.xb.toNat + j * p.xc.toNat
      (cut (va + 32 * e * from_) ((kLen p.k - 32 * from_) * e)).all fun q =>
        decide (q.1 + q.2 ≤ va + 32 * e * ch) || decide (va + 32 * e * (ch + 1) ≤ q.1)
        || c.hasPiece q
    from_ + (((List.range (kLen p.k / 32)).drop from_).takeWhile have_).length

/-- The tile an instruction names, when it observes a pass stopped on it (R335). -/
def observes : Instr → Option TileNo
  | .tload _ _ _ t _ _ _ _ _ | .tstore _ _ _ t _ _ _ _ _ | .tread _ t _ _ _ _ | .twrite _ t _ _ _ _ | .midx _ t _ _ _
  | .mma _ _ t _ _ _ _ _ | .mcnt _ _ _ t _ _ _ _ | .mdrn _ _ _ t _ _ => some t
  | _ => none

/-- The bytes of the line at which a waiting thread stands, as its fetch read them: from the local window, or through its page
tables, whether or not a TLB still holds the translation (R29, R405). -/
def State.lineOf (s : State) (t : Tid) : Option (List Byte) :=
  let a := (s.thread t).pc.toNat / 64 * 64
  if a < spadSize then some (s.bytes (localPa t.core a) 64)
  else match s.walk (s.thread t).ctx a with
    | .leaf pte size =>
      let g : Target := { chip := pteChip pte.toNat, pa := pteFrame pte.toNat + a % size, bwc := none, loc := false }
      (s.lineAt t.core g).or (if g.chip = s.chip then some (s.bytes (s.livePa g.pa) 64) else none)
    | .fail _ _ => none

/-- The instruction at which a thread waits names tile `t` of table `own` and observes a pass stopped on it. -/
def State.waitsAtTile (s : State) (who : Tid) (own t : Nat) : Bool :=
  let u := s.at_ who
  match (s.lineOf who).bind fun d => (slotInstr d (pcSlot u.me.pc)).bind observes with
  | some n => decide (n.val = t) && decide (u.tileOwner t false = some own)
  | none => false

/-- The command of a thread that waits for it in its .w form names the tile as an observer. -/
def State.waitsBehind (s : State) (c : Cmd) (tag own t : Nat) : Bool :=
  (s.cmdsOf c.tid).any fun d => decide (d.tag = tag) && decide (d.own = own) && (match d.op with
    | .mcnt _ n _ => decide (n = t)
    | .tsave _ _ _ _ | .trest _ _ _ _ => false
    | op => decide (op.tile? = some t))

/-- The observer that waits when a pass stops (R335): the MMA.w or MRES.w of the pass, a SEMW on its counter, or an instruction
that names the tile. -/
def State.stopObserver (s : State) (c : Cmd) (own t : Nat) : Bool :=
  let x := s.slot c.tid
  x.st.live && decide (x.gen = c.gen) && (match x.th.wait with
    | .none => false
    | .op (.cmd tag) => decide (tag = c.tag) || s.waitsBehind c tag own t
    | .block (.semw k _) => ((s.at_ c.tid).semwTiles k).contains (own, t)
    | _ => s.waitsAtTile c.tid own t)

/-- The command for which a waiting thread stays in STALL: as an observer it has no effect (R335). -/
def State.waitedCmd (s : State) (c : Cmd) : Option Nat :=
  match (s.thread c.tid).wait with
  | .op (.cmd tag) => ((s.cmdsOf c.tid).find? fun d => d.tag = tag).map (·.id)
  | _ => none

/-- The pass leaves its port: entries released, packets no longer awaited, nothing added (R334). -/
def State.dropPass (s : State) (core id : Nat) : State :=
  let s := s.modCore core fun k => { k with cmds := k.cmds.filter fun d => d.id ≠ id }
  { s with txs := s.txs.filter fun t => match t.what with | .word k i _ => !(decide (k = core) && decide (i = id)) | _ => true }

/-- A pass stops: `folded` is the progress P, `status` and `va` the failing read of operand B on another chip (R334, R335). -/
def State.passStop (s : State) (core : Nat) (c : Cmd) (t : Nat) (p : Pass) (from_ folded : Nat) (status : Status) (va : Nat) : State :=
  let failing := match c.buf.get? va with | some (st, _) => decide (st = status) && decide (st ≠ .ok) | none => false
  if !(failing && decide (folded = foldable c p from_) && s.mustStop core c) then s
  else
    let x := s.tile c.own t
    let (sa, sb) := c.scales p
    let y := c.fold x p from_ folded
    let s := if from_ < folded then s.accFresh core x (rangeEntries (32 * p.cb) (32 * (p.nbm + 1))) else s
    let s := (s.modTile c.own t fun _ =>
      if c.orphan then y.abandon
      else { y with part := true, dlv := false, prog := folded, pass := some { p with sa := sa, sb := sb },
                    stop := some (status, word va), stopAt := (s.core core).nextCmd }).dropPass core c.id
    if !c.orphan && s.stopObserver c c.own t then
      let s := match s.waitedCmd c with | some id => s.dropPass core id | none => s
      ((s.at_ c.tid).remop c.own t).at_ s.cur
    else s

/-- PASS_STOP. -/
def execPassStop (core cmd folded : Nat) (status : Status) (va : Nat) (s : State) : Host.Outcome State Fault Refusal :=
  .next (match s.cmd? core cmd with
    | none => s
    | some c =>
      if !(c.started && !c.did && s.engRuns core && s.tileFirst core c && !s.tileHeld c) then s
      else
        let s := (s.gather core cmd).2
        match s.cmd? core cmd with
        | none => s
        | some c => match c.op with
          | .mma t p from_ => s.passStop core c t p from_ folded status va
          | _ => s)

end Sys2Proof.Machine
end

