-- ==== Sys2Proof/Machine/EvEther.lean ====
section
/-! DEFINITION. The events of the two Ethernet ports (18_link R437). An event that is not enabled leaves the state unchanged
(log 2). -/

namespace Sys2Proof.Machine

/-- Ethernet port `q`. -/
def State.eth (s : State) (q : Nat) : Eth := s.eths.getD q Eth.reset

/-- `s` with port `q` replaced. -/
def State.setEth (s : State) (q : Nat) (x : Eth) : State := { s with eths := s.eths.set q x }

/-- The port leaves a state for another at this time. -/
def Eth.goTo (x : Eth) (st : EthSt) (now : Nat) : Eth := { x with st := st, since := now, retry := false, speed := 0 }

/-- The first state of a port that starts: negotiation, or straight to training for AUI. -/
def Eth.start (x : Eth) (now : Nat) : Eth := x.goTo (if x.aui then .train else .neg) now

/-- An event of a port that is enabled under a condition. -/
def ethEvent (q : Nat) (ok : Eth → Bool) (f : Eth → Eth) (s : State) : Host.Outcome State Fault Refusal :=
  .next (if q < 2 ∧ ok (s.eth q) = true then s.setEth q (f (s.eth q)) else s)

/-- ETHERNET_ENABLE. -/
def execEthernetEnable (q : Nat) (aui : Bool) (s : State) : Host.Outcome State Fault Refusal :=
  ethEvent q (fun x => decide (x.st = .down)) (fun x => ({ x with aui := aui } : Eth).start s.now) s

/-- ETHERNET_DISABLE. -/
def execEthernetDisable (q : Nat) (s : State) : Host.Outcome State Fault Refusal :=
  ethEvent q (fun _ => true) (fun x => x.goTo .down s.now) s

/-- ETHERNET_AGREEMENT. -/
def execEthernetAgreement (q : Nat) (s : State) : Host.Outcome State Fault Refusal :=
  ethEvent q (fun x => decide (x.st = .neg)) (fun x => x.goTo .train s.now) s

/-- ETHERNET_TRAINED: at 800 Gb/s on four lanes, or 400 Gb/s on two (R436). -/
def execEthernetTrained (q : Nat) (fast : Bool) (s : State) : Host.Outcome State Fault Refusal :=
  ethEvent q (fun x => decide (x.st = .train)) (fun x => { x.goTo .up s.now with speed := if fast then 2 else 1 }) s

/-- ETHERNET_NEG_TIMEOUT: 500 ms without success. -/
def execEthernetNegTimeout (q : Nat) (s : State) : Host.Outcome State Fault Refusal :=
  ethEvent q (fun x => (decide (x.st = .neg) || decide (x.st = .train)) && decide (x.since + 500000000 ≤ s.now))
    (fun x => { x.goTo .down s.now with retry := true }) s

/-- ETHERNET_RETRY: 1 s after it. -/
def execEthernetRetry (q : Nat) (s : State) : Host.Outcome State Fault Refusal :=
  ethEvent q (fun x => decide (x.st = .down) && x.retry && decide (x.since + 1000000000 ≤ s.now)) (fun x => x.start s.now) s

/-- ETHERNET_FAULT. -/
def execEthernetFault (q : Nat) (s : State) : Host.Outcome State Fault Refusal :=
  ethEvent q (fun x => decide (x.st = .up)) (fun x => { x with st := .fault, since := s.now }) s

/-- ETHERNET_FAULT_CLEAR: within 100 ms. -/
def execEthernetFaultClear (q : Nat) (s : State) : Host.Outcome State Fault Refusal :=
  ethEvent q (fun x => decide (x.st = .fault) && decide (s.now < x.since + 100000000)) (fun x => { x with st := .up, since := s.now }) s

/-- ETHERNET_FAULT_TIMEOUT. -/
def execEthernetFaultTimeout (q : Nat) (s : State) : Host.Outcome State Fault Refusal :=
  .next (if q < 2 ∧ (s.eth q).st = .fault ∧ (s.eth q).since + 100000000 ≤ s.now then
    (s.setEth q ((s.eth q).goTo .down s.now)).irq
  else s)

end Sys2Proof.Machine
end

