-- ==== Sys2Proof/Machine/Farrier.lean ====
section
/-! DEFINITION. Requests of the Farrier (20_image R450 to R459): the mailboxes, the bytes of a request, answers, and what the
requests of R458 share: arguments, contexts, ranges. -/

namespace Sys2Proof.Machine

/-! ### Answers -/

/-- What serving a request gives. `ready` is false when the reply waits for an effect. -/
structure Answer where
  st : Status
  r0 : Word
  r1 : Word
  data : List Byte
  ready : Bool
  s : State
deriving DecidableEq, Repr

/-- Refused: nothing changes (R457). -/
def refuseReq (st : Status) (s : State) : Answer := { st := st, r0 := 0, r1 := 0, data := [], ready := true, s := s }

/-- Accepted, with R0 and R1. -/
def acceptReq (r0 r1 : Word) (s : State) : Answer := { st := .ok, r0 := r0, r1 := r1, data := [], ready := true, s := s }

/-- Accepted without a result. -/
def doneReq (s : State) : Answer := acceptReq 0 0 s

/-- Accepted; the reply waits for acknowledgements. -/
def waitReq (r0 : Word) (s : State) : Answer := { st := .ok, r0 := r0, r1 := 0, data := [], ready := false, s := s }

/-- Argument `i`. -/
def Req.arg (r : Req) (i : Nat) : Nat := (r.args.getD i 0).toNat

/-- A meaning of a request: from its interface and number. -/
abbrev Serve := Nat → Nat → Req → State → Answer

/-- A request that names no context (R457). -/
def noCtx (f : Serve) : Serve := fun i k r s => if r.ctx ≠ 0 then refuseReq .fault s else f i k r s

/-- A request that names a context of its interface, which is OPEN (R139, R457). -/
def ofCtx (f : Serve) : Serve := fun i k r s =>
  if 256 ≤ r.ctx then refuseReq .fault s
  else if (s.ctx r.ctx).st ≠ .opened ∨ (s.ctx r.ctx).iface ≠ i then refuseReq .denied s
  else f i k r s

/-- A request that only the physical function may make (R457, R458). -/
def ofPf (f : Serve) : Serve := noCtx fun i k r s => if i ≠ 0 then refuseReq .denied s else f i k r s

/-- Arguments in their ranges, or FAULT (R457). -/
def inRange (ok : Req → Bool) (f : Serve) : Serve := fun i k r s => if ok r then f i k r s else refuseReq .fault s

/-- A power of two from `lo` to `hi`. -/
def pow2In (n lo hi : Nat) : Bool := decide (lo ≤ n) && decide (n ≤ hi) && decide (2 ^ Nat.log2 n = n)

/-! ### Service (R450, R456) -/

/-- The Farrier takes requests; while an image is checked they wait (log 28). -/
def Farrier.takes (f : Farrier) : Bool := (decide (f.st = .run) || decide (f.st = .unowned)) && f.check.isNone

/-- A reply slot of the mailbox is free (R456). -/
def ReqBox.room (b : ReqBox) : Bool := decide (b.rptail - b.rphead < 32)

/-- A slot that nothing has written. -/
def Req.zero : Req := { code := 0, reqId := 0, ctx := 0, args := [], clean := true, buf := none }

/-- A request with its fourteen arguments (R457). -/
def Req.whole (r : Req) : Req := { r with args := (List.range 14).map fun i => r.args.getD i 0 }

/-- The bytes of a request (R457); a zero field that is not zero shows in byte 2. -/
def Req.bytes (r : Req) : List Byte :=
  bytesOf 2 r.code ++ bytesOf 2 (b2n (!r.clean)) ++ bytesOf 4 r.reqId ++ bytesOf 8 r.ctx ++ (Req.whole r).args.flatMap fun a => bytesOf 8 a.toNat

/-- The request that 128 bytes are. The host's buffer is not in them (R457, R459). -/
def Req.parse (l : List Byte) (buf : Option (List Byte)) : Req :=
  { code := getLe l 0 2, reqId := getLe l 4 4, ctx := getLe l 8 8, args := (List.range 14).map fun i => word (getLe l (16 + 8 * i) 8),
    clean := decide (getLe l 2 2 = 0), buf := buf }

/-- The reply to request `k`. -/
def State.sendReply (s : State) (iface k : Nat) (r : Req) (a : Answer) : State :=
  s.reply iface k a.ready { code := r.code, status := a.st, reqId := r.reqId, r0 := a.r0, r1 := a.r1, data := a.data }

/-- What a request meets: a zero field that is not zero, or its meaning (R457). -/
def Serve.answer (f : Serve) (iface k : Nat) (r : Req) (s : State) : Answer :=
  if r.clean then f iface k (Req.whole r) s else refuseReq .fault s

/-- A request taken from its mailbox is served as one transaction and answered. Where the journal lacks room for it after a CHECKPOINT
too, it is refused (R450, R453, R456). -/
def State.serveReq (s : State) (iface : Nat) (r : Req) (f : Serve) : State :=
  let k := (s.reqBox iface).head
  let s := s.modReqBox iface fun b => { b with head := b.head + 1 }
  let a := f.answer iface k r s
  if a.st = .ok then
    match a.s.far.journalTx iface r.reqId (pieceChanges s.pieces a.s.pieces) with
    | some j => ({ a.s with far := j } : State).sendReply iface k r a
    | none => ({ s with far := s.far.checkpoint } : State).sendReply iface k r (refuseReq .full s)
  else a.s.sendReply iface k r a

/-- The host writes one request into the mailbox (R456). -/
def State.postReq (s : State) (iface : Nat) (r : Req) : State :=
  s.modReqBox iface fun b => { b with slots := b.slots.set (b.tail % 32) r, tail := b.tail + 1 }

/-- A request of one code arrives at a mailbox in which none waits, and is taken at once: the mailboxes of the other
interfaces hold none that came before it (R450, R456). -/
def State.request (s : State) (code iface : Nat) (r : Req) (f : Serve) : State :=
  let b := s.reqBox iface
  if r.code = code ∧ iface < 64 ∧ s.far.takes = true ∧ s.far.order = [] ∧ b.tail = b.head ∧ b.room = true then
    (s.postReq iface r).serveReq iface r f
  else s

/-! ### Ranges of virtual memory -/

/-- The leaf of a page (R401): frame, size code, chip and permission bits as A1 of MAP gives them. -/
def leafOf (chip frame sz a1 : Nat) : Word :=
  word (2 ^ 63 + sz * 2 ^ 59 + chip * 2 ^ 49 + frame + fld a1 4 4 * 2 ^ 8 + b2n (bitN a1 8) * 2 ^ 7 + b2n (bitN a1 9) * 2 ^ 6
    + b2n (bitN a1 10) * 2 ^ 5 + b2n (bitN a1 11) * 2 ^ 4 + b2n (bitN a1 12) * 2 ^ 2)

/-- Bytes of a size code. -/
def szBytes (sz : Nat) : Nat := match szInfo sz with | some (_, n, _) => n | none => 0

/-- The leaf of a page cleared in all its replicas. -/
def State.clearLeaf (s : State) (c va sz : Nat) : State := (s.writeLeaf c va sz 0).getD s

/-! ### The weight store (R106, R481) -/

/-- Ranges [a, a + n) and [b, b + m) share a byte. -/
def meets (a n b m : Nat) : Bool := decide (a < b + m) && decide (b < a + n)

/-- A CPYW command into the range is in flight (R106). -/
def State.cpywInto (s : State) (base size : Nat) : Bool :=
  s.cores.any fun e => e.2.cmds.any fun c => match c.op with
    | .cpyw _ _ _ dst _ => dst.any fun g => decide (g.tgt.chip = s.chip) && meets g.tgt.pa g.len base size
    | _ => false

/-- The thread belongs to a launch in PROLOGUE, RUNNING or DRAINING. -/
def State.kernelRuns (s : State) (launch : Option Nat) : Bool :=
  match launch with
  | some k => match s.launchSt k with
    | .prologue | .running | .draining => true
    | _ => false
  | none => false

/-- An access or fetch of the thread to the range is in flight. -/
def State.touches (s : State) (th : Thread) (base size : Nat) : Bool :=
  let hit := fun (t : Target) (n : Nat) => decide (t.chip = s.chip) && meets t.pa n base size
  (match th.wait with
    | .op (.mem parts _) => parts.any fun p => p.got.isNone && hit p.tgt p.n
    | .retry (.fetch line) => hit line 64
    | _ => false) || th.owed.any fun o => o.got.isNone && hit o.tgt (ldBytes o.w)

/-- Threads of a context whose state is saved, in images and groups (R258). -/
def State.savedThreads (s : State) (c : Nat) : List Thread :=
  ((s.images.vals.map (·.th)) ++ s.groups.vals.flatMap fun g => g.saved.map (·.1)).filter fun th => decide (th.ctx = c)

/-- A translation of the region is held for a running kernel (R481). -/
def State.regionHeld (s : State) (c base size : Nat) : Bool :=
  let entry := fun (e : TlbE) => decide (e.ctx = c) && decide (pteChip e.pte.toNat = s.chip) && meets (pteFrame e.pte.toNat) e.size base size
  let thr := fun (core : Nat) (th : Thread) =>
    decide (th.ctx = c) && s.kernelRuns th.launch
    && ((s.core core).tlb.any entry || (s.cluster (clusterOf core)).l2.any entry || s.touches th base size)
  s.liveSlots.any (fun t => thr t.core (s.thread t))
  || (s.savedThreads c).any (fun th => s.kernelRuns th.launch && s.touches th base size)
  || s.cores.any fun e => e.2.cmds.any fun d => decide (d.ctx = c) && s.kernelRuns d.launch
      && (d.op.srcSegs ++ d.op.dstSegs).any fun g => decide (g.tgt.chip = s.chip) && meets g.tgt.pa g.len base size

end Sys2Proof.Machine
end

