-- ==== Sys2Proof/Machine/FarCtx.lean ====
section
/-! DEFINITION. Requests for contexts, launch queues and completion rings (20_image R458; 05_context R138 to R150, R479,
R480; 06_queue R158, R162): CTX_OPEN, CTX_CLOSE, CTX_KILL, LQ_CREATE, LQ_PAUSE, LQ_RESUME, LQ_DELETE, RING_READ,
RING_RELEASE, BUDGET_SET. -/

namespace Sys2Proof.Machine

/-! ### CTX_OPEN (R480) -/

/-- The arguments of CTX_OPEN are in their ranges (R458). -/
def openOk (r : Req) : Bool :=
  let a := Req.arg r
  decide (a 0 < 2 ^ 17) && (decide (a 2 = 0) || (decide (1000 ≤ a 2) && decide (a 2 ≤ 60000000)))
  && decide (a 3 % 65536 = 0) && pow2In (a 4) 64 65536
  && decide (a 5 = fld (a 5) 0 9 + fld (a 5) 24 17 * 2 ^ 24) && decide (fld (a 5) 0 9 ≤ 256) && decide (fld (a 5) 24 17 ≤ 65536)
  && decide (a 6 = fld (a 6) 0 6 + fld (a 6) 8 5 * 2 ^ 8 + fld (a 6) 16 7 * 2 ^ 16 + fld (a 6) 32 9 * 2 ^ 32)
  && decide (fld (a 6) 0 6 ≤ 32) && decide (fld (a 6) 8 5 ≤ 16) && decide (fld (a 6) 16 7 ≤ 64) && decide (fld (a 6) 32 9 ≤ 256)
  && decide (a 9 < 2 ^ 16) && decide (1 ≤ a 10) && decide (a 10 ≤ 4096) && decide (a 11 ≤ 65536)

/-- The quotas that CTX_OPEN asks for (R142, R458). -/
def quotaOf (r : Req) : Quota :=
  let a := Req.arg r
  { slotsCore := fld (a 5) 0 9, slotsDev := fld (a 5) 24 17, blocks := fld (a 6) 0 6, banks := fld (a 6) 8 5,
    boxes := fld (a 6) 16 7, chans := fld (a 6) 32 9, wstore := a 7, frames := a 8, bwMask := a 9, launches := a 10,
    qps := a 11, save := a 3 }

/-- Quotas of the contexts an interface holds. -/
def State.quotasOf (s : State) (iface : Nat) : List Quota :=
  (s.ctxs.filter fun e => decide (e.2.st ≠ .free) && decide (e.2.iface = iface)).map (·.2.quota)

/-- The quotas fit in what is left of the interface's budget (R140). The physical function has none; row 0 of a budget holds
slots per core in [23:0] and on the device in [63:24], and row 5 a mask (log 29). That a budget no BUDGET_SET has set is 0 in every
row is the model's choice: R140 gives it no value (log 95). -/
def State.budgetOk (s : State) (iface : Nat) (q : Quota) : Bool :=
  let all := q :: s.quotasOf iface
  let row := fun (i : Nat) => s.far.budgets.getD (iface * 16 + i) 0
  let sum := fun (f : Quota → Nat) => (all.map f).sum
  decide (iface = 0)
  || (decide (sum (·.slotsCore) ≤ fld (row 0) 0 24) && decide (sum (·.slotsDev) ≤ fld (row 0) 24 40)
      && decide (sum (·.blocks) ≤ row 1) && decide (sum (·.banks) ≤ row 2) && decide (sum (·.wstore) ≤ row 3)
      && decide (sum (·.frames) ≤ row 4) && decide (q.bwMask &&& row 5 = q.bwMask) && decide (sum (·.boxes) ≤ row 6)
      && decide (sum (·.chans) ≤ row 7) && decide (sum (·.launches) ≤ row 8) && decide (sum (·.qps) ≤ row 9)
      && decide (sum (·.save) ≤ row 10))

/-- A buffer of HBM4E of `n` bytes aligned on `al`, for a use (R144): 2 a ring, 3 a save area. Context 256 is the
Farrier. -/
def State.takeBuffer (s : State) (n al ctx use : Nat) : Option (Nat × State) :=
  let ok := fun (pa : Nat) => decide (pa % al = 0) && decide (pa + n ≤ hbmSize)
    && s.usedFrames.all fun u => decide (u.1 + u.2 ≤ pa) || decide (pa + n ≤ u.1)
  let any := Config.frameChoice s.tick % (hbmSize / al) * al
  ((any :: 0 :: s.usedFrames.map fun u => ceilDiv (u.1 + u.2) al * al).find? ok).map fun pa =>
    (pa, if n = 0 then s else { s with frames := s.frames ++ [{ pa := pa, size := n, ctx := ctx, use := use }], tick := s.tick + 1 })

/-- A position of the interface that no context holds (R139). -/
def State.freePos (s : State) (iface : Nat) : Option Nat :=
  (List.range 16).find? fun p => (s.ctxAt iface p).isNone

/-- CTX_OPEN: the refusals in the order of R480; then the lowest free number and position (log 31). FULL after them, for want of a
ring number or of frames for the buffers, is the model's choice: R480 has no row for it (log 95). -/
def serveOpen : Serve := noCtx (inRange openOk fun iface _ r s =>
  let tag := Req.arg r 0 % 65536
  let q := quotaOf r
  match s.ctxs.lowestFree 256, s.freePos iface with
  | some c, some pos =>
    if (s.ctxOfTag tag).isSome then refuseReq .denied s
    else if !s.budgetOk iface q then refuseReq .quota s
    else
      let made : Option Answer :=
        (s.rings.lowestFree 65536).bind fun ring =>
        (s.takeFrame 4096 c 1).bind fun root =>
        ((root.2.zero root.1 4096).takeBuffer (Req.arg r 3) 65536 c 3).bind fun save =>
        (save.2.takeBuffer (Req.arg r 4 * 32) 64 256 2).map fun buf =>
          let s := buf.2
          let k : Context := { Context.reset with
            st := .opened, tag := tag, iface := iface, pos := pos, tvec := r.args.getD 1 0, spread := bitN (Req.arg r 0) 16,
            period := Req.arg r 2, wdStart := s.now, quota := q, root := root.1, ring := ring, saveBase := save.1 }
          let x : Ring := { ctx := c, iface := iface, size := Req.arg r 4, base := buf.1, rtail := 0, rhead := 0, recs := [],
                            waiting := [], live := true }
          acceptReq (word c) (word (ring * 2 ^ 32 + pos)) { s with ctxs := s.ctxs.set c k, rings := s.rings.set ring x }
      made.getD (refuseReq .full s)
  | _, _ => refuseReq .full s)

/-! ### CTX_CLOSE and CTX_KILL (R143, R145) -/

/-- A request that names a context of its interface in any state. -/
def ofAnyCtx (f : Serve) : Serve := fun i k r s =>
  if 256 ≤ r.ctx then refuseReq .fault s
  else if (s.ctx r.ctx).st = .free ∨ (s.ctx r.ctx).iface ≠ i then refuseReq .denied s
  else f i k r s

/-- CTX_CLOSE. -/
def serveClose : Serve := ofCtx fun _ _ r s =>
  let s := dropQueues r.ctx 0 s
  doneReq (if s.closeReady r.ctx then s.closeDone r.ctx else s.modCtx r.ctx fun k => { k with st := .closing })

/-- A kill request for a context (R143). -/
def killReq (c : Nat) (s : State) : Answer :=
  match (s.ctx c).st with
  | .opened | .closing | .killing => doneReq (s.kill c 4 0 0)
  | .free | .zeroing => refuseReq .denied s

/-- CTX_KILL: the physical function may name a context of another interface (R458). -/
def serveKill : Serve := fun i k r s =>
  let a := Req.arg r 0
  if i = 0 ∧ bitN a 63 = true then
    if a ≠ 2 ^ 63 + fld a 8 6 * 256 + fld a 0 8 then refuseReq .fault s
    else if (s.ctx (fld a 0 8)).iface ≠ fld a 8 6 then refuseReq .denied s
    else killReq (fld a 0 8) s
  else ofAnyCtx (fun _ _ r s => killReq r.ctx s) i k r s

/-! ### Launch queues (R158, R162) -/

/-- A4 KiB frames' worth of bytes. -/
def framesOf (n : Nat) : Nat := ceilDiv n 4096

/-- LQ_CREATE. -/
def serveLqCreate : Serve := ofCtx (inRange (fun r => decide (Req.arg r 0 < 4) && pow2In (Req.arg r 1) 64 4096) fun _ _ r s =>
  let c := r.ctx
  let n := 64 * Req.arg r 1
  if ((s.ctx c).queues.get? (Req.arg r 0)).isSome then refuseReq .denied s
  else if (s.ctx c).quota.frames < s.framesHeld c + framesOf n then refuseReq .quota s
  else match s.takeFrame n c 2 with
    | none => refuseReq .full s
    | some (pa, s) =>
      let l : LaunchQ := { paused := false, depth := Req.arg r 1, base := pa, head := 0, tail := 0, drops := 0, recs := [], taken := [] }
      doneReq ((s.zero pa n).modCtx c fun k => { k with queues := k.queues.set (Req.arg r 0) l }))

/-- A request for a launch queue that exists. -/
def ofQueue (f : Nat → Nat → LaunchQ → State → Answer) : Serve := ofCtx (inRange (fun r => decide (Req.arg r 0 < 4)) fun _ _ r s =>
  match (s.ctx r.ctx).queues.get? (Req.arg r 0) with
  | some l => f r.ctx (Req.arg r 0) l s
  | none => refuseReq .denied s)

/-- A launch queue paused or resumed. -/
def setPaused (p : Bool) : Serve := ofQueue fun c q l s =>
  if l.paused = p then refuseReq .denied s
  else doneReq (s.modCtx c fun k => { k with queues := k.queues.set q { l with paused := p } })

/-- LQ_PAUSE. -/
def serveLqPause : Serve := setPaused true
/-- LQ_RESUME. -/
def serveLqResume : Serve := setPaused false

/-- LQ_DELETE: a record for each launch record not taken; the ring is zeroed. -/
def serveLqDelete : Serve := ofQueue fun c q l s =>
  let s := (List.range l.recs.length).foldl (fun s i =>
    s.record c 4 (queueItem (launchQid (s.ctx c) q) (l.head + i)) .killed 0 0 0) s
  doneReq ((s.freeFrame c l.base (64 * l.depth)).modCtx c fun k => { k with queues := k.queues.erase q })

/-! ### Completion rings (R148 to R150) -/

/-- RING_READ: records that the ring still holds. -/
def serveRingRead : Serve := noCtx (inRange (fun r => decide (1 ≤ Req.arg r 2) && decide (Req.arg r 2 ≤ 3)) fun i _ r s =>
  match s.rings.get? (Req.arg r 0) with
  | none => refuseReq .denied s
  | some x =>
    let a := Req.arg r 1
    let n := Req.arg r 2
    if x.iface ≠ i then refuseReq .denied s
    else if x.rtail < a + n ∨ a + x.size < x.rtail then refuseReq .fault s
    else { doneReq s with data := ((x.recs.drop a).take n).flatMap recBytes })

/-- RING_RELEASE: refused while the ring's context is not FREE. -/
def serveRingRelease : Serve := noCtx fun i _ r s =>
  let k := Req.arg r 0
  match s.rings.get? k with
  | none => refuseReq .denied s
  | some x =>
    if x.iface ≠ i ∨ x.live = true then refuseReq .denied s
    else doneReq (({ s with rings := s.rings.erase k } : State).freeFrame 256 x.base (x.size * 32))

/-- BUDGET_SET. -/
def serveBudgetSet : Serve := ofPf (inRange (fun r => decide (1 ≤ Req.arg r 0) && decide (Req.arg r 0 ≤ 63) && decide (Req.arg r 1 ≤ 10))
  fun _ _ r s =>
    doneReq { s with far := { s.far with budgets := s.far.budgets.set (Req.arg r 0 * 16 + Req.arg r 1) (Req.arg r 2) } })

end Sys2Proof.Machine
end

