-- ==== Sys2Proof/Machine/FarPage.lean ====
section
/-! DEFINITION. Requests for pages and weight regions (20_image R458; 17_page R410, R411; 03_region R106, R481): MAP, UNMAP,
PROTECT, MOVE, WR_ALLOC, WR_SEAL, WR_UNSEAL, WR_FREE. -/

namespace Sys2Proof.Machine

/-! ### Pages -/

/-- The arguments of MAP are in their ranges, but for the frame. -/
def mapOk (r : Req) : Bool :=
  let a := Req.arg r
  decide (a 1 < 2 ^ 13) && decide (fld (a 1) 0 4 ≤ 9) && decide (a 0 % szBytes (fld (a 1) 0 4) = 0) && decide (a 0 < 2 ^ 48)

/-- A2 of MAP names a frame of another chip of the pod, aligned on the page size (R401, R458). -/
def State.farFrameOk (s : State) (a n : Nat) : Bool :=
  let f := fld a 12 36 * 4096
  decide (a = fld a 49 10 * 2 ^ 49 + f) && decide (fld a 49 10 ≠ s.chip) && s.inPod (fld a 49 10) && decide (f % n = 0)

/-- MAP. -/
def serveMap : Serve := ofCtx (inRange mapOk fun _ _ r s =>
  let c := r.ctx
  let va := Req.arg r 0
  let sz := fld (Req.arg r 1) 0 4
  let n := szBytes sz
  let a := Req.arg r 2
  let put := fun (chip frame : Nat) (s' : State) =>
    let e := leafOf chip frame sz (Req.arg r 1)
    match s'.writeLeaf c va sz e with
    | some s' => acceptReq e 0 s'
    | none => refuseReq .full s
  if a ≠ 0 ∧ s.farFrameOk a n = false then refuseReq .fault s
  else if !s.unmapped c va n then refuseReq .denied s
  else if a ≠ 0 then put (fld a 49 10) (fld a 12 36 * 4096) s
  else if (s.ctx c).quota.frames < s.framesHeld c + n / 4096 then refuseReq .quota s
  else match s.takeFrame n c 0 with
    | none => refuseReq .full s
    | some (pa, s') => put s.chip pa (s'.zero pa n))

/-- A request for a page that is MAPPED and not MOVING (R410): its base, size and leaf. -/
def ofPage (f : Nat → Nat → Nat → Nat → Serve) : Serve := ofCtx (inRange (fun r => decide (Req.arg r 0 < 2 ^ 48)) fun i k r s =>
  match s.pageAt r.ctx (Req.arg r 0) with
  | none => refuseReq .denied s
  | some (va, n, pte) => if pteM pte.toNat then refuseReq .denied s else f r.ctx va n pte.toNat i k r s)

/-- UNMAP. -/
def serveUnmap : Serve := ofPage fun c va n e i k _ s =>
  waitReq 0 ((s.clearLeaf c va (pteSz e)).shootdown c va n (pteChip e) (pteFrame e) .unmap (some (i, k)))

/-- PROTECT. -/
def serveProtect : Serve := ofPage fun c va n e i k r s =>
  if Req.arg r 1 % 16 ≠ 0 ∨ 2 ^ 13 ≤ Req.arg r 1 then refuseReq .fault s
  else
    let new := leafOf (pteChip e) (pteFrame e) (pteSz e) (Req.arg r 1)
    match s.writeLeaf c va (pteSz e) new with
    | some s => waitReq new (s.shootdown c va n (pteChip e) (pteFrame e) .protect (some (i, k)))
    | none => refuseReq .denied s

/-- MOVE: to a free frame of this chip's HBM4E of the page's size (R410, R411). -/
def serveMove : Serve := ofPage fun c va n e _ _ r s =>
  let a := Req.arg r 1
  let frame := if a = 0 then s.pickFrame n else if s.frameFree a n then some a else none
  match frame with
  | some f =>
    if pteChip e ≠ s.chip ∨ hbmSize ≤ pteFrame e then refuseReq .denied s
    else
      let s1 : State := { s with frames := s.frames ++ [{ pa := f, size := n, ctx := c, use := 0 }], tick := s.tick + 1 }
      match s1.writeLeaf c va (pteSz e) (word (e + 8)) with
      | none => refuseReq .denied s
      | some s2 =>
        let m : Moving := { ctx := c, va := va, size := n, old := pteFrame e, new := f, copying := false, copied := 0, ended := false }
        acceptReq (word f) 0 (({ s2 with moving := s2.moving ++ [m] } : State).shootdown c va n s.chip (pteFrame e) .moveStart none)
  | none => refuseReq .denied s

/-! ### Weight regions -/

/-- 256 KiB, the unit of the weight store (R106). -/
def wsUnit : Nat := 0x40000
/-- Bytes of a die's weight store (R105). -/
def wsDie : Nat := 0xC0000000

/-- Buffers of the weight store in use or not yet zeroed: base, size, context. -/
def State.wsUsed (s : State) : List (Nat × Nat × Nat) :=
  (s.regions.map fun e => (e.1, e.2.size, e.2.ctx)) ++ s.zeroq.vals.filterMap fun z => if wsBase ≤ z.pa then some (z.pa, z.size, z.ctx) else none

/-- A free base of a die for `n` bytes: which one is open (R106; log 9). -/
def State.pickRegion (s : State) (die n : Nat) : Option Nat :=
  let lo := wsBase + die * wsDie
  let ok := fun (b : Nat) => decide (lo ≤ b) && decide (b + n ≤ lo + wsDie) && s.wsUsed.all fun u => !meets u.1 u.2.1 b n
  ((lo + Config.frameChoice s.tick % (wsDie / wsUnit) * wsUnit) :: lo :: s.wsUsed.map fun u => u.1 + u.2.1).find? ok

/-- WR_ALLOC: mapped with R and W in pages of 256 KiB. -/
def serveWrAlloc : Serve := ofCtx (inRange
  (fun r => decide (Req.arg r 0 < 2) && decide (Req.arg r 1 % wsUnit = 0) && decide (0 < Req.arg r 1)
    && decide (Req.arg r 2 % wsUnit = 0) && decide (Req.arg r 2 + Req.arg r 1 ≤ 2 ^ 48))
  fun _ _ r s =>
    let c := r.ctx
    let die := Req.arg r 0
    let n := Req.arg r 1
    let va := Req.arg r 2
    let lo := wsBase + die * wsDie
    let held := ((s.wsUsed.filter fun u => decide (u.2.2 = c) && decide (lo ≤ u.1) && decide (u.1 < lo + wsDie)).map (·.2.1)).sum
    if !s.unmapped c va n then refuseReq .denied s
    else if (s.ctx c).quota.wstore * wsUnit < held + n then refuseReq .quota s
    else match s.pickRegion die n with
      | none => refuseReq .full s
      | some b =>
        let s1 : State := { s with regions := s.regions.set b { ctx := c, size := n, va := va, serving := false, sealing := none },
                                   tick := s.tick + 1 }
        match (List.range (n / wsUnit)).foldlM (fun s i => s.writeLeaf c (va + i * wsUnit) 3 (leafOf s.chip (b + i * wsUnit) 3 (2 ^ 8 + 2 ^ 9))) s1 with
        | some s => acceptReq (word b) 0 s
        | none => refuseReq .full s)

/-- A request for a weight region of the context, by its base. -/
def ofRegion (f : Nat → Region → Nat → Nat → State → Answer) : Serve := ofCtx fun i k r s =>
  match s.regions.get? (Req.arg r 0) with
  | some x => if x.ctx = r.ctx then f (Req.arg r 0) x i k s else refuseReq .denied s
  | none => refuseReq .denied s

/-- WR_SEAL: it waits for CPYW commands into the region (R106, R481). -/
def serveWrSeal : Serve := ofRegion fun b x i k s =>
  if x.serving = true ∨ x.sealing.isSome = true then refuseReq .denied s
  else if s.cpywInto b x.size then waitReq 0 { s with regions := s.regions.set b { x with sealing := some (i, k) } }
  else doneReq { s with regions := s.regions.set b { x with serving := true } }

/-- WR_UNSEAL (R106, R481). -/
def serveWrUnseal : Serve := ofRegion fun b x i k s =>
  if x.serving = false ∨ s.regionHeld x.ctx b x.size = true then refuseReq .denied s
  else waitReq 0 (s.shootdown x.ctx x.va x.size s.chip b (.unseal b) (some (i, k)))

/-- WR_FREE: its pages are unmapped, and it is zeroed once no access through them is left (R106, R154). -/
def serveWrFree : Serve := ofRegion fun b x i k s =>
  let mine := (s.leaves x.ctx).filter fun e => decide (pteChip e.2.2 = s.chip) && meets (pteFrame e.2.2) e.2.1 b x.size
  let s := mine.foldl (fun s e => s.clearLeaf x.ctx e.1 (pteSz e.2.2)) s
  let s : State := { s with regions := s.regions.erase b }
  waitReq 0 (((s.replyReady x.sealing).toZero x.ctx b x.size 0).shootdown x.ctx x.va x.size s.chip b .unmap (some (i, k)))

end Sys2Proof.Machine
end

