-- ==== Sys2Proof/Machine/FarDev.lean ====
section
/-! DEFINITION. Requests for range tables (20_image R458; 18_link R427), the RDMA adapter (06_queue R175 to R178), gang stops
(05_context R153), moves of groups (08_group R225), attestation, ownership and images (20_image R459 to R465). -/

namespace Sys2Proof.Machine

/-! ### Range tables -/

/-- The entry names, valid, a context of another interface. -/
def State.foreignTag (s : State) (iface : Nat) (x : Range) : Bool :=
  bitN x.perm 3 && match s.ctxOfTag x.ctag with | some c => decide ((s.ctx c).iface ≠ iface) | none => false

/-- RANGE_SET: CTAG is the tag of an OPEN context of the interface. -/
def serveRangeSet : Serve := noCtx (inRange
  (fun r => decide (Req.arg r 0 < 1024) && decide (Req.arg r 1 < 16) && decide (Req.arg r 2 % 4096 = 0)
    && decide (Req.arg r 3 % 4096 = 4095) && decide (Req.arg r 4 < 16) && decide (Req.arg r 5 < 65536))
  fun i _ r s =>
    let key := Req.arg r 0 * 16 + Req.arg r 1
    let mine := match s.ctxOfTag (Req.arg r 5) with
      | some c => decide ((s.ctx c).st = .opened) && decide ((s.ctx c).iface = i)
      | none => false
    let taken := match s.ranges.get? key with | some x => s.foreignTag i x | none => false
    let x : Range := { base := word (Req.arg r 2), limit := word (Req.arg r 3), perm := Req.arg r 4, ctag := Req.arg r 5 }
    if !mine || taken then refuseReq .denied s else doneReq { s with ranges := s.ranges.set key x })

/-! ### RDMA -/

/-- The lowest number from `k` on that is no key. -/
def Tab.gap {α : Type} : Tab α → Nat → Nat
  | [], k => k
  | (j, _) :: t, k => if j = k then Tab.gap t (k + 1) else k

/-- PD_ALLOC: 4,096 domains (R175). -/
def servePdAlloc : Serve := ofCtx fun _ _ r s =>
  let d := Tab.gap s.pds 0
  if 4096 ≤ d then refuseReq .full s else acceptReq (word d) 0 { s with pds := s.pds.set d r.ctx }

/-- The domain belongs to the context. -/
def State.pdOf (s : State) (c d : Nat) : Bool := decide (s.pds.get? d = some c)

/-- PD_FREE: refused while a region or queue pair is of the domain (log 32). -/
def servePdFree : Serve := ofCtx (inRange (fun r => decide (Req.arg r 0 < 4096)) fun _ _ r s =>
  let d := Req.arg r 0
  if !s.pdOf r.ctx d || (s.regionsMr.any fun e => e.2.pd = d) || (s.qps.any fun e => e.2.pd = d) then refuseReq .denied s
  else doneReq { s with pds := s.pds.erase d })

/-- MR_REG: R0 is the key, whose tag is open (R175; log 9). -/
def serveMrReg : Serve := ofCtx (inRange
  (fun r => decide (Req.arg r 2 = fld (Req.arg r 2) 0 12 + fld (Req.arg r 2) 16 4 * 2 ^ 16) && decide (0 < Req.arg r 1)
    && decide (Req.arg r 0 + Req.arg r 1 ≤ 2 ^ 48))
  fun _ _ r s =>
    let d := fld (Req.arg r 2) 0 12
    let k := Tab.gap s.regionsMr 0
    let tag := Config.frameChoice s.tick % 256
    if !s.pdOf r.ctx d then refuseReq .denied s
    else if 2 ^ 24 ≤ k then refuseReq .full s
    else
      let m : MemRegion := { ctx := r.ctx, pd := d, va := Req.arg r 0, len := Req.arg r 1, perm := fld (Req.arg r 2) 16 4, keyTag := tag }
      acceptReq (word (k * 256 + tag)) 0 { s with regionsMr := s.regionsMr.set k m, tick := s.tick + 1 })

/-- MR_DEREG. -/
def serveMrDereg : Serve := ofCtx (inRange (fun r => decide (Req.arg r 0 < 2 ^ 32)) fun _ _ r s =>
  match s.regionsMr.get? (Req.arg r 0 / 256) with
  | some m => if m.ctx = r.ctx ∧ m.keyTag = Req.arg r 0 % 256 then doneReq { s with regionsMr := s.regionsMr.erase (Req.arg r 0 / 256) }
      else refuseReq .denied s
  | none => refuseReq .denied s)

/-- A queue pair in RESET. -/
def Qp.fresh (c pd eth : Nat) : Qp :=
  { ctx := c, pd := pd, eth := eth, st := .reset, bound := none, remote := 0, psn := 0, addr0 := 0, addr1 := 0, mac := 0, mtu := 0,
    rnr := 0, retries := 0, tries := 0, work := [], recvs := [], answer := 0, out := [], rsp := [], own := false, imm := none, cnps := 0, slowed := 0 }

/-- Queue pairs of a context. -/
def State.qpsOf (s : State) (c : Nat) : Nat := (s.qps.filter fun e => e.2.ctx = c).length

/-- QP_CREATE: R0 is the QPN (R142, R175). -/
def serveQpCreate : Serve := ofCtx (inRange (fun r => decide (Req.arg r 0 = fld (Req.arg r 0) 0 12 + fld (Req.arg r 0) 16 1 * 2 ^ 16))
  fun _ _ r s =>
    let d := fld (Req.arg r 0) 0 12
    let k := Tab.gap s.qps 0
    if !s.pdOf r.ctx d then refuseReq .denied s
    else if (s.ctx r.ctx).quota.qps ≤ s.qpsOf r.ctx then refuseReq .quota s
    else if 65536 ≤ k then refuseReq .full s
    else acceptReq (word (0x10000 + k)) 0 (s.setQp k (Qp.fresh r.ctx d (fld (Req.arg r 0) 16 1))))

/-- A request for a queue pair of the context, by its QPN. -/
def ofQp (f : Nat → Qp → Req → State → Answer) : Serve := ofCtx (inRange
  (fun r => decide (0x10000 ≤ Req.arg r 0) && decide (Req.arg r 0 < 0x20000)) fun _ _ r s =>
    match s.qps.get? (Req.arg r 0 - 0x10000) with
    | some x => if x.ctx = r.ctx then f (Req.arg r 0 - 0x10000) x r s else refuseReq .denied s
    | none => refuseReq .denied s)

/-- The arguments of QP_MODIFY are in their ranges. -/
def modifyOk (r : Req) : Bool :=
  let a := Req.arg r
  decide (a 1 ≤ 3) && decide (a 2 < 2 ^ 24) && decide (a 3 < 2 ^ 24) && decide (a 6 < 2 ^ 48)
  && decide (a 7 = fld (a 7) 0 2 + fld (a 7) 8 5 * 2 ^ 8 + fld (a 7) 16 3 * 2 ^ 16) && decide (fld (a 7) 0 2 ≤ 2)

/-- RNR timer, retry count and MTU as a modification gives them. -/
def Qp.timing (x : Qp) (a7 : Nat) : Qp := { x with mtu := fld a7 0 2, rnr := fld a7 8 5, retries := fld a7 16 3 }

/-- QP_MODIFY (R177). Back in RESET a queue pair keeps neither its binding nor its path and packet numbers: R177 speaks of its queues
only (log 108). -/
def serveQpModify : Serve := ofQp fun q x r s =>
  let a := Req.arg r
  if !modifyOk r then refuseReq .fault s
  else match x.st, a 1 with
    | .reset, 1 =>
      if (s.ctx r.ctx).quota.qps < s.qpsOf r.ctx then refuseReq .quota s else doneReq (s.setQp q { x with st := .init })
    | .init, 2 =>
      let y : Qp := { x with st := .rtr, remote := a 2, psn := a 3, addr0 := r.args.getD 4 0, addr1 := r.args.getD 5 0,
                             mac := r.args.getD 6 0 }
      doneReq (s.setQp q (y.timing (a 7)))
    | .rtr, 3 => doneReq (s.setQp q (({ x with st := .rts } : Qp).timing (a 7)))
    | .error, 0 => doneReq (s.setQp q (Qp.fresh x.ctx x.pd x.eth))
    | _, _ => refuseReq .denied s

/-- QP_DESTROY: no work request is lost without a record (R156, R177). -/
def serveQpDestroy : Serve := ofQp fun q _ _ s =>
  let s := s.qpError q
  doneReq { s with qps := s.qps.erase q }

/-- QP_BIND (R178). -/
def serveQpBind : Serve := ofQp fun q x r s =>
  if 4 ≤ Req.arg r 1 then refuseReq .fault s
  else if x.st ≠ .init ∨ ((s.ctx x.ctx).queues.get? (Req.arg r 1)).isNone = true then refuseReq .denied s
  else doneReq (s.setQp q { x with bound := some (Req.arg r 1) })

/-! ### Gang stops (R153) -/

/-- Cores of a mask of clusters. -/
def maskCores (m : Nat) : List Nat := (List.range 256).filter fun c => bitN m (clusterOf c)

/-- The watchdogs of contexts with a thread on a stopped core stop counting, and those without one count on (R152). -/
def State.holdDogs (s : State) : State :=
  { s with ctxs := s.ctxs.mapVals fun c k =>
      match k.wdHold with
      | none => if s.heldCtx c then { k with wdHold := some s.now } else k
      | some t => if s.heldCtx c then k else { k with wdHold := none, wdStart := k.wdStart + (s.now - Nat.max t k.wdStart) } }

/-- A core stops, with its stop record (log 18). -/
def Core.gangStop (k : Core) (now tick : Nat) : Core :=
  if k.stop.isSome then k
  else
    let x : StopRec := { cyc := k.cyc, time := now, sent := (Config.meshSent tick).toNat, recv := (Config.meshRecv tick).toNat }
    { k with stop := some x, stopRec := some x }

/-- GANG_STOP. -/
def serveGangStop : Serve := ofPf (inRange (fun r => decide (Req.arg r 0 < 2 ^ 32)) fun _ _ r s =>
  let s := (maskCores (Req.arg r 0)).foldl (fun s c =>
    let t := s.tick
    let s : State := { s with tick := t + 1 }
    s.modCore c fun k => k.gangStop s.now t) s
  doneReq s.holdDogs)

/-- GANG_RELEASE. -/
def serveGangRelease : Serve := ofPf (inRange (fun r => decide (Req.arg r 0 < 2 ^ 32)) fun _ _ r s =>
  doneReq ((maskCores (Req.arg r 0)).foldl (fun s c => s.modCore c fun k => { k with stop := none }) s).holdDogs)

/-- The 24 bytes of a core's latest stop record; zeros for a core that has not stopped (log 18). -/
def stopBytes (x : Option StopRec) : List Byte :=
  match x with
  | some x => bytesOf 8 x.cyc ++ bytesOf 8 x.time ++ bytesOf 4 x.sent ++ bytesOf 4 x.recv
  | none => zeros 24

/-- STOP_READ. -/
def serveStopRead : Serve := ofPf (inRange (fun r => decide (Req.arg r 0 < 256)) fun _ _ r s =>
  { doneReq s with data := stopBytes (s.core (Req.arg r 0)).stopRec })

/-! ### Moves of groups (R225) -/

/-- GROUP_MOVE: a RUNNING group, to a core of a kind its launch allows. -/
def serveGroupMove : Serve := ofCtx (inRange (fun r => decide (Req.arg r 0 < 2 ^ 32) && decide (Req.arg r 1 < 256)) fun _ _ r s =>
  match s.groups.get? (Req.arg r 0) with
  | some g =>
    let kind := match s.launches.get? g.launch with | some l => l.rcd.ckind | none => 0
    if g.ctx ≠ r.ctx ∨ g.st ≠ .running ∨ kindOk kind (Req.arg r 1) = false then refuseReq .denied s
    else doneReq (s.setGroup (Req.arg r 0) { g with moveTo := some (Req.arg r 1) })
  | none => refuseReq .denied s)

/-! ### Buffers, attestation, ownership (R459, R461, R464, R465) -/

/-- A12 and A13 name a buffer that the interface's DMA reaches, of at least `n` bytes (R459). -/
def bufOk (n : Nat) (r : Req) : Bool :=
  decide (Req.arg r 12 % 64 = 0) && decide (1 ≤ Req.arg r 13) && decide (Req.arg r 13 ≤ 65536) && decide (n ≤ Req.arg r 13)
  && match r.buf with | some b => decide (b.length = Req.arg r 13) | none => false

/-- The buffer's bytes. -/
def bufOf (r : Req) : List Byte := r.buf.getD []

/-- QUOTE: the output and its signature, written to the host's buffer. -/
def serveQuote : Serve := noCtx (inRange (bufOk 4096) fun _ _ r s =>
  let f := s.far
  let head := ((List.range 4).flatMap fun i => bytesOf 8 (Req.arg r i)) ++ ((List.range 8).flatMap fun i => slice (f.meas.getD i []) 0 64)
    ++ bytesOf 8 f.counter ++ bytesOf 4 f.svn ++ zeros 4 ++ slice Config.deviceIdentity 0 64
  let out := head ++ slice (Config.mldsaSign (hash64 head)) 0 sigLen
  acceptReq (word 3933) 0 { s with far := { f with dmaOut := out } })

/-- EXTEND: M4 to M7. -/
def serveExtend : Serve := ofPf (inRange (fun r => decide (4 ≤ Req.arg r 0) && decide (Req.arg r 0 ≤ 7)) fun _ _ r s =>
  doneReq { s with far := s.far.extend (Req.arg r 0) ((List.range 8).flatMap fun i => bytesOf 8 (Req.arg r (i + 1))) })

/-- A context of the device is open. -/
def State.anyOpen (s : State) : Bool := s.ctxs.any fun e => e.2.st ≠ .free

/-- A transfer request: identity, counter, zeros and a signature by the key (R459, R464). A request that does not verify is
refused DENIED (log 33). -/
def transfer (key : Option (List Byte)) (r : Req) (s : State) : Answer :=
  let b := bufOf r
  let f := s.far
  if (slice b 72 56).any fun x => x ≠ 0 then refuseReq .fault s
  else match key with
    | none => refuseReq .denied s
    | some k =>
      if s.anyOpen || decide (slice b 0 64 ≠ slice Config.deviceIdentity 0 64) || decide (getLe b 64 8 ≠ f.counter)
          || !Config.mldsaVerify k (hash64 (slice b 0 128)) (slice b 128 sigLen) then refuseReq .denied s
      else doneReq { s with far := { f with ownerKey := none, counter := f.counter + 1 } }

/-- OWN_RELEASE. -/
def serveOwnRelease : Serve := ofPf (inRange (bufOk 3437) fun _ _ r s => transfer s.far.ownerKey r s)

/-- OWN_RECOVER. -/
def serveOwnRecover : Serve := ofPf (inRange (bufOk 3437) fun _ _ r s => transfer (some Config.makerKey) r s)

/-- OWN_INSTALL: in UNOWNED, into an empty slot. -/
def serveOwnInstall : Serve := ofPf (inRange (bufOk 1952) fun _ _ r s =>
  if s.far.st ≠ .unowned ∨ s.far.ownerKey.isSome = true then refuseReq .denied s
  else doneReq { s with far := { s.far with ownerKey := some (slice (bufOf r) 0 1952) } })

/-! ### Images (R463) -/

/-- IMG_WRITE: the check of the window's image begins, and the reply waits for its result (R462). -/
def serveImgWrite : Serve := ofPf (inRange (fun r => decide (Req.arg r 0 < 2)) fun i k r s =>
  if Req.arg r 0 = s.far.select then refuseReq .denied s else waitReq 0 (s.beginCheck (.write (Req.arg r 0) i k)))

/-- IMG_SELECT. -/
def serveImgSelect : Serve := ofPf (inRange (fun r => decide (Req.arg r 0 < 2)) fun _ _ r s =>
  doneReq { s with far := { s.far with select := Req.arg r 0 } })

end Sys2Proof.Machine
end

