-- ==== Sys2Proof/Machine/EvFarrier.lean ====
section
/-! DEFINITION. The events of the Farrier (20_image R450 to R458): each request of R458 as it arrives at a mailbox in which none
waits (log 34), RQTAIL_WRITE, RPHEAD_WRITE (R456), FARRIER_TAKE_REQUEST (R450, R453, R456), HEARTBEAT_TIMEOUT (R451, R454). An
event that is not enabled leaves the state unchanged (log 2). -/

namespace Sys2Proof.Machine

/-- CTX_OPEN as a request. -/
def execCtxOpen (iface : Nat) (r : Req) (s : State) : Host.Outcome State Fault Refusal := .next (s.request 0x01 iface r serveOpen)
/-- CTX_CLOSE as a request. -/
def execCtxClose (iface : Nat) (r : Req) (s : State) : Host.Outcome State Fault Refusal := .next (s.request 0x02 iface r serveClose)
/-- CTX_KILL as a request. -/
def execCtxKill (iface : Nat) (r : Req) (s : State) : Host.Outcome State Fault Refusal := .next (s.request 0x03 iface r serveKill)
/-- LQ_CREATE as a request. -/
def execLqCreate (iface : Nat) (r : Req) (s : State) : Host.Outcome State Fault Refusal := .next (s.request 0x10 iface r serveLqCreate)
/-- LQ_PAUSE as a request. -/
def execLqPause (iface : Nat) (r : Req) (s : State) : Host.Outcome State Fault Refusal := .next (s.request 0x11 iface r serveLqPause)
/-- LQ_RESUME as a request. -/
def execLqResume (iface : Nat) (r : Req) (s : State) : Host.Outcome State Fault Refusal := .next (s.request 0x12 iface r serveLqResume)
/-- LQ_DELETE as a request. -/
def execLqDelete (iface : Nat) (r : Req) (s : State) : Host.Outcome State Fault Refusal := .next (s.request 0x13 iface r serveLqDelete)
/-- MAP as a request. -/
def execMap (iface : Nat) (r : Req) (s : State) : Host.Outcome State Fault Refusal := .next (s.request 0x20 iface r serveMap)
/-- UNMAP as a request. -/
def execUnmap (iface : Nat) (r : Req) (s : State) : Host.Outcome State Fault Refusal := .next (s.request 0x21 iface r serveUnmap)
/-- PROTECT as a request. -/
def execProtect (iface : Nat) (r : Req) (s : State) : Host.Outcome State Fault Refusal := .next (s.request 0x22 iface r serveProtect)
/-- MOVE as a request. -/
def execMove (iface : Nat) (r : Req) (s : State) : Host.Outcome State Fault Refusal := .next (s.request 0x23 iface r serveMove)
/-- WR_ALLOC as a request. -/
def execWrAlloc (iface : Nat) (r : Req) (s : State) : Host.Outcome State Fault Refusal := .next (s.request 0x30 iface r serveWrAlloc)
/-- WR_SEAL as a request. -/
def execWrSeal (iface : Nat) (r : Req) (s : State) : Host.Outcome State Fault Refusal := .next (s.request 0x31 iface r serveWrSeal)
/-- WR_UNSEAL as a request. -/
def execWrUnseal (iface : Nat) (r : Req) (s : State) : Host.Outcome State Fault Refusal := .next (s.request 0x32 iface r serveWrUnseal)
/-- WR_FREE as a request. -/
def execWrFree (iface : Nat) (r : Req) (s : State) : Host.Outcome State Fault Refusal := .next (s.request 0x33 iface r serveWrFree)
/-- RANGE_SET as a request. -/
def execRangeSet (iface : Nat) (r : Req) (s : State) : Host.Outcome State Fault Refusal := .next (s.request 0x40 iface r serveRangeSet)
/-- PD_ALLOC as a request. -/
def execPdAlloc (iface : Nat) (r : Req) (s : State) : Host.Outcome State Fault Refusal := .next (s.request 0x50 iface r servePdAlloc)
/-- PD_FREE as a request. -/
def execPdFree (iface : Nat) (r : Req) (s : State) : Host.Outcome State Fault Refusal := .next (s.request 0x51 iface r servePdFree)
/-- MR_REG as a request. -/
def execMrReg (iface : Nat) (r : Req) (s : State) : Host.Outcome State Fault Refusal := .next (s.request 0x52 iface r serveMrReg)
/-- MR_DEREG as a request. -/
def execMrDereg (iface : Nat) (r : Req) (s : State) : Host.Outcome State Fault Refusal := .next (s.request 0x53 iface r serveMrDereg)
/-- QP_CREATE as a request. -/
def execQpCreate (iface : Nat) (r : Req) (s : State) : Host.Outcome State Fault Refusal := .next (s.request 0x54 iface r serveQpCreate)
/-- QP_MODIFY as a request. -/
def execQpModify (iface : Nat) (r : Req) (s : State) : Host.Outcome State Fault Refusal := .next (s.request 0x55 iface r serveQpModify)
/-- QP_DESTROY as a request. -/
def execQpDestroy (iface : Nat) (r : Req) (s : State) : Host.Outcome State Fault Refusal := .next (s.request 0x56 iface r serveQpDestroy)
/-- QP_BIND as a request. -/
def execQpBind (iface : Nat) (r : Req) (s : State) : Host.Outcome State Fault Refusal := .next (s.request 0x57 iface r serveQpBind)
/-- RING_READ as a request. -/
def execRingRead (iface : Nat) (r : Req) (s : State) : Host.Outcome State Fault Refusal := .next (s.request 0x60 iface r serveRingRead)
/-- RING_RELEASE as a request. -/
def execRingRelease (iface : Nat) (r : Req) (s : State) : Host.Outcome State Fault Refusal := .next (s.request 0x61 iface r serveRingRelease)
/-- BUDGET_SET as a request. -/
def execBudgetSet (iface : Nat) (r : Req) (s : State) : Host.Outcome State Fault Refusal := .next (s.request 0x70 iface r serveBudgetSet)
/-- GANG_STOP as a request. -/
def execGangStop (iface : Nat) (r : Req) (s : State) : Host.Outcome State Fault Refusal := .next (s.request 0x71 iface r serveGangStop)
/-- GANG_RELEASE as a request. -/
def execGangRelease (iface : Nat) (r : Req) (s : State) : Host.Outcome State Fault Refusal := .next (s.request 0x72 iface r serveGangRelease)
/-- STOP_READ as a request. -/
def execStopRead (iface : Nat) (r : Req) (s : State) : Host.Outcome State Fault Refusal := .next (s.request 0x73 iface r serveStopRead)
/-- GROUP_MOVE as a request. -/
def execGroupMove (iface : Nat) (r : Req) (s : State) : Host.Outcome State Fault Refusal := .next (s.request 0x74 iface r serveGroupMove)
/-- QUOTE as a request. -/
def execQuote (iface : Nat) (r : Req) (s : State) : Host.Outcome State Fault Refusal := .next (s.request 0x80 iface r serveQuote)
/-- EXTEND as a request. -/
def execExtend (iface : Nat) (r : Req) (s : State) : Host.Outcome State Fault Refusal := .next (s.request 0x81 iface r serveExtend)
/-- OWN_RELEASE as a request. -/
def execOwnRelease (iface : Nat) (r : Req) (s : State) : Host.Outcome State Fault Refusal := .next (s.request 0x82 iface r serveOwnRelease)
/-- OWN_RECOVER as a request. -/
def execOwnRecover (iface : Nat) (r : Req) (s : State) : Host.Outcome State Fault Refusal := .next (s.request 0x83 iface r serveOwnRecover)
/-- OWN_INSTALL as a request. -/
def execOwnInstall (iface : Nat) (r : Req) (s : State) : Host.Outcome State Fault Refusal := .next (s.request 0x84 iface r serveOwnInstall)
/-- IMG_WRITE as a request. -/
def execImgWrite (iface : Nat) (r : Req) (s : State) : Host.Outcome State Fault Refusal := .next (s.request 0x85 iface r serveImgWrite)
/-- IMG_SELECT as a request. -/
def execImgSelect (iface : Nat) (r : Req) (s : State) : Host.Outcome State Fault Refusal := .next (s.request 0x86 iface r serveImgSelect)

/-! ### Mailboxes -/

/-- The meaning of a code (R458). -/
def serveOf : Nat → Option Serve
  | 0x01 => some serveOpen
  | 0x02 => some serveClose
  | 0x03 => some serveKill
  | 0x10 => some serveLqCreate
  | 0x11 => some serveLqPause
  | 0x12 => some serveLqResume
  | 0x13 => some serveLqDelete
  | 0x20 => some serveMap
  | 0x21 => some serveUnmap
  | 0x22 => some serveProtect
  | 0x23 => some serveMove
  | 0x30 => some serveWrAlloc
  | 0x31 => some serveWrSeal
  | 0x32 => some serveWrUnseal
  | 0x33 => some serveWrFree
  | 0x40 => some serveRangeSet
  | 0x50 => some servePdAlloc
  | 0x51 => some servePdFree
  | 0x52 => some serveMrReg
  | 0x53 => some serveMrDereg
  | 0x54 => some serveQpCreate
  | 0x55 => some serveQpModify
  | 0x56 => some serveQpDestroy
  | 0x57 => some serveQpBind
  | 0x60 => some serveRingRead
  | 0x61 => some serveRingRelease
  | 0x70 => some serveBudgetSet
  | 0x71 => some serveGangStop
  | 0x72 => some serveGangRelease
  | 0x73 => some serveStopRead
  | 0x74 => some serveGroupMove
  | 0x80 => some serveQuote
  | 0x81 => some serveExtend
  | 0x82 => some serveOwnRelease
  | 0x83 => some serveOwnRecover
  | 0x84 => some serveOwnInstall
  | 0x85 => some serveImgWrite
  | 0x86 => some serveImgSelect
  | _ => none

/-- The meaning of a request: a code that is not in R458 is refused FAULT (R457). -/
def serveAny : Serve := fun i k r s => match serveOf r.code with
  | some f => f i k r s
  | none => refuseReq .fault s

/-- Requests written into slots from number `k` on. -/
def ReqBox.write (b : ReqBox) (k : Nat) : List Req → ReqBox
  | [] => b
  | r :: l => ({ b with slots := b.slots.set (k % 32) r } : ReqBox).write (k + 1) l

/-- RQTAIL_WRITE, with the requests that the host has written into slots before it. While ST is BOOTFAIL the physical
function's BAR0 does not answer (R460). -/
def execRqtailWrite (iface : Nat) (v : Word) (slots : List Req) (s : State) : Host.Outcome State Fault Refusal :=
  let b := s.reqBox iface
  .next (if 64 ≤ iface ∨ s.dark iface = true then s
    else if v.toNat < b.tail ∨ b.head + 32 < v.toNat then s
    else
      let n := v.toNat - b.tail
      let s := s.modReqBox iface fun b => { b.write b.tail (slots.take n) with tail := v.toNat }
      { s with far := { s.far with order := s.far.order ++ List.replicate n iface } })

/-- RPHEAD_WRITE. -/
def execRpheadWrite (iface : Nat) (v : Word) (s : State) : Host.Outcome State Fault Refusal :=
  let b := s.reqBox iface
  .next (if 64 ≤ iface ∨ s.dark iface = true then s
    else if b.rphead ≤ v.toNat ∧ v.toNat ≤ b.rptail then s.modReqBox iface fun b => { b with rphead := v.toNat }
    else s)

/-- The interface whose request is taken next: the first in order of arrival whose mailbox has room for a reply (R450, R456). -/
def State.nextReq (s : State) : Option Nat := s.far.order.find? fun i => (s.reqBox i).room

/-- The next request of an interface leaves the order of arrival. -/
def State.takeOrder (s : State) (iface : Nat) : State := { s with far := { s.far with order := s.far.order.erase iface } }

/-- The request that stands next in a mailbox. -/
def ReqBox.next (b : ReqBox) : Req := b.slots.getD (b.head % 32) Req.zero

/-- FARRIER_TAKE_REQUEST. -/
def execFarrierTakeRequest (iface : Nat) (s : State) : Host.Outcome State Fault Refusal :=
  .next (if s.far.takes && decide (s.nextReq = some iface) then
    (s.takeOrder iface).serveReq iface (s.reqBox iface).next serveAny
  else s)

/-- The changes of the request that is taken next, where it is served with success: none where it opens no transaction. -/
def State.nextChanges (s : State) (iface : Nat) : Option (List (Nat × JVal × JVal)) :=
  let b := s.reqBox iface
  let a := Serve.answer serveAny iface b.head b.next s
  if a.st = .ok then some (pieceChanges s.pieces a.s.pieces) else none

/-- The control core is reset in the transaction of a request, after some of its changes. Recovery rolls it back, and the request is
answered ABORTED (R453, R454; log 35). -/
def State.rollBack (s : State) (iface : Nat) (l : List (Nat × JVal × JVal)) (n : Nat) : State :=
  let b := s.reqBox iface
  let s := (s.takeOrder iface).modReqBox iface fun b => { b with head := b.head + 1 }
  let s := (s.cutShort iface b.next.reqId l n).recover
  s.sendReply iface b.head b.next (refuseReq .aborted s)

/-- A check for IMG_WRITE ends with the control core that made it: its request is answered ABORTED (R454, R462). -/
def State.dropCheck (s : State) : State :=
  match s.far.check with
  | some (.write _ iface k, _) =>
    ({ s with far := { s.far with lck := false, check := none } } : State).replyAs iface k fun r => { r with status := .aborted, r0 := 0 }
  | _ => s

/-- The request that a reset of the control core may cut short: the one taken next, with the changes it makes. -/
def State.inService (s : State) : Option (Nat × List (Nat × JVal × JVal)) :=
  if s.far.takes then s.nextReq.bind fun i => (s.nextChanges i).map fun l => (i, l) else none

/-- Recovery after a reset of the control core. Whether it cut the request short, and after how many of its changes, is a free choice
(R454; log 35). -/
def State.afterReset (s : State) (cut : Option (Nat × List (Nat × JVal × JVal))) : State :=
  match cut with
  | none => s.recover
  | some (i, l) => match s.choose (List.range (l.length + 2)) with
    | (some (n + 1), s) => if (s.far.roomFor i 0 l).isSome then s.rollBack i l n else s.recover
    | (_, s) => s.recover

/-- HEARTBEAT_TIMEOUT: RECOVERING, with recovery from the journal, or FAILED on the second reset within 1 s (R451, R454). -/
def execHeartbeatTimeout (s : State) : Host.Outcome State Fault Refusal :=
  let f := s.far
  .next (if !f.st.beats || decide (s.now < f.lastBeat + 10000000) then s
    else
      let again := match f.lastReset with | some t => decide (s.now ≤ t + 1000000000) | none => false
      let f' : Farrier := { f with rst := Nat.min 255 (f.rst + 1), lastReset := some s.now, lastBeat := s.now,
                                   st := if again then .failed else .recovering }
      if again then ({ s with far := f' } : State).dropCheck.irq
      else ({ s with far := f' } : State).dropCheck.afterReset s.inService)

end Sys2Proof.Machine
end

