-- ==== Sys2Proof/Machine/MemIns.lean ====
section
/-! DEFINITION. LD, ST, LDN, LDE, LDE.c, STF, EMPT, FEQ and the atomics (10_thread_scalar R273 to R282). -/

namespace Sys2Proof.Machine

/-- A memory instruction: its checks, and then its effect on the resolved target (R273). -/
def memOp (g : Guard) (regs : List XReg) (xa : XReg) (off : BitVec 48) (n al : Nat) (o : AccOp) (s : State)
    (k : Word → Target → State → State) : Host.Outcome State Fault Refusal :=
  guarded g regs s fun s =>
    let ea := s.me.ea xa off
    match s.check ea n al o with
    | .stop s => s
    | .go t s => k ea t s

/-- A load of the executing thread: at once from its own scratchpad, with its reply otherwise (R113, R275). -/
def State.issueLoad (s : State) (ea : Word) (t : Target) (n : Nat) (d : Dest) : State :=
  let p : Part := { va := ea, tgt := t, n := n, got := none }
  if s.atOwnCore t then
    if t.loc && decide (shapeBase < ea.toNat + n) then
      s.finish [{ p with got := some (.ok, s.shapeBytes s.cur.core s.me.launch ea.toNat n) }] d
    else if s.eccHit t.pa n then s.trap .ecc ea
    else s.finish [{ p with got := some (.ok, s.bytes t.pa n) }] d
  else s.waitParts [p] d

/-- LD (R275). -/
def execLd (g : Guard) (w : LdW) (xd xa : XReg) (off : BitVec 48) (s : State) : Host.Outcome State Fault Refusal :=
  memOp g [xd, xa] xa off (ldBytes w) (ldBytes w) .ld s fun ea t s => s.issueLoad ea t (ldBytes w) (.load w xd)

/-- ST (R275). -/
def execSt (g : Guard) (w : StW) (xa xb : XReg) (off : BitVec 48) (s : State) : Host.Outcome State Fault Refusal :=
  memOp g [xa, xb] xa off (stBytes w) (stBytes w) .st s fun ea t s =>
    s.issueStore ea t .plain (bytesOf (stBytes w) (s.me.xr xb).toNat) (stBytes w) State.commit

/-- LDN: the destination becomes owed and the thread goes on; a load from another chip goes out as a packet, and one of the
shape record is performed at once, on the core whose window shows it (R103, R133, R276). -/
def execLdn (g : Guard) (w : LdW) (xd xa : XReg) (off : BitVec 48) (s : State) : Host.Outcome State Fault Refusal :=
  memOp g [xd, xa] xa off (ldBytes w) (ldBytes w) .ld s fun ea t s =>
    let shape := t.loc && decide (shapeBase < ea.toNat + ldBytes w)
    let o : Owed := { x := xd, w := w, va := ea, tgt := t, via := [], ord := s.nextStore, core := s.cur.core,
                      got := if shape then some (some (loadVal w (s.shapeBytes s.cur.core s.me.launch ea.toNat (ldBytes w))), .ok) else none }
    let s : State := { s with nextStore := s.nextStore + 1 }
    ((s.modMe fun th => { th with owed := th.owed ++ [o] }).sendLdn s.cur (s.handle s.cur) o).commit

/-- LDE on its own core: served when the bit is set, in the bank's queue otherwise (R101, R277). -/
def State.ldeHere (s : State) (ea : Word) (t : Target) (xd : XReg) (clear : Bool) : State :=
  if s.isFull t.pa then
    if s.eccHit t.pa 8 then s.trap .ecc ea
    else
      let d := s.bytes t.pa 8
      (if clear then s.setFull t.pa false else s).finish [{ va := ea, tgt := t, n := 8, got := some (.ok, d) }] (.lde xd clear)
  else
    ({ s with ldeq := s.ldeq ++ [{ pa := t.pa, clear := clear, who := .thread s.cur }] } : State).blockOn (.lde t xd clear ea)

/-- LDE on another chip: nothing tells this chip whether the granule is empty there, so the thread waits at its blocking
point from the issue on. An answer that came while the thread was saved completes it (R237, R277; log 42). -/
def State.ldeFar (s : State) (ea : Word) (t : Target) (xd : XReg) (clear : Bool) : State :=
  match s.me.ldeDone with
  | some (.ok, v) => (s.modMe fun m => m.setX xd v).commit
  | some (st, _) => s.trap (replyCause st) ea
  | none => (s.sendLde s.cur ea t xd clear).blockOn (.lde t xd clear ea)

/-- LDE and LDE.c share everything but the clearing of the bit (R277). -/
def loadFull (clear : Bool) (g : Guard) (xd xa : XReg) (off : BitVec 48) (s : State) : Host.Outcome State Fault Refusal :=
  memOp g [xd, xa] xa off 8 8 .lde s fun ea t s =>
    if s.atOwnCore t then s.ldeHere ea t xd clear
    else if t.chip ≠ s.chip then s.ldeFar ea t xd clear
    else s.waitParts [{ va := ea, tgt := t, n := 8, got := none }] (.lde xd clear)

/-- LDE (R277). -/
def execLde := loadFull false
/-- LDE.c (R277). -/
def execLdeC := loadFull true

/-- STF (R277). -/
def execStf (g : Guard) (xa xb : XReg) (off : BitVec 48) (s : State) : Host.Outcome State Fault Refusal :=
  memOp g [xa, xb] xa off 8 8 .stf s fun ea t s =>
    s.issueStore ea t .stf (bytesOf 8 (s.me.xr xb).toNat) 8 State.commit

/-- EMPT (R277). -/
def execEmpt (g : Guard) (xa : XReg) (off : BitVec 48) (s : State) : Host.Outcome State Fault Refusal :=
  memOp g [xa] xa off 1 1 .empt s fun ea t s => s.issueStore ea t .empt [] 1 State.commit

/-- FEQ (R277). -/
def execFeq (g : Guard) (pd pe : PReg) (xa : XReg) (off : BitVec 48) (s : State) : Host.Outcome State Fault Refusal :=
  memOp g [xa] xa off 1 1 .feq s fun ea t s =>
    let p : Part := { va := ea, tgt := t, n := 1, got := none }
    if s.atOwnCore t then s.finish [{ p with got := some (.ok, [BitVec.ofNat 8 (b2n (s.isFull t.pa))]) }] (.feq pd pe)
    else s.waitParts [p] (.feq pd pe)

/-! ### Atomics -/

/-- `k` after the release of the order, if it has one. -/
def State.relThen (s : State) (o : Order) (k : State → State) : State :=
  if Order.rel o then s.release k else k s

/-- An atomic with a result (R279, R280). -/
def State.atomResult (s : State) (ea : Word) (t : Target) (op : AtomOp) (n : Nat) (b c : Word) (d : Dest) : State :=
  let s := s.dropLine (clusterOf s.cur.core) t.chip (t.pa / 64 * 64)
  let p : Part := { va := ea, tgt := t, n := n, got := none }
  if s.atOwnCore t then
    match s.doAtom op t.pa n b.toNat c.toNat with
    | (some old, s) => (s.claim s.me.ctx t.pa n).tryFinish [{ p with got := some (.ok, bytesOf n old) }] d
    | (none, s) => s.trap .ecc ea
  else (s.drainLine t.chip (t.pa / 64)).waitParts [p] d

/-- An atomic other than ACAS (R278 to R280). -/
def atomOp (op : AtomOp) (g : Guard) (n : Nat) (o : Order) (d : ADest) (xa xb : XReg) (off : BitVec 48) (s : State) :
    Host.Outcome State Fault Refusal :=
  let regs := match d with | .res xd => [xd, xa, xb] | .drop => [xa, xb]
  memOp g regs xa off n n .atomic s fun ea t s => s.relThen o fun s =>
    let b := s.me.xr xb
    match d with
    | .res xd => s.atomResult ea t op n b 0 (.atom op n b 0 xd none none o)
    | .drop => s.issueStore ea t (.atom op b o) [] n fun s =>
      match Order.acq o with
      | some sc => s.tryFinish [] (.acq sc)
      | none => s.commit

/-- Bytes of an atomic's width bit. -/
def atomBytes (w8 : Bool) : Nat := if w8 then 8 else 4

/-- AADD (R279). -/
def execAadd (g : Guard) (w8 : Bool) := atomOp .add g (atomBytes w8)
/-- AAND (R279). -/
def execAand (g : Guard) (w8 : Bool) := atomOp .and g (atomBytes w8)
/-- AOR (R279). -/
def execAor (g : Guard) (w8 : Bool) := atomOp .or g (atomBytes w8)
/-- AXOR (R279). -/
def execAxor (g : Guard) (w8 : Bool) := atomOp .xor g (atomBytes w8)
/-- AMIN (R279). -/
def execAmin (g : Guard) (w8 u : Bool) := atomOp (if u then .minu else .min) g (atomBytes w8)
/-- AMAX (R279). -/
def execAmax (g : Guard) (w8 u : Bool) := atomOp (if u then .maxu else .max) g (atomBytes w8)
/-- ASWAP (R279). -/
def execAswap (g : Guard) (w8 : Bool) := atomOp .swap g (atomBytes w8)
/-- AFADD (R279). -/
def execAfadd (g : Guard) := atomOp .fadd g 4

/-- ACAS (R279). -/
def execAcas (g : Guard) (w8 : Bool) (o : Order) (xd : XReg) (pd pe : PReg) (xa xb : XReg) (off : BitVec 48) (s : State) :
    Host.Outcome State Fault Refusal :=
  memOp g [xd, xa, xb] xa off (atomBytes w8) (atomBytes w8) .atomic s fun ea t s => s.relThen o fun s =>
    let b := s.me.xr xb
    let c := s.me.xr xd
    s.atomResult ea t .cas (atomBytes w8) b c (.atom .cas (atomBytes w8) b c xd (some pd) (some pe) o)

end Sys2Proof.Machine
end

