-- ==== Sys2Proof/Machine/PageIns.lean ====
section
/-! DEFINITION. TLBI and PROBE (17_page R415 to R417). -/

namespace Sys2Proof.Machine

/-- The entries of a TLBI's mode that belong to context `c` (R416). -/
def tlbiHits (c : Nat) (va : Option Nat) (ctx : Bool) (e : TlbE) : Bool :=
  decide (e.ctx = c) && (match va with
    | some a => e.covers c a
    | none => !(ctx && pteG e.pte.toNat))

/-- The removal of a TLBI at the TLBs of its reach, and of what instructions that wait at issue there keep of them (R416). A walk in flight reads the tables when it ends, so its restart
leaves no trace. -/
def State.tlbi (s : State) (r : Reach) (hit : TlbE → Bool) : State :=
  let me := s.cur.core
  let inCore := fun (k : Nat) => match r with
    | .core => decide (k = me)
    | .clu => decide (clusterOf k = clusterOf me)
    | .dev => true
  let inClu := fun (k : Nat) => match r with
    | .core => false
    | .clu => decide (k = clusterOf me)
    | .dev => true
  { s with
    slots := s.slots.mapVals fun i x =>
      if inCore (Tid.ofKey i).core then { x with th := { x.th with pages := x.th.pages.filter fun e => !hit e } } else x,
    cores := s.cores.mapVals fun k x => if inCore k then { x with tlb := x.tlb.filter fun e => !hit e } else x,
    clusters := s.clusters.mapVals fun k x => if inClu k then { x with l2 := x.l2.filter fun e => !hit e } else x }

/-- TLBI. -/
def execTlbi (g : Guard) (r : Reach) (m : TlbiMode) (s : State) : Host.Outcome State Fault Refusal :=
  let regs := match m with | .page xa => [xa] | _ => []
  privileged true s (guarded g regs s fun s =>
    let c := s.me.ctx
    match m with
    | .page xa =>
      let a := (s.me.xr xa).toNat
      if 2 ^ 48 ≤ a ∨ a < spadSize then s.commit else (s.tlbi r (tlbiHits c (some a) false)).commit
    | .ctx => (s.tlbi r (tlbiHits c none true)).commit
    | .all => (s.tlbi r (tlbiHits c none false)).commit)

/-- The result of a PROBE that fails (R417). -/
def probeFail (c : Cause) (level : Nat) : Word := word (2 ^ 63 + level * 2 ^ 8 + causeCode c)

/-- PROBE. An address with bits [63:48] nonzero fails as a check of R404 does (log 23). -/
def execProbe (g : Guard) (acc : Perm) (xd : XReg) (pd pe : PReg) (xa : XReg) (s : State) : Host.Outcome State Fault Refusal :=
  privileged true s (guarded g [xa, xd] s fun s =>
    let a := (s.me.xr xa).toNat
    let bad := fun (s : State) (c : Cause) (level : Nat) =>
      (s.modMe fun t => (t.setX xd (probeFail c level)).setPP pd pe false).commit
    if 2 ^ 48 ≤ a then bad s .addr 3
    else if a < spadSize then s.accept xd pd pe 0
    else match s.xlate a with
      | .wait s => s
      | .fault c level s => bad s c level
      | .ok e s => match permCheck s s.me.ctx e.pte.toNat (e.pa a) acc with
        | some c => bad s c 3
        | none => s.accept xd pd pe e.pte)

end Sys2Proof.Machine
end

