-- ==== Sys2Proof/Machine/Scalar.lean ====
section
/-! DEFINITION. Integer, bit and predicate instructions (10_thread_scalar R262 to R272). -/

namespace Sys2Proof.Machine

/-- An instruction that writes x[XD] := f a b with a := x[XA] and b the second source (R268). -/
def binop (f : Word → Word → Word) (g : Guard) (xd xa : XReg) (b : Src) (s : State) : Host.Outcome State Fault Refusal :=
  guarded g (xd :: xa :: srcRegs b) s fun s =>
    (s.modMe fun t => t.setX xd (f (t.xr xa) (t.src b))).commit

/-- An instruction that writes x[XD] := f x[XA] (R268). -/
def unop (f : Word → Word) (g : Guard) (xd xa : XReg) (s : State) : Host.Outcome State Fault Refusal :=
  guarded g [xd, xa] s fun s => (s.modMe fun t => t.setX xd (f (t.xr xa))).commit

/-! ### The functions of R268 -/

/-- High 64 bits of the product, signed or unsigned. -/
def mulHigh (u : Bool) (a b : Word) : Word :=
  if u then BitVec.ofNat 64 (a.toNat * b.toNat / 2 ^ 64)
  else BitVec.ofInt 64 (a.toInt * b.toInt / 2 ^ 64)

/-- DIV with its corners. -/
def divOp (u : Bool) (a b : Word) : Word :=
  if b = 0 then ones else if u then BitVec.udiv a b else BitVec.sdiv a b

/-- REM with its corners. -/
def remOp (u : Bool) (a b : Word) : Word :=
  if b = 0 then a else if u then BitVec.umod a b else BitVec.srem a b

/-- The amount of a shift or rotate: b mod 64. -/
def shAmt (b : Word) : Nat := b.toNat % 64

/-- The smaller (or, with `mx`, the larger), compared as unsigned with `u`. -/
def pickOp (mx u : Bool) (a b : Word) : Word :=
  let less := if u then BitVec.ult a b else BitVec.slt a b
  if Bool.xor less mx then a else b

/-- Leading zero bits among the low `n` bits. -/
def clzN : Nat → Nat → Nat
  | 0, _ => 0
  | n + 1, v => if bitN v n then 0 else 1 + clzN n v

/-- Trailing zero bits of `v` among `n`. -/
def ctzN : Nat → Nat → Nat
  | 0, _ => 0
  | n + 1, v => if v % 2 = 1 then 0 else 1 + ctzN n (v / 2)

/-- One bits of the low `n` bits. -/
def popcN : Nat → Nat → Nat
  | 0, _ => 0
  | n + 1, v => v % 2 + popcN n (v / 2)

/-- Field position and mask of BEXT and BINS: p := b[5:0], m := 2^(b[13:8] + 1) − 1. -/
def fieldPos (b : Word) : Nat := b.toNat % 64
def fieldMask (b : Word) : Word := word (2 ^ (fld b.toNat 8 6 + 1) - 1)

def bextOp (a b : Word) : Word := (a >>> fieldPos b) &&& fieldMask b

/-- BINS: the field of the destination replaced by the low bits of a. -/
def binsOp (d a b : Word) : Word :=
  let F := fieldMask b <<< fieldPos b
  (d &&& ~~~F) ||| ((a <<< fieldPos b) &&& F)

/-- SEXT of the low 1, 2 or 4 bytes. -/
def sextOp (w : SextW) (a : Word) : Word :=
  match w with
  | .b1 => (a.truncate 8).signExtend 64
  | .b2 => (a.truncate 16).signExtend 64
  | .b4 => (a.truncate 32).signExtend 64

/-- CMP conditions (R271). -/
def cmpOp (c : CmpCond) (a b : Word) : Bool :=
  match c with
  | .eq => decide (a = b)
  | .ne => decide (a ≠ b)
  | .lt => BitVec.slt a b
  | .ge => !BitVec.slt a b
  | .ltu => BitVec.ult a b
  | .geu => !BitVec.ult a b

/-- PANY conditions (R272). -/
def anyOp (k : AnyKind) (p m : Word) : Bool :=
  match k with
  | .any => decide (p &&& m ≠ 0)
  | .all => decide (p &&& m = m)
  | .none => decide (p &&& m = 0)

/-! ### Meanings -/

/-- ADD (R268). -/
def execAdd := binop (· + ·)
/-- SUB (R268). -/
def execSub := binop (· - ·)
/-- MUL (R268). -/
def execMul := binop (· * ·)
/-- MULH (R268). -/
def execMulh (g : Guard) (u : Bool) := binop (mulHigh u) g
/-- DIV (R268). -/
def execDiv (g : Guard) (u : Bool) := binop (divOp u) g
/-- REM (R268). -/
def execRem (g : Guard) (u : Bool) := binop (remOp u) g
/-- AND (R268). -/
def execAnd := binop (· &&& ·)
/-- OR (R268). -/
def execOr := binop (· ||| ·)
/-- XOR (R268). -/
def execXor := binop (· ^^^ ·)
/-- ANDN (R268). -/
def execAndn := binop fun a b => a &&& ~~~b
/-- ORN (R268). -/
def execOrn := binop fun a b => a ||| ~~~b
/-- SHL (R268). -/
def execShl := binop fun a b => a <<< shAmt b
/-- SHR (R268). -/
def execShr := binop fun a b => a >>> shAmt b
/-- SAR (R268). -/
def execSar := binop fun a b => BitVec.sshiftRight a (shAmt b)
/-- ROL (R268). -/
def execRol := binop fun a b => BitVec.rotateLeft a (shAmt b)
/-- MIN (R268). -/
def execMin (g : Guard) (u : Bool) := binop (pickOp false u) g
/-- MAX (R268). -/
def execMax (g : Guard) (u : Bool) := binop (pickOp true u) g
/-- CLZ (R268). -/
def execClz := unop fun a => word (clzN 64 a.toNat)
/-- CTZ (R268). -/
def execCtz := unop fun a => word (ctzN 64 a.toNat)
/-- POPC (R268). -/
def execPopc := unop fun a => word (popcN 64 a.toNat)
/-- BEXT (R268). -/
def execBext := binop bextOp
/-- BINS, which also reads its destination (R268). -/
def execBins (g : Guard) (xd xa : XReg) (b : Src) (s : State) : Host.Outcome State Fault Refusal :=
  guarded g (xd :: xa :: srcRegs b) s fun s =>
    (s.modMe fun t => t.setX xd (binsOp (t.xr xd) (t.xr xa) (t.src b))).commit
/-- SEXT (R268). -/
def execSext (g : Guard) (w : SextW) := unop (sextOp w) g
/-- MOV (R268). -/
def execMov (g : Guard) (xd : XReg) (b : Src) (s : State) : Host.Outcome State Fault Refusal :=
  guarded g (xd :: srcRegs b) s fun s => (s.modMe fun t => t.setX xd (t.src b)).commit
/-- LI (R269). -/
def execLi (g : Guard) (xd : XReg) (v : Word) (s : State) : Host.Outcome State Fault Refusal :=
  guarded g [xd] s fun s => (s.modMe fun t => t.setX xd v).commit
/-- SEL: the selector is bit 0 of a predicate, possibly negated (R271). -/
def execSel (g : Guard) (xd : XReg) (pn : PReg) (neg : Bool) (xa : XReg) (b : Src) (s : State) :
    Host.Outcome State Fault Refusal :=
  guarded g (xd :: xa :: srcRegs b) s fun s =>
    (s.modMe fun t => t.setX xd (if Bool.xor ((t.pr pn).getLsbD 0) neg then t.xr xa else t.src b)).commit
/-- CMP (R271). -/
def execCmp (g : Guard) (c : CmpCond) (pd pe : PReg) (xa : XReg) (b : Src) (s : State) :
    Host.Outcome State Fault Refusal :=
  guarded g (xa :: srcRegs b) s fun s =>
    (s.modMe fun t => t.setPP pd pe (cmpOp c (t.xr xa) (t.src b))).commit
/-- TSTB (R271). -/
def execTstb (g : Guard) (pd pe : PReg) (xa : XReg) (b : Src) (s : State) : Host.Outcome State Fault Refusal :=
  guarded g (xa :: srcRegs b) s fun s =>
    (s.modMe fun t => t.setPP pd pe ((t.xr xa).getLsbD (shAmt (t.src b)))).commit

/-- p[PD] := f p[A] p[B] (R272). -/
def predOp (f : Word → Word → Word) (g : Guard) (pd pa pb : PReg) (s : State) : Host.Outcome State Fault Refusal :=
  guarded g [] s fun s => (s.modMe fun t => t.setP pd (f (t.pr pa) (t.pr pb))).commit

/-- PAND (R272). -/
def execPand := predOp (· &&& ·)
/-- POR (R272). -/
def execPor := predOp (· ||| ·)
/-- PXOR (R272). -/
def execPxor := predOp (· ^^^ ·)
/-- PANDN (R272). -/
def execPandn := predOp fun a b => a &&& ~~~b
/-- PNOT (R272). -/
def execPnot (g : Guard) (pd pa : PReg) (s : State) : Host.Outcome State Fault Refusal :=
  guarded g [] s fun s => (s.modMe fun t => t.setP pd (~~~(t.pr pa))).commit
/-- PMOV.ptox (R272). -/
def execPmovPtox (g : Guard) (xd : XReg) (pa : PReg) (s : State) : Host.Outcome State Fault Refusal :=
  guarded g [xd] s fun s => (s.modMe fun t => t.setX xd (t.pr pa)).commit
/-- PMOV.xtop (R272). -/
def execPmovXtop (g : Guard) (pd : PReg) (xa : XReg) (s : State) : Host.Outcome State Fault Refusal :=
  guarded g [xa] s fun s => (s.modMe fun t => t.setP pd (t.xr xa)).commit
/-- PANY (R272). -/
def execPany (g : Guard) (k : AnyKind) (pd pe pa : PReg) (b : Src) (s : State) : Host.Outcome State Fault Refusal :=
  guarded g (srcRegs b) s fun s => (s.modMe fun t => t.setPP pd pe (anyOp k (t.pr pa) (t.src b))).commit
/-- PCNT (R272). -/
def execPcnt (g : Guard) (xd : XReg) (pa : PReg) (b : Src) (s : State) : Host.Outcome State Fault Refusal :=
  guarded g (xd :: srcRegs b) s fun s =>
    (s.modMe fun t => t.setX xd (word (popcN 64 (t.pr pa &&& t.src b).toNat))).commit

end Sys2Proof.Machine
end

