-- ==== Sys2Proof/Machine/Vector.lean ====
section
/-! DEFINITION. The vector instructions that touch no memory (12_group_vector R305 to R319). -/

namespace Sys2Proof.Machine

/-! ### The shape of a vector instruction -/

/-- A vector instruction: the window check, nothing more when no lane acts, the waits of R307, and its effect on
registers whose words are sound (R212, R306, R307, R477). `vs` are its vector registers, `rd` those it reads, `xs`
its x registers. -/
def vecIns (act : Thread → Bool) (vs rd : List Nat) (xs : List XReg) (s : State) (k : State → State) :
    Host.Outcome State Fault Refusal :=
  .next (match s.badIdx vs with
    | some i => s.trap .win (word i)
    | none =>
      if !act s.me then s.commit
      else match s.heldIdx vs with
        | some i => s.blockOn (.vhold i)
        | none => s.bankThen fun s =>
          match s.me.firstOwed xs with
          | some r => s.blockOn (.owed r)
          | none => s.readVThen rd k)

/-- Some lane of a type is enabled. -/
def actTy (g : Guard) (ty : Ty) (t : Thread) : Bool := t.anyLane g ty.lanes

/-- Width of the lanes of a type (R305). -/
def Ty.w (ty : Ty) : Nat := 1024 / ty.lanes

/-- The lanes of register `i` of the executing thread's window. -/
def State.lanesOf (s : State) (ty : Ty) (i : Nat) : List Nat := VReg.lanes (s.vr i) (Ty.w ty) ty.lanes

/-- For each lane of a type, `f` of its number when it is enabled (R306). -/
def State.mapLanes {α : Type} (s : State) (g : Guard) (n : Nat) (f : Nat → α) : List (Option α) :=
  (List.range n).map fun i => if s.me.laneOn g i then some (f i) else none

/-- An element-wise instruction with results and flags for each enabled lane (R306, R309). -/
def elemIns (g : Guard) (ty : Ty) (vd : VIdx) (srcs : List VIdx) (xs : List XReg) (f : State → List Nat → Nat → Nat × Flags)
    (s : State) : Host.Outcome State Fault Refusal :=
  vecIns (actTy g ty) (vd.val :: srcs.map (·.val)) (srcs.map (·.val)) xs s fun s =>
    let cols := srcs.map fun v => s.lanesOf ty v.val
    let r := s.mapLanes g ty.lanes fun i => f s (cols.map fun c => c.getD i 0) i
    ((s.writeElems vd.val (Ty.w ty) (r.map fun o => o.map (·.1))).orVflags
      (orFlags (r.filterMap fun o => o.map (·.2)))).commit

/-- An element-wise instruction that raises no flag. -/
def bitIns (g : Guard) (ty : Ty) (vd : VIdx) (srcs : List VIdx) (f : List Nat → Nat) (s : State) :
    Host.Outcome State Fault Refusal :=
  elemIns g ty vd srcs [] (fun _ l _ => (f l, 0)) s

/-- Decoded value of operand `i`. -/
def arg (ty : Ty) (l : List Nat) (i : Nat) : Val := (fmtOf ty).decode (l.getD i 0)

/-! ### Arithmetic (R311, R312) -/

/-- VADD. -/
def execVadd (g : Guard) (ty : Ty) (rm : Rm) (vd va vb : VIdx) (s : State) : Host.Outcome State Fault Refusal :=
  elemIns g ty vd [va, vb] [] (fun _ l _ => (fmtOf ty).addV rm (arg ty l 0) (arg ty l 1)) s
/-- VSUB. -/
def execVsub (g : Guard) (ty : Ty) (rm : Rm) (vd va vb : VIdx) (s : State) : Host.Outcome State Fault Refusal :=
  elemIns g ty vd [va, vb] [] (fun _ l _ => (fmtOf ty).addV rm (arg ty l 0) (arg ty l 1).flip) s
/-- VMUL. -/
def execVmul (g : Guard) (ty : Ty) (rm : Rm) (vd va vb : VIdx) (s : State) : Host.Outcome State Fault Refusal :=
  elemIns g ty vd [va, vb] [] (fun _ l _ => (fmtOf ty).mulV rm (arg ty l 0) (arg ty l 1)) s
/-- VFMA. -/
def execVfma (g : Guard) (ty : Ty) (rm : Rm) (vd va vb vc : VIdx) (s : State) : Host.Outcome State Fault Refusal :=
  elemIns g ty vd [va, vb, vc] [] (fun _ l _ => (fmtOf ty).fmaV rm (arg ty l 0) (arg ty l 1) (arg ty l 2)) s
/-- VFMS. -/
def execVfms (g : Guard) (ty : Ty) (rm : Rm) (vd va vb vc : VIdx) (s : State) : Host.Outcome State Fault Refusal :=
  elemIns g ty vd [va, vb, vc] [] (fun _ l _ => (fmtOf ty).fmaV rm (arg ty l 0) (arg ty l 1) (arg ty l 2).flip) s

/-- Minimum or maximum of two elements of a type (R82, R312). -/
def minmaxElem (ty : Ty) (mx : Bool) (a b : Nat) : Nat × Flags :=
  if ty.isFloat then (fmtOf ty).minmax mx a b
  else
    let less := decide (intVal ty.bits ty.isSigned a < intVal ty.bits ty.isSigned b)
    (if Bool.xor less mx then a else b, 0)

/-- VMIN. -/
def execVmin (g : Guard) (ty : Ty) (vd va vb : VIdx) (s : State) : Host.Outcome State Fault Refusal :=
  elemIns g ty vd [va, vb] [] (fun _ l _ => minmaxElem ty false (l.getD 0 0) (l.getD 1 0)) s
/-- VMAX. -/
def execVmax (g : Guard) (ty : Ty) (vd va vb : VIdx) (s : State) : Host.Outcome State Fault Refusal :=
  elemIns g ty vd [va, vb] [] (fun _ l _ => minmaxElem ty true (l.getD 0 0) (l.getD 1 0)) s

/-- |a| of an element: the sign bit cleared, or the value modulo 2^w (R312). -/
def absElem (ty : Ty) (a : Nat) : Nat :=
  let m := 2 ^ ty.bits
  if ty.isFloat then a % (m / 2) else if bitN a (ty.bits - 1) then (m - a) % m else a
/-- −a of an element. -/
def negElem (ty : Ty) (a : Nat) : Nat :=
  let m := 2 ^ ty.bits
  if ty.isFloat then (if bitN a (ty.bits - 1) then a - m / 2 else a + m / 2) else (m - a) % m

/-- VABS. -/
def execVabs (g : Guard) (ty : Ty) (vd va : VIdx) (s : State) : Host.Outcome State Fault Refusal :=
  bitIns g ty vd [va] (fun l => absElem ty (l.getD 0 0)) s
/-- VNEG. -/
def execVneg (g : Guard) (ty : Ty) (vd va : VIdx) (s : State) : Host.Outcome State Fault Refusal :=
  bitIns g ty vd [va] (fun l => negElem ty (l.getD 0 0)) s
/-- VRCP. -/
def execVrcp (g : Guard) (ty : Ty) (rm : Rm) (vd va : VIdx) (s : State) : Host.Outcome State Fault Refusal :=
  elemIns g ty vd [va] [] (fun _ l _ => (fmtOf ty).rcp rm (arg ty l 0)) s
/-- VRSQ. -/
def execVrsq (g : Guard) (ty : Ty) (rm : Rm) (vd va : VIdx) (s : State) : Host.Outcome State Fault Refusal :=
  elemIns g ty vd [va] [] (fun _ l _ => (fmtOf ty).rsq rm (arg ty l 0)) s
/-- VEXP2. -/
def execVexp2 (g : Guard) (ty : Ty) (rm : Rm) (vd va : VIdx) (s : State) : Host.Outcome State Fault Refusal :=
  elemIns g ty vd [va] [] (fun _ l _ => (fmtOf ty).exp2 rm (arg ty l 0)) s
/-- VLOG2. -/
def execVlog2 (g : Guard) (ty : Ty) (rm : Rm) (vd va : VIdx) (s : State) : Host.Outcome State Fault Refusal :=
  elemIns g ty vd [va] [] (fun _ l _ => (fmtOf ty).log2 rm (arg ty l 0)) s

/-! ### Integer and bit lanes (R313) -/

/-- VIADD. -/
def execViadd (g : Guard) (ty : Ty) (vd va vb : VIdx) (s : State) : Host.Outcome State Fault Refusal :=
  bitIns g ty vd [va, vb] (fun l => (l.getD 0 0 + l.getD 1 0) % 2 ^ ty.bits) s
/-- VIMUL. -/
def execVimul (g : Guard) (ty : Ty) (vd va vb : VIdx) (s : State) : Host.Outcome State Fault Refusal :=
  bitIns g ty vd [va, vb] (fun l => l.getD 0 0 * l.getD 1 0 % 2 ^ ty.bits) s
/-- VAND. -/
def execVand (g : Guard) (ty : Ty) (vd va vb : VIdx) (s : State) : Host.Outcome State Fault Refusal :=
  bitIns g ty vd [va, vb] (fun l => l.getD 0 0 &&& l.getD 1 0) s
/-- VOR. -/
def execVor (g : Guard) (ty : Ty) (vd va vb : VIdx) (s : State) : Host.Outcome State Fault Refusal :=
  bitIns g ty vd [va, vb] (fun l => l.getD 0 0 ||| l.getD 1 0) s
/-- VXOR. -/
def execVxor (g : Guard) (ty : Ty) (vd va vb : VIdx) (s : State) : Host.Outcome State Fault Refusal :=
  bitIns g ty vd [va, vb] (fun l => l.getD 0 0 ^^^ l.getD 1 0) s

/-- A shift by b_i mod w, or by an immediate mod w (R313). -/
def shiftIns (f : Nat → Nat → Nat) (g : Guard) (ty : Ty) (vd va : VIdx) (sh : VShift) (s : State) :
    Host.Outcome State Fault Refusal :=
  match sh with
  | .reg vb => bitIns g ty vd [va, vb] (fun l => f (l.getD 0 0) (l.getD 1 0 % ty.bits)) s
  | .imm n => bitIns g ty vd [va] (fun l => f (l.getD 0 0) (n.val % ty.bits)) s

/-- VSHL. -/
def execVshl (g : Guard) (ty : Ty) := shiftIns (fun a n => a * 2 ^ n % 2 ^ ty.bits) g ty
/-- VSHR. -/
def execVshr (g : Guard) (ty : Ty) := shiftIns (fun a n => a / 2 ^ n) g ty
/-- VSAR: filled with bit w − 1 on every accepted type. -/
def execVsar (g : Guard) (ty : Ty) :=
  shiftIns (fun a n => (intVal ty.bits true a / (2 ^ n : Nat) % (2 ^ ty.bits : Nat)).toNat) g ty
/-- VIDX. -/
def execVidx (g : Guard) (ty : Ty) (vd : VIdx) (xa : XReg) (step : BitVec 32) (s : State) : Host.Outcome State Fault Refusal :=
  elemIns g ty vd [] [xa]
    (fun s _ i => ((((s.me.xr xa).toNat : Int) + i * step.toInt) % (2 ^ ty.bits : Nat) |>.toNat, 0)) s

/-! ### Compare and classify (R314, R315) -/

/-- A predicate with the bits of enabled lanes replaced (R306). -/
def laneBits (old : Word) (l : List (Option Bool)) : Word :=
  BitVec.ofNat 64 ((List.range 64).foldl (fun acc i =>
    acc + (match l[i]? with
      | some (some b) => b2n b
      | _ => b2n (old.getLsbD i)) * 2 ^ i) 0)

/-- PD and then PE written with lane conditions; with PD = PE the PE value stands (R314). -/
def Thread.setLanesP (t : Thread) (pd pe : PReg) (l : List (Option Bool)) : Thread :=
  let t' := t.setP pd (laneBits (t.pr pd) l)
  t'.setP pe (laneBits (t.pr pe) (l.map fun o => o.map (!·)))

/-- A lane comparison and its flag (R82, R314). -/
def cmpElem (c : VCond) (ty : Ty) (a b : Nat) : Bool × Flags :=
  if ty.isFloat then
    let x := (fmtOf ty).decode a
    let y := (fmtOf ty).decode b
    let r := match c with
      | .eq => Val.eq x y
      | .lt => Val.lt x y
      | .le => Val.lt x y || Val.eq x y
      | .un => x.isNan || y.isNan
    (r, flagIf (x.snan || y.snan) fNV)
  else
    let x := intVal ty.bits ty.isSigned a
    let y := intVal ty.bits ty.isSigned b
    (match c with
      | .eq => decide (x = y)
      | .lt => decide (x < y)
      | .le => decide (x ≤ y)
      | .un => false, 0)

/-- VCMP (R314). -/
def execVcmp (g : Guard) (c : VCond) (ty : Ty) (pd pe : PReg) (va vb : VIdx) (s : State) : Host.Outcome State Fault Refusal :=
  vecIns (actTy g ty) [va.val, vb.val] [va.val, vb.val] [] s fun s =>
    let a := s.lanesOf ty va.val
    let b := s.lanesOf ty vb.val
    let r := s.mapLanes g ty.lanes fun i => cmpElem c ty (a.getD i 0) (b.getD i 0)
    ((s.modMe fun t => t.setLanesP pd pe (r.map fun o => o.map (·.1))).orVflags
      (orFlags (r.filterMap fun o => o.map (·.2)))).commit

/-- The class of an element (R315). -/
def classBit (f : Fmt) (a : Nat) : Nat :=
  let v := f.decode a
  let neg := bitN a (f.eb + f.mb)
  if v.snan then 0 else if v.isNan then 1
  else if v.isInf then (if neg then 2 else 9)
  else if v.isZero then (if neg then 5 else 6)
  else if fld a f.mb f.eb = 0 then (if neg then 4 else 7)
  else if neg then 3 else 8

/-- VCLASS (R315). -/
def execVclass (g : Guard) (ty : Ty) (vd : VIdx) (pd pe : PReg) (va : VIdx) (mask : BitVec 10) (s : State) :
    Host.Outcome State Fault Refusal :=
  vecIns (actTy g ty) [vd.val, va.val] [va.val] [] s fun s =>
    let a := s.lanesOf ty va.val
    let r := s.mapLanes g ty.lanes fun i => classBit (fmtOf ty) (a.getD i 0)
    ((s.writeElems vd.val (Ty.w ty) (r.map fun o => o.map (2 ^ ·))).modMe fun t =>
      t.setLanesP pd pe (r.map fun o => o.map fun c => mask.getLsbD c)).commit

/-! ### Moves, selects, lanes (R316, R317) -/

/-- VMOV. -/
def execVmov (g : Guard) (ty : Ty) (vd va : VIdx) (s : State) : Host.Outcome State Fault Refusal :=
  bitIns g ty vd [va] (fun l => l.getD 0 0) s
/-- VSEL. -/
def execVsel (g : Guard) (ty : Ty) (vd : VIdx) (pn : PReg) (neg : Bool) (va vb : VIdx) (s : State) :
    Host.Outcome State Fault Refusal :=
  elemIns g ty vd [va, vb] []
    (fun s l i => (if Bool.xor ((s.me.pr pn).getLsbD i) neg then l.getD 0 0 else l.getD 1 0, 0)) s
/-- VBCST. -/
def execVbcst (g : Guard) (ty : Ty) (vd : VIdx) (xa : XReg) (s : State) : Host.Outcome State Fault Refusal :=
  elemIns g ty vd [] [xa] (fun s _ _ => ((s.me.xr xa).toNat % 2 ^ ty.bits, 0)) s
/-- VINS: only the guard bit of lane k counts. -/
def execVins (g : Guard) (ty : Ty) (vd : VIdx) (xa : XReg) (k : Fin 64) (s : State) : Host.Outcome State Fault Refusal :=
  vecIns (fun t => t.laneOn g k.val) [vd.val] [] [xa] s fun s =>
    (s.writeElems vd.val (Ty.w ty) ((List.range ty.lanes).map fun i =>
      if i = k.val then some ((s.me.xr xa).toNat % 2 ^ ty.bits) else none)).commit
/-- VEXTR: sign-extended for i32 and i16. -/
def execVextr (g : Guard) (ty : Ty) (xd : XReg) (va : VIdx) (k : Fin 64) (s : State) : Host.Outcome State Fault Refusal :=
  vecIns (fun t => t.laneOn g k.val) [va.val] [va.val] [xd] s fun s =>
    (s.modMe fun t => t.setX xd (BitVec.ofInt 64
      (intVal ty.bits ty.isSigned (VReg.lane (s.vr va.val) (Ty.w ty) k.val)))).commit

/-- The table of two registers (R317). -/
def State.table (s : State) (ty : Ty) (a b : Nat) : List Nat := s.lanesOf ty a ++ s.lanesOf ty b

/-- VPERM: vB supplies the indices. -/
def execVperm (g : Guard) (ty : Ty) (vd va vb vc : VIdx) (s : State) : Host.Outcome State Fault Refusal :=
  vecIns (actTy g ty) [vd.val, va.val, vb.val, vc.val] [va.val, vb.val, vc.val] [] s fun s =>
    let c := s.table ty va.val vc.val
    let x := s.lanesOf ty vb.val
    (s.writeElems vd.val (Ty.w ty) (s.mapLanes g ty.lanes fun i => c.getD (x.getD i 0 % (2 * ty.lanes)) 0)).commit

/-- The table position a VSHUF lane takes, with L lanes (R317). -/
def shufAt (m : Shuf) (L i : Nat) : Nat :=
  match m with
  | .zipl => if i % 2 = 0 then i / 2 else L + (i - 1) / 2
  | .ziph => if i % 2 = 0 then L / 2 + i / 2 else L + L / 2 + (i - 1) / 2
  | .even => 2 * i
  | .odd => 2 * i + 1
  | .rot k => i + k.val

/-- VSHUF. -/
def execVshuf (g : Guard) (ty : Ty) (vd va vb : VIdx) (m : Shuf) (s : State) : Host.Outcome State Fault Refusal :=
  vecIns (actTy g ty) [vd.val, va.val, vb.val] [va.val, vb.val] [] s fun s =>
    let c := s.table ty va.val vb.val
    (s.writeElems vd.val (Ty.w ty) (s.mapLanes g ty.lanes fun i => c.getD (shufAt m ty.lanes i) 0)).commit

/-! ### Conversion (R318) -/

/-- VCVT. -/
def execVcvt (g : Guard) (dt st : Ty) (ns : Bool) (rm : Rm) (vd va : VIdx) (part : Fin 8) (s : State) :
    Host.Outcome State Fault Refusal :=
  let E := 1024 / Nat.max dt.bits st.bits
  vecIns (fun t => t.anyLane g E) [vd.val, va.val] [va.val] [] s fun s =>
    let from_ := fun i => if st.bits < dt.bits then part.val * E + i else i
    let r := s.mapLanes g E fun i => cvtElem dt st ns rm (VReg.lane (s.vr va.val) st.bits (from_ i))
    -- the destination elements, `part` choosing which when the destination is the narrow side
    let base := if dt.bits < st.bits then part.val * E else 0
    let out := (List.range (1024 / dt.bits)).map fun j =>
      if base ≤ j ∧ j < base + E then (match r[j - base]? with | some (some x) => some x.1 | _ => none) else none
    ((s.writeElems vd.val dt.bits out).orVflags (orFlags (r.filterMap fun o => o.map (·.2)))).commit

/-! ### Reduction (R91, R92, R319) -/

/-- One level of the tree. -/
def redLevel {α : Type} (f : α → α → α × Flags) : List α → List α × Flags
  | a :: b :: t =>
    let (x, fl) := f a b
    let (r, fl') := redLevel f t
    (x :: r, fl ||| fl')
  | l => (l, 0)

/-- The tree, `n` levels. -/
def redTree {α : Type} (f : α → α → α × Flags) : Nat → List α → List α × Flags
  | 0, l => (l, 0)
  | n + 1, l =>
    let (l', fl) := redLevel f l
    let (r, fl') := redTree f n l'
    (r, fl ||| fl')

/-- The identity of an operation (R92). -/
def redId (op : VRedOp) (ty : Ty) : Nat :=
  let f := fmtOf ty
  let top := 2 ^ (ty.bits - 1)
  if ty.isFloat then
    match op with
    | .add => f.sign
    | .min => f.inf
    | .max => f.sign + f.inf
  else if ty.isSigned then
    match op with
    | .add => 0
    | .min => top - 1
    | .max => top
  else
    match op with
    | .min => 2 * top - 1
    | _ => 0

/-- The operation of a node (R91). -/
def redOp (op : VRedOp) (ty : Ty) (rm : Rm) (a b : Nat) : Nat × Flags :=
  match op with
  | .add =>
    if ty.isFloat then (fmtOf ty).addV rm ((fmtOf ty).decode a) ((fmtOf ty).decode b) else ((a + b) % 2 ^ ty.bits, 0)
  | .min => minmaxElem ty false a b
  | .max => minmaxElem ty true a b

/-- One node of the tree: of each side the value, and whether an enabled lane is under it (R91, R92). A sum with a side that has none is
the other side unchanged: it is exact, and its zero has the sign that RNE gives it (log 89). -/
def redNode (op : VRedOp) (ty : Ty) (rm : Rm) (a b : Nat × Bool) : (Nat × Bool) × Flags :=
  let (x, fl) := redOp op ty (if a.2 && b.2 then rm else .rne) a.1 b.1
  ((x, a.2 || b.2), fl)

/-- VRED: the result goes to every lane of vD, whatever the guard. -/
def execVred (g : Guard) (op : VRedOp) (ty : Ty) (rm : Rm) (vd va : VIdx) (s : State) : Host.Outcome State Fault Refusal :=
  vecIns (actTy g ty) [vd.val, va.val] [va.val] [] s fun s =>
    let a := s.lanesOf ty va.val
    let leaves := (List.range ty.lanes).map fun i => if s.me.laneOn g i then (a.getD i 0, true) else (redId op ty, false)
    let (r, fl) := redTree (redNode op ty rm) (if ty.lanes = 32 then 5 else 6) leaves
    ((s.writeElems vd.val (Ty.w ty) (List.replicate ty.lanes (some (r.getD 0 (0, false)).1))).orVflags fl).commit

end Sys2Proof.Machine
end

