-- ==== Sys2Proof/Machine/VecMem.lean ====
section
/-! DEFINITION. VLD, VST, VLDG, VSTS (12_group_vector R320 to R322). -/

namespace Sys2Proof.Machine

/-- Enabled lanes of a type, rising. -/
def Thread.lanesOn (t : Thread) (g : Guard) (ty : Ty) : List Nat := (List.range ty.lanes).filter fun i => t.laneOn g i

/-- `t` moved on by `o` bytes within its page. -/
def Target.plus (t : Target) (o : Nat) : Target := { t with pa := t.pa + o }

/-- The bytes of a part, at once from the executing core's own scratchpad. -/
def State.ownPart (s : State) (p : Part) : Part :=
  if p.tgt.loc && decide (shapeBase < p.va.toNat + p.n) then
    { p with got := some (.ok, s.shapeBytes s.cur.core s.me.launch p.va.toNat p.n) }
  else if s.eccHit p.tgt.pa p.n then { p with got := some (.fault, []) }
  else { p with got := some (.ok, s.bytes p.tgt.pa p.n) }

/-- A vector load's parts: those of the own scratchpad are read at once; the thread waits for the others (R320,
R321). -/
def State.issueParts (s : State) (parts : List Part) (d : Dest) : State :=
  let parts := parts.map fun p => if s.atOwnCore p.tgt then s.ownPart p else p
  if parts.all fun p => p.got.isSome then s.tryFinish parts d else s.waitParts parts d

/-- VLD: the 8-byte words that hold enabled lanes are read (R320). -/
def execVld (g : Guard) (ty : Ty) (vd : VIdx) (xa : XReg) (off : BitVec 32) (s : State) : Host.Outcome State Fault Refusal :=
  vecIns (actTy g ty) [vd.val] [] [xa] s fun s =>
    let ea := s.me.xr xa + sext32 off
    match s.check ea 128 128 .ld with
    | .stop s => s
    | .go t s =>
      let on := s.me.lanesOn g ty
      let per := 64 / Ty.w ty
      let words := (List.range 16).filter fun j => on.any fun i => decide (i / per = j)
      s.issueParts (words.map fun j => { va := ea + word (8 * j), tgt := Target.plus t (8 * j), n := 8, got := none })
        (.vec vd.val ty on false)

/-- Consecutive enabled lanes of a 128-byte access gathered into runs within an aligned 8-byte word: byte offset and bytes
(R116, R322). -/
def runsOf (w : Nat) (vals : List Nat) : List Nat → List (Nat × List Byte)
  | [] => []
  | i :: rest =>
    let o := i * w / 8
    let b := bytesOf (w / 8) (vals.getD i 0)
    match runsOf w vals rest with
    | (o', b') :: t => if o + w / 8 = o' ∧ o / 8 = o' / 8 then (o, b ++ b') :: t else (o, b) :: (o', b') :: t
    | [] => [(o, b)]

/-- The pieces of a vector store of the executing thread, which waits first, before any of them, when the first finds no room
(R113). -/
def State.issuePieces (s : State) (inst : Option Nat) (ea : Word) (l : List Piece) : State :=
  match l with
  | [] => s.commit
  | p :: _ => if s.pieceFits inst p then s.putPiecesOf inst ea l else s.stallOn (.stores p.tgt true)

/-- VST: one store for the instruction, performed as 8-byte words (R116, R320). -/
def execVst (g : Guard) (ty : Ty) (va : VIdx) (xa : XReg) (off : BitVec 32) (s : State) : Host.Outcome State Fault Refusal :=
  vecIns (actTy g ty) [va.val] [va.val] [xa] s fun s =>
    let ea := s.me.xr xa + sext32 off
    match s.check ea 128 128 .st with
    | .stop s => s
    | .go t s =>
      let runs := runsOf (Ty.w ty) (s.lanesOf ty va.val) (s.me.lanesOn g ty)
      s.issuePieces (some s.nextStore) ea (runs.map fun r => { va := ea + word r.1, tgt := Target.plus t r.1, data := r.2 })

/-- addr_i of a gather or scatter (R321). -/
def laneAddr (base : Word) (idx : Nat) (sh : Fin 4) : Word := base + word (idx * 2 ^ sh.val)

/-- The checks of every enabled lane in rising order; the first failure stops the instruction (R321). -/
def State.checkLanes (s : State) (n : Nat) (o : AccOp) : List (Nat × Word) → List (Nat × Word × Target) →
    Except State (List (Nat × Word × Target) × State)
  | [], acc => .ok (acc.reverse, s)
  | (i, a) :: rest, acc =>
    match s.check a n n o with
    | .stop s => .error s
    | .go t s => s.checkLanes n o rest ((i, a, t) :: acc)

/-- Lanes and addresses of a gather or scatter. -/
def State.laneAddrs (s : State) (g : Guard) (ty : Ty) (vb : VIdx) (xa : XReg) (sh : Fin 4) : List (Nat × Word) :=
  let idx := s.lanesOf ty vb.val
  (s.me.lanesOn g ty).map fun i => (i, laneAddr (s.me.xr xa) (idx.getD i 0) sh)

/-- VLDG (R321). -/
def execVldg (g : Guard) (ty : Ty) (vd vb : VIdx) (xa : XReg) (sh : Fin 4) (s : State) : Host.Outcome State Fault Refusal :=
  vecIns (actTy g ty) [vd.val, vb.val] [vb.val] [xa] s fun s =>
    let n := Ty.w ty / 8
    match s.checkLanes n .ld (s.laneAddrs g ty vb xa sh) [] with
    | .error s => s
    | .ok (l, s) =>
      s.issueParts (l.map fun e => { va := e.2.1, tgt := e.2.2, n := n, got := none })
        (.vec vd.val ty (l.map (·.1)) true)

/-- VSTS: each lane is a store, in rising lane order (R321). -/
def execVsts (g : Guard) (ty : Ty) (va vb : VIdx) (xa : XReg) (sh : Fin 4) (s : State) : Host.Outcome State Fault Refusal :=
  vecIns (actTy g ty) [va.val, vb.val] [va.val, vb.val] [xa] s fun s =>
    let n := Ty.w ty / 8
    match s.checkLanes n .st (s.laneAddrs g ty vb xa sh) [] with
    | .error s => s
    | .ok (l, s) =>
      let vals := s.lanesOf ty va.val
      s.issuePieces none (s.me.xr xa) (l.map fun e => { va := e.2.1, tgt := e.2.2, data := bytesOf n (vals.getD e.1 0) })

end Sys2Proof.Machine
end

