-- ==== Sys2Proof/Machine/Dispatch.lean ====
section
/-! DEFINITION. One arm for each constructor of `Instr`: the one direct call of its meaning. -/

namespace Sys2Proof.Machine

/-- What an instruction or event does to the state. -/
def exec (i : Instr) (s : State) : Host.Outcome State Fault Refusal :=
  match i with
  | .issuePosition core => Sys2Proof.Machine.execIssuePosition core s
  | .add g xd xa b => Sys2Proof.Machine.execAdd g xd xa b s
  | .sub g xd xa b => Sys2Proof.Machine.execSub g xd xa b s
  | .mul g xd xa b => Sys2Proof.Machine.execMul g xd xa b s
  | .mulh g u xd xa b => Sys2Proof.Machine.execMulh g u xd xa b s
  | .div g u xd xa b => Sys2Proof.Machine.execDiv g u xd xa b s
  | .rem g u xd xa b => Sys2Proof.Machine.execRem g u xd xa b s
  | .and g xd xa b => Sys2Proof.Machine.execAnd g xd xa b s
  | .or g xd xa b => Sys2Proof.Machine.execOr g xd xa b s
  | .xor g xd xa b => Sys2Proof.Machine.execXor g xd xa b s
  | .andn g xd xa b => Sys2Proof.Machine.execAndn g xd xa b s
  | .orn g xd xa b => Sys2Proof.Machine.execOrn g xd xa b s
  | .shl g xd xa b => Sys2Proof.Machine.execShl g xd xa b s
  | .shr g xd xa b => Sys2Proof.Machine.execShr g xd xa b s
  | .sar g xd xa b => Sys2Proof.Machine.execSar g xd xa b s
  | .rol g xd xa b => Sys2Proof.Machine.execRol g xd xa b s
  | .min g u xd xa b => Sys2Proof.Machine.execMin g u xd xa b s
  | .max g u xd xa b => Sys2Proof.Machine.execMax g u xd xa b s
  | .clz g xd xa => Sys2Proof.Machine.execClz g xd xa s
  | .ctz g xd xa => Sys2Proof.Machine.execCtz g xd xa s
  | .popc g xd xa => Sys2Proof.Machine.execPopc g xd xa s
  | .bext g xd xa b => Sys2Proof.Machine.execBext g xd xa b s
  | .bins g xd xa b => Sys2Proof.Machine.execBins g xd xa b s
  | .sext g w xd xa => Sys2Proof.Machine.execSext g w xd xa s
  | .mov g xd b => Sys2Proof.Machine.execMov g xd b s
  | .li g xd v => Sys2Proof.Machine.execLi g xd v s
  | .sel g xd pn neg xa b => Sys2Proof.Machine.execSel g xd pn neg xa b s
  | .cmp g c pd pe xa b => Sys2Proof.Machine.execCmp g c pd pe xa b s
  | .tstb g pd pe xa b => Sys2Proof.Machine.execTstb g pd pe xa b s
  | .pand g pd pa pb => Sys2Proof.Machine.execPand g pd pa pb s
  | .por g pd pa pb => Sys2Proof.Machine.execPor g pd pa pb s
  | .pxor g pd pa pb => Sys2Proof.Machine.execPxor g pd pa pb s
  | .pandn g pd pa pb => Sys2Proof.Machine.execPandn g pd pa pb s
  | .pnot g pd pa => Sys2Proof.Machine.execPnot g pd pa s
  | .pmovPtox g xd pa => Sys2Proof.Machine.execPmovPtox g xd pa s
  | .pmovXtop g pd xa => Sys2Proof.Machine.execPmovXtop g pd xa s
  | .pany g k pd pe pa b => Sys2Proof.Machine.execPany g k pd pe pa b s
  | .pcnt g xd pa b => Sys2Proof.Machine.execPcnt g xd pa b s
  | .ld g w xd xa off => Sys2Proof.Machine.execLd g w xd xa off s
  | .st g w xa xb off => Sys2Proof.Machine.execSt g w xa xb off s
  | .ldn g w xd xa off => Sys2Proof.Machine.execLdn g w xd xa off s
  | .lde g xd xa off => Sys2Proof.Machine.execLde g xd xa off s
  | .ldeC g xd xa off => Sys2Proof.Machine.execLdeC g xd xa off s
  | .stf g xa xb off => Sys2Proof.Machine.execStf g xa xb off s
  | .empt g xa off => Sys2Proof.Machine.execEmpt g xa off s
  | .feq g pd pe xa off => Sys2Proof.Machine.execFeq g pd pe xa off s
  | .aadd g w8 o d xa xb off => Sys2Proof.Machine.execAadd g w8 o d xa xb off s
  | .aand g w8 o d xa xb off => Sys2Proof.Machine.execAand g w8 o d xa xb off s
  | .aor g w8 o d xa xb off => Sys2Proof.Machine.execAor g w8 o d xa xb off s
  | .axor g w8 o d xa xb off => Sys2Proof.Machine.execAxor g w8 o d xa xb off s
  | .amin g w8 u o d xa xb off => Sys2Proof.Machine.execAmin g w8 u o d xa xb off s
  | .amax g w8 u o d xa xb off => Sys2Proof.Machine.execAmax g w8 u o d xa xb off s
  | .aswap g w8 o d xa xb off => Sys2Proof.Machine.execAswap g w8 o d xa xb off s
  | .acas g w8 o xd pd pe xa xb off => Sys2Proof.Machine.execAcas g w8 o xd pd pe xa xb off s
  | .afadd g o d xa xb off => Sys2Proof.Machine.execAfadd g o d xa xb off s
  | .br g t ann loff ts => Sys2Proof.Machine.execBr g t ann loff ts s
  | .brx g ann xa => Sys2Proof.Machine.execBrx g ann xa s
  | .call g ann loff ts => Sys2Proof.Machine.execCall g ann loff ts s
  | .callx g ann xa => Sys2Proof.Machine.execCallx g ann xa s
  | .trap g b => Sys2Proof.Machine.execTrap g b s
  | .eret g => Sys2Proof.Machine.execEret g s
  | .nop g => Sys2Proof.Machine.execNop g s
  | .srd g xd n => Sys2Proof.Machine.execSrd g xd n s
  | .swr g n xa => Sys2Proof.Machine.execSwr g n xa s
  | .ts g xd => Sys2Proof.Machine.execTs g xd s
  | .cyc g xd => Sys2Proof.Machine.execCyc g xd s
  | .tpost g xd pd pe xa b => Sys2Proof.Machine.execTpost g xd pd pe xa b s
  | .fence g o => Sys2Proof.Machine.execFence g o s
  | .wswin g xd b => Sys2Proof.Machine.execWswin g xd b s
  | .spawn g xd pd pe xa b => Sys2Proof.Machine.execSpawn g xd pd pe xa b s
  | .spawnLoose g xd pd pe xa b => Sys2Proof.Machine.execSpawnLoose g xd pd pe xa b s
  | .spnr g xa xb ev => Sys2Proof.Machine.execSpnr g xa xb ev s
  | .join g xd pd pe xa => Sys2Proof.Machine.execJoin g xd pd pe xa s
  | .exit g => Sys2Proof.Machine.execExit g s
  | .yield g b => Sys2Proof.Machine.execYield g b s
  | .prio g xd pd pe xa b => Sys2Proof.Machine.execPrio g xd pd pe xa b s
  | .slot g xd pd pe b => Sys2Proof.Machine.execSlot g xd pd pe b s
  | .migr g xd pd pe xa => Sys2Proof.Machine.execMigr g xd pd pe xa s
  | .semw g k b => Sys2Proof.Machine.execSemw g k b s
  | .sema g xd pd pe k xa b => Sys2Proof.Machine.execSema g xd pd pe k xa b s
  | .chanInstall g xd pd pe xa b => Sys2Proof.Machine.execChanInstall g xd pd pe xa b s
  | .chanBlock g xd pd pe b => Sys2Proof.Machine.execChanBlock g xd pd pe b s
  | .chanUnblock g xd pd pe b => Sys2Proof.Machine.execChanUnblock g xd pd pe b s
  | .chanRemove g xd pd pe b => Sys2Proof.Machine.execChanRemove g xd pd pe b s
  | .chanQuery g xd pd pe b => Sys2Proof.Machine.execChanQuery g xd pd pe b s
  | .gname g xd => Sys2Proof.Machine.execGname g xd s
  | .gnameRank g xd pd pe b => Sys2Proof.Machine.execGnameRank g xd pd pe b s
  | .varm g vd count => Sys2Proof.Machine.execVarm g vd count s
  | .vput g va xa idx ev => Sys2Proof.Machine.execVput g va xa idx ev s
  | .send g size prio ev xa xb => Sys2Proof.Machine.execSend g size prio ev xa xb s
  | .recv g xd pd pe xa b => Sys2Proof.Machine.execRecv g xd pd pe xa b s
  | .recvTry g xd pd pe xa b => Sys2Proof.Machine.execRecvTry g xd pd pe xa b s
  | .enq g xd pd pe xa => Sys2Proof.Machine.execEnq g xd pd pe xa s
  | .mboxOpen g xd pd pe xa b => Sys2Proof.Machine.execMboxOpen g xd pd pe xa b s
  | .mboxClose g xd pd pe b => Sys2Proof.Machine.execMboxClose g xd pd pe b s
  | .mboxQuery g xd pd pe b => Sys2Proof.Machine.execMboxQuery g xd pd pe b s
  | .wid g xd sel => Sys2Proof.Machine.execWid g xd sel s
  | .trig g => Sys2Proof.Machine.execTrig g s
  | .kwait g pd pe => Sys2Proof.Machine.execKwait g pd pe s
  | .klnch g xd pd pe xa => Sys2Proof.Machine.execKlnch g xd pd pe xa s
  | .binit g scp xa b => Sys2Proof.Machine.execBinit g scp xa b s
  | .barr g xd xa => Sys2Proof.Machine.execBarr g xd xa s
  | .bexp g xd xa b => Sys2Proof.Machine.execBexp g xd xa b s
  | .bwait g xa b => Sys2Proof.Machine.execBwait g xa b s
  | .btest g pd pe xa b => Sys2Proof.Machine.execBtest g pd pe xa b s
  | .bind g scp xd pd pe xa b => Sys2Proof.Machine.execBind g scp xd pd pe xa b s
  | .unbind g xd pd pe b => Sys2Proof.Machine.execUnbind g xd pd pe b s
  | .vadd g ty rm vd va vb => Sys2Proof.Machine.execVadd g ty rm vd va vb s
  | .vsub g ty rm vd va vb => Sys2Proof.Machine.execVsub g ty rm vd va vb s
  | .vmul g ty rm vd va vb => Sys2Proof.Machine.execVmul g ty rm vd va vb s
  | .vfma g ty rm vd va vb vc => Sys2Proof.Machine.execVfma g ty rm vd va vb vc s
  | .vfms g ty rm vd va vb vc => Sys2Proof.Machine.execVfms g ty rm vd va vb vc s
  | .vmin g ty vd va vb => Sys2Proof.Machine.execVmin g ty vd va vb s
  | .vmax g ty vd va vb => Sys2Proof.Machine.execVmax g ty vd va vb s
  | .vabs g ty vd va => Sys2Proof.Machine.execVabs g ty vd va s
  | .vneg g ty vd va => Sys2Proof.Machine.execVneg g ty vd va s
  | .vrcp g ty rm vd va => Sys2Proof.Machine.execVrcp g ty rm vd va s
  | .vrsq g ty rm vd va => Sys2Proof.Machine.execVrsq g ty rm vd va s
  | .vexp2 g ty rm vd va => Sys2Proof.Machine.execVexp2 g ty rm vd va s
  | .vlog2 g ty rm vd va => Sys2Proof.Machine.execVlog2 g ty rm vd va s
  | .vcmp g c ty pd pe va vb => Sys2Proof.Machine.execVcmp g c ty pd pe va vb s
  | .vsel g ty vd pn neg va vb => Sys2Proof.Machine.execVsel g ty vd pn neg va vb s
  | .vmov g ty vd va => Sys2Proof.Machine.execVmov g ty vd va s
  | .vbcst g ty vd xa => Sys2Proof.Machine.execVbcst g ty vd xa s
  | .vextr g ty xd va k => Sys2Proof.Machine.execVextr g ty xd va k s
  | .vcvt g dt st ns rm vd va part => Sys2Proof.Machine.execVcvt g dt st ns rm vd va part s
  | .vred g op ty rm vd va => Sys2Proof.Machine.execVred g op ty rm vd va s
  | .vperm g ty vd va vb vc => Sys2Proof.Machine.execVperm g ty vd va vb vc s
  | .vshuf g ty vd va vb m => Sys2Proof.Machine.execVshuf g ty vd va vb m s
  | .vand g ty vd va vb => Sys2Proof.Machine.execVand g ty vd va vb s
  | .vor g ty vd va vb => Sys2Proof.Machine.execVor g ty vd va vb s
  | .vxor g ty vd va vb => Sys2Proof.Machine.execVxor g ty vd va vb s
  | .vshl g ty vd va sh => Sys2Proof.Machine.execVshl g ty vd va sh s
  | .vshr g ty vd va sh => Sys2Proof.Machine.execVshr g ty vd va sh s
  | .vsar g ty vd va sh => Sys2Proof.Machine.execVsar g ty vd va sh s
  | .viadd g ty vd va vb => Sys2Proof.Machine.execViadd g ty vd va vb s
  | .vimul g ty vd va vb => Sys2Proof.Machine.execVimul g ty vd va vb s
  | .vidx g ty vd xa step => Sys2Proof.Machine.execVidx g ty vd xa step s
  | .vins g ty vd xa k => Sys2Proof.Machine.execVins g ty vd xa k s
  | .vld g ty vd xa off => Sys2Proof.Machine.execVld g ty vd xa off s
  | .vst g ty va xa off => Sys2Proof.Machine.execVst g ty va xa off s
  | .vldg g ty vd vb xa sh => Sys2Proof.Machine.execVldg g ty vd vb xa sh s
  | .vsts g ty va vb xa sh => Sys2Proof.Machine.execVsts g ty va vb xa sh s
  | .vclass g ty vd pd pe va mask => Sys2Proof.Machine.execVclass g ty vd pd pe va mask s
  | .topen g t w => Sys2Proof.Machine.execTopen g t w s
  | .tclose g t => Sys2Proof.Machine.execTclose g t s
  | .tzero g t cb nbm => Sys2Proof.Machine.execTzero g t cb nbm s
  | .tload g f d t xa xb cb nbm rmaj => Sys2Proof.Machine.execTload g f d t xa xb cb nbm rmaj s
  | .tstore g f d t xa xb cb nbm rmaj => Sys2Proof.Machine.execTstore g f d t xa xb cb nbm rmaj s
  | .tread g t vi xb xc row => Sys2Proof.Machine.execTread g t vi xb xc row s
  | .twrite g t vi xb xc row => Sys2Proof.Machine.execTwrite g t vi xb xc row s
  | .midx g t vi xa xb => Sys2Proof.Machine.execMidx g t vi xa xb s
  | .mma g d t xb xc k cb nbm => Sys2Proof.Machine.execMma g d t xb xc k cb nbm s
  | .mres g w t => Sys2Proof.Machine.execMres g w t s
  | .tsave g d t xa => Sys2Proof.Machine.execTsave g d t xa s
  | .trest g d t xa => Sys2Proof.Machine.execTrest g d t xa s
  | .tqry g xa t => Sys2Proof.Machine.execTqry g xa t s
  | .mcnt g d bk t xb xc k nbm => Sys2Proof.Machine.execMcnt g d bk t xb xc k nbm s
  | .mmrg g d => Sys2Proof.Machine.execMmrg g d s
  | .mdrn g d bk t cb nbm => Sys2Proof.Machine.execMdrn g d bk t cb nbm s
  | .mclr g d bk => Sys2Proof.Machine.execMclr g d bk s
  | .mdep g xa bk => Sys2Proof.Machine.execMdep g xa bk s
  | .cpy g o xa xb xc => Sys2Proof.Machine.execCpy g o xa xb xc s
  | .cpy2 g o xa xb xc => Sys2Proof.Machine.execCpy2 g o xa xb xc s
  | .cpym g o xa xb xc msk => Sys2Proof.Machine.execCpym g o xa xb xc msk s
  | .cpyw g o xa xb xc => Sys2Proof.Machine.execCpyw g o xa xb xc s
  | .fill g o xa xb xc => Sys2Proof.Machine.execFill g o xa xb xc s
  | .cpyr g op o xa xb xc => Sys2Proof.Machine.execCpyr g op o xa xb xc s
  | .portq g xa => Sys2Proof.Machine.execPortq g xa s
  | .tlbi g r m => Sys2Proof.Machine.execTlbi g r m s
  | .probe g acc xd pd pe xa => Sys2Proof.Machine.execProbe g acc xd pd pe xa s
  | .loadReply core slot => Sys2Proof.Machine.execLoadReply core slot s
  | .ldnReply core slot x => Sys2Proof.Machine.execLdnReply core slot x s
  | .storeAcknowledged id => Sys2Proof.Machine.execStoreAcknowledged id s
  | .writeCombiningIdleDrain core line => Sys2Proof.Machine.execWriteCombiningIdleDrain core line s
  | .refreshWindowEnd bank => Sys2Proof.Machine.execRefreshWindowEnd bank s
  | .vbankPowerDown core bank => Sys2Proof.Machine.execVbankPowerDown core bank s
  | .vbankWakeEnd core bank => Sys2Proof.Machine.execVbankWakeEnd core bank s
  | .commandStart core cmd => Sys2Proof.Machine.execCommandStart core cmd s
  | .commandComplete core cmd => Sys2Proof.Machine.execCommandComplete core cmd s
  | .passStop core cmd folded status va => Sys2Proof.Machine.execPassStop core cmd folded status va s
  | .putArrival id => Sys2Proof.Machine.execPutArrival id s
  | .putReply id => Sys2Proof.Machine.execPutReply id s
  | .putResend id => Sys2Proof.Machine.execPutResend id s
  | .messageArrival id => Sys2Proof.Machine.execMessageArrival id s
  | .sendReply id => Sys2Proof.Machine.execSendReply id s
  | .mailboxReservationLapse core idx => Sys2Proof.Machine.execMailboxReservationLapse core idx s
  | .senderRetry id => Sys2Proof.Machine.execSenderRetry id s
  | .spawnMessage id => Sys2Proof.Machine.execSpawnMessage id s
  | .spnrAnswer id => Sys2Proof.Machine.execSpnrAnswer id s
  | .semaDelivery core slot => Sys2Proof.Machine.execSemaDelivery core slot s
  | .postDelivery core slot => Sys2Proof.Machine.execPostDelivery core slot s
  | .taskQueueRestore core => Sys2Proof.Machine.execTaskQueueRestore core s
  | .outriderPeriod => Sys2Proof.Machine.execOutriderPeriod s
  | .outriderCommand core => Sys2Proof.Machine.execOutriderCommand core s
  | .migrationArrival core slot => Sys2Proof.Machine.execMigrationArrival core slot s
  | .forwardingEntryFree core idx => Sys2Proof.Machine.execForwardingEntryFree core idx s
  | .launchWindowWrite iface off bytes => Sys2Proof.Machine.execLaunchWindowWrite iface off bytes s
  | .takeLaunchRecord => Sys2Proof.Machine.execTakeLaunchRecord s
  | .groupPlace => Sys2Proof.Machine.execGroupPlace s
  | .placementFairnessTimeout serial => Sys2Proof.Machine.execPlacementFairnessTimeout serial s
  | .pendingPlacement serial => Sys2Proof.Machine.execPendingPlacement serial s
  | .evictionDecision core => Sys2Proof.Machine.execEvictionDecision core s
  | .evictionCommit core => Sys2Proof.Machine.execEvictionCommit core s
  | .imageComplete core => Sys2Proof.Machine.execImageComplete core s
  | .spillToSaveArea key => Sys2Proof.Machine.execSpillToSaveArea key s
  | .restore isGroup key => Sys2Proof.Machine.execRestore isGroup key s
  | .looseRestoreTimeout key => Sys2Proof.Machine.execLooseRestoreTimeout key s
  | .barrierOperation core slot => Sys2Proof.Machine.execBarrierOperation core slot s
  | .barrierWake core slot => Sys2Proof.Machine.execBarrierWake core slot s
  | .bwaitTableRetry core slot => Sys2Proof.Machine.execBwaitTableRetry core slot s
  | .pageWalk cluster idx => Sys2Proof.Machine.execPageWalk cluster idx s
  | .missQueueRetry core slot => Sys2Proof.Machine.execMissQueueRetry core slot s
  | .shootdownAck core => Sys2Proof.Machine.execShootdownAck core s
  | .moveSubblockCopied ctx page => Sys2Proof.Machine.execMoveSubblockCopied ctx page s
  | .holdQueueRetry id => Sys2Proof.Machine.execHoldQueueRetry id s
  | .bandwidthRefill => Sys2Proof.Machine.execBandwidthRefill s
  | .bwcfgWrite cls v => Sys2Proof.Machine.execBwcfgWrite cls v s
  | .kickWrite iface pos => Sys2Proof.Machine.execKickWrite iface pos s
  | .rheadWrite iface pos v => Sys2Proof.Machine.execRheadWrite iface pos v s
  | .rdmaWorkRequest iface pos qp bytes => Sys2Proof.Machine.execRdmaWorkRequest iface pos qp bytes s
  | .rdmaPacketReceived p => Sys2Proof.Machine.execRdmaPacketReceived p s
  | .boundReceiveSend qp bytes => Sys2Proof.Machine.execBoundReceiveSend qp bytes s
  | .watchdogExpiry ctx => Sys2Proof.Machine.execWatchdogExpiry ctx s
  | .killDiscardEnd ctx router => Sys2Proof.Machine.execKillDiscardEnd ctx router s
  | .purgeDoneReport ctx unit => Sys2Proof.Machine.execPurgeDoneReport ctx unit s
  | .purgeConfirmed ctx => Sys2Proof.Machine.execPurgeConfirmed ctx s
  | .zeroingDone ctx => Sys2Proof.Machine.execZeroingDone ctx s
  | .functionLevelReset iface => Sys2Proof.Machine.execFunctionLevelReset iface s
  | .pcieLinkDown => Sys2Proof.Machine.execPcieLinkDown s
  | .moduleReset => Sys2Proof.Machine.execModuleReset s
  | .ctxOpen iface r => Sys2Proof.Machine.execCtxOpen iface r s
  | .ctxClose iface r => Sys2Proof.Machine.execCtxClose iface r s
  | .ctxKill iface r => Sys2Proof.Machine.execCtxKill iface r s
  | .lqCreate iface r => Sys2Proof.Machine.execLqCreate iface r s
  | .lqPause iface r => Sys2Proof.Machine.execLqPause iface r s
  | .lqResume iface r => Sys2Proof.Machine.execLqResume iface r s
  | .lqDelete iface r => Sys2Proof.Machine.execLqDelete iface r s
  | .map iface r => Sys2Proof.Machine.execMap iface r s
  | .unmap iface r => Sys2Proof.Machine.execUnmap iface r s
  | .protect iface r => Sys2Proof.Machine.execProtect iface r s
  | .move iface r => Sys2Proof.Machine.execMove iface r s
  | .wrAlloc iface r => Sys2Proof.Machine.execWrAlloc iface r s
  | .wrSeal iface r => Sys2Proof.Machine.execWrSeal iface r s
  | .wrUnseal iface r => Sys2Proof.Machine.execWrUnseal iface r s
  | .wrFree iface r => Sys2Proof.Machine.execWrFree iface r s
  | .rangeSet iface r => Sys2Proof.Machine.execRangeSet iface r s
  | .pdAlloc iface r => Sys2Proof.Machine.execPdAlloc iface r s
  | .pdFree iface r => Sys2Proof.Machine.execPdFree iface r s
  | .mrReg iface r => Sys2Proof.Machine.execMrReg iface r s
  | .mrDereg iface r => Sys2Proof.Machine.execMrDereg iface r s
  | .qpCreate iface r => Sys2Proof.Machine.execQpCreate iface r s
  | .qpModify iface r => Sys2Proof.Machine.execQpModify iface r s
  | .qpDestroy iface r => Sys2Proof.Machine.execQpDestroy iface r s
  | .qpBind iface r => Sys2Proof.Machine.execQpBind iface r s
  | .ringRead iface r => Sys2Proof.Machine.execRingRead iface r s
  | .ringRelease iface r => Sys2Proof.Machine.execRingRelease iface r s
  | .budgetSet iface r => Sys2Proof.Machine.execBudgetSet iface r s
  | .gangStop iface r => Sys2Proof.Machine.execGangStop iface r s
  | .gangRelease iface r => Sys2Proof.Machine.execGangRelease iface r s
  | .stopRead iface r => Sys2Proof.Machine.execStopRead iface r s
  | .groupMove iface r => Sys2Proof.Machine.execGroupMove iface r s
  | .quote iface r => Sys2Proof.Machine.execQuote iface r s
  | .extend iface r => Sys2Proof.Machine.execExtend iface r s
  | .ownRelease iface r => Sys2Proof.Machine.execOwnRelease iface r s
  | .ownRecover iface r => Sys2Proof.Machine.execOwnRecover iface r s
  | .ownInstall iface r => Sys2Proof.Machine.execOwnInstall iface r s
  | .imgWrite iface r => Sys2Proof.Machine.execImgWrite iface r s
  | .imgSelect iface r => Sys2Proof.Machine.execImgSelect iface r s
  | .rqtailWrite iface v slots => Sys2Proof.Machine.execRqtailWrite iface v slots s
  | .rpheadWrite iface v => Sys2Proof.Machine.execRpheadWrite iface v s
  | .farrierTakeRequest iface => Sys2Proof.Machine.execFarrierTakeRequest iface s
  | .heartbeat => Sys2Proof.Machine.execHeartbeat s
  | .heartbeatTimeout => Sys2Proof.Machine.execHeartbeatTimeout s
  | .imgctlGo window => Sys2Proof.Machine.execImgctlGo window s
  | .hvpodWrite v => Sys2Proof.Machine.execHvpodWrite v s
  | .hvctlEn port en => Sys2Proof.Machine.execHvctlEn port en s
  | .hvctlRst port => Sys2Proof.Machine.execHvctlRst port s
  | .hvctlWiden port => Sys2Proof.Machine.execHvctlWiden port s
  | .trainingEnd port l => Sys2Proof.Machine.execTrainingEnd port l s
  | .trainingTimeout port => Sys2Proof.Machine.execTrainingTimeout port s
  | .peerSignalLost port => Sys2Proof.Machine.execPeerSignalLost port s
  | .laneLost port tx lane => Sys2Proof.Machine.execLaneLost port tx lane s
  | .lmap port mask working next => Sys2Proof.Machine.execLmap port mask working next s
  | .lack port mask => Sys2Proof.Machine.execLack port mask s
  | .linkBlock port b => Sys2Proof.Machine.execLinkBlock port b s
  | .trailerTimeout port => Sys2Proof.Machine.execTrailerTimeout port s
  | .packetForward idx => Sys2Proof.Machine.execPacketForward idx s
  | .rd p => Sys2Proof.Machine.execRd p s
  | .wr p => Sys2Proof.Machine.execWr p s
  | .at_ p => Sys2Proof.Machine.execAt_ p s
  | .fe p => Sys2Proof.Machine.execFe p s
  | .bar p => Sys2Proof.Machine.execBar p s
  | .put p => Sys2Proof.Machine.execPut p s
  | .msg p => Sys2Proof.Machine.execMsg p s
  | .spn p => Sys2Proof.Machine.execSpn p s
  | .killPacket p => Sys2Proof.Machine.execKillPacket p s
  | .kack p => Sys2Proof.Machine.execKack p s
  | .rsp p => Sys2Proof.Machine.execRsp p s
  | .rty p => Sys2Proof.Machine.execRty p s
  | .packetTimerExpiry seq => Sys2Proof.Machine.execPacketTimerExpiry seq s
  | .ethernetEnable q aui => Sys2Proof.Machine.execEthernetEnable q aui s
  | .ethernetDisable q => Sys2Proof.Machine.execEthernetDisable q s
  | .ethernetAgreement q => Sys2Proof.Machine.execEthernetAgreement q s
  | .ethernetTrained q fast => Sys2Proof.Machine.execEthernetTrained q fast s
  | .ethernetNegTimeout q => Sys2Proof.Machine.execEthernetNegTimeout q s
  | .ethernetRetry q => Sys2Proof.Machine.execEthernetRetry q s
  | .ethernetFault q => Sys2Proof.Machine.execEthernetFault q s
  | .ethernetFaultClear q => Sys2Proof.Machine.execEthernetFaultClear q s
  | .ethernetFaultTimeout q => Sys2Proof.Machine.execEthernetFaultTimeout q s
  | .curbDivision die => Sys2Proof.Machine.execCurbDivision die s
  | .fdutyUpdate die => Sys2Proof.Machine.execFdutyUpdate die s
  | .curbdieWrite die v => Sys2Proof.Machine.execCurbdieWrite die v s
  | .cpwrFreqWrite core v => Sys2Proof.Machine.execCpwrFreqWrite core v s
  | .cpwrWake core => Sys2Proof.Machine.execCpwrWake core s
  | .droopTrip core mv => Sys2Proof.Machine.execDroopTrip core mv s
  | .droopPauseEnd core => Sys2Proof.Machine.execDroopPauseEnd core s
  | .droopHalvingEnd core => Sys2Proof.Machine.execDroopHalvingEnd core s
  | .phaseLoss die => Sys2Proof.Machine.execPhaseLoss die s
  | .coreIdle core => Sys2Proof.Machine.execCoreIdle core s
  | .coreRetention core => Sys2Proof.Machine.execCoreRetention core s
  | .coreGated core => Sys2Proof.Machine.execCoreGated core s
  | .coreWakeEvent core => Sys2Proof.Machine.execCoreWakeEvent core s
  | .inrushGrant cluster => Sys2Proof.Machine.execInrushGrant cluster s
  | .rampEnd core => Sys2Proof.Machine.execRampEnd core s
  | .peerSignalDetected port => Sys2Proof.Machine.execPeerSignalDetected port s
  | .softError w => Sys2Proof.Machine.execSoftError w s
  | .bufferZeroed id => Sys2Proof.Machine.execBufferZeroed id s
  | .accessAtHome a => Sys2Proof.Machine.execAccessAtHome a s
  | .frequencyRampEnd core => Sys2Proof.Machine.execFrequencyRampEnd core s
  | .rocev2Retransmission qp => Sys2Proof.Machine.execRocev2Retransmission qp s

end Sys2Proof.Machine
end

