-- ==== Sys2Proof/Machine/HostRead.lean ====
section
/-! DEFINITION. What the host driver reads (05_context R141): registers of a context's page (R141; 06_queue R160), the request
mailbox (20_image R455), the control registers of BAR0 (03_region R96; 07_kernel R207; 18_link R419, R427, R435, R437; 19_core_power
R440, R441; 20_image R451, R462), the launch windows of BAR2 (06_queue R158). A read changes nothing, so none is a step.
And what it writes that is no row of the opcode table: request slots, MBCFG and the image window (R141, R455, R462; log 68). -/

namespace Sys2Proof.Machine

/-! ### BAR0 -/

/-- What an offset of an interface's BAR0 reaches (R141). -/
inductive BarTarget where
  | control (addr : Nat)
  | mailbox (off : Nat)
  | page (pos off : Nat)
  | window (off : Nat)
  | nothing
deriving DecidableEq, Repr

/-- BAR0 decoded: interface 0 is the physical function (R139, R141). -/
def bar0Target (iface off : Nat) : BarTarget :=
  if iface = 0 then
    if off < 0x1000000 then .control (ctlBase + off)
    else if off < 0x1004000 then .mailbox (off - 0x1000000)
    else if 0x1100000 ≤ off ∧ off < 0x1110000 then .page ((off - 0x1100000) / 0x1000) (off % 0x1000)
    else if 0x1800000 ≤ off ∧ off < 0x2000000 then .window (off - 0x1800000)
    else .nothing
  else if off < 0x4000 then .mailbox off
  else if 0x10000 ≤ off ∧ off < 0x20000 then .page ((off - 0x10000) / 0x1000) (off % 0x1000)
  else .nothing

/-- What the physical function's BAR0 answers in BOOTFAIL: FARSTAT, the image window and its register (R460, R462). -/
def BarTarget.lit : BarTarget → Bool
  | .control a => decide (a = ctlBase + 0x130000) || decide (a = ctlBase + 0x130008)
  | .window _ => true
  | .mailbox _ | .page _ _ | .nothing => false

/-! ### The register page of a context -/

/-- A register of the page of a position; 0 for a page without a context and for what R141 does not name. -/
def State.pageRead (s : State) (iface pos off : Nat) : Nat :=
  match s.ctxAt iface pos with
  | none => 0
  | some c =>
    let k := s.ctx c
    let ring := fun (f : Ring → Nat) => match s.rings.get? k.ring with | some r => f r | none => 0
    let queue := fun (f : LaunchQ → Nat) => match k.queues.get? ((off - 0x100) / 0x20) with | some q => f q | none => 0
    if off = 0x008 then ring (·.rtail)
    else if off = 0x010 then ring (·.rhead)
    else if 0x100 ≤ off ∧ off < 0x180 then
      (if off % 0x20 = 0 then queue (·.head) else if off % 0x20 = 8 then queue (·.tail)
       else if off % 0x20 = 0x10 then queue (·.drops) else 0) % 2 ^ 64
    else 0

/-! ### The request mailbox -/

/-- The 128 bytes of a reply (R457). -/
def Reply.bytes (r : Reply) : List Byte :=
  bytesOf 2 r.code ++ bytesOf 1 (stCode r.status) ++ zeros 1 ++ bytesOf 4 r.reqId ++ bytesOf 8 r.r0.toNat ++ bytesOf 8 r.r1.toNat
  ++ zeros 8 ++ (r.data ++ zeros 96).take 96

/-- A register or reply word of a request mailbox (R455). -/
def State.mailboxRead (s : State) (iface off : Nat) : Nat :=
  match s.far.boxes.get? iface with
  | none => 0
  | some b =>
    if 0x1000 ≤ off ∧ off < 0x2000 then
      match b.replies.get? ((off - 0x1000) / 128) with
      | some r => getLe r.bytes (off % 128 / 8 * 8) 8
      | none => 0
    else if off = 0x3000 then b.tail else if off = 0x3008 then b.head else if off = 0x3010 then b.rptail
    else if off = 0x3018 then b.rphead else if off = 0x3020 then b.cfg else 0

/-! ### Control registers -/

/-- BWCFG of a class (R207); a write not yet in effect is what it reads. -/
def BwClass.reg (k : BwClass) : Nat :=
  match k.pendingCfg with
  | some v => v.toNat
  | none => b2n k.unl * 2 ^ 63 + k.depth * 2 ^ 32 + k.rate

/-- HVLS.ST (R435). -/
def linkStNum : LinkSt → Nat
  | .down => 0 | .train => 1 | .active => 2 | .narrow => 3 | .retrain => 4 | .failed => 5

/-- HVLS of a port (R435). -/
def Link.status (l : Link) : Nat :=
  l.bad * 2 ^ 48 + l.rpl * 2 ^ 32 + l.fails * 2 ^ 24 + l.txMask.toNat * 2 ^ 16 + l.rxw * 2 ^ 12 + l.txw * 2 ^ 8 + linkStNum l.st

/-- ENLS of an Ethernet port (R437). -/
def Eth.status (e : Eth) : Nat :=
  e.speed * 16 + match e.st with | .down => 0 | .neg => 1 | .train => 2 | .up => 3 | .fault => 4

/-- CPWR of a core, FREQ as it was last written (R440). -/
def Core.power (k : Core) : Nat :=
  k.freqNew.getD k.freq * 2 ^ 32 + k.reti * 2 ^ 16 + k.gati * 2 ^ 8
  + match k.pow with | .on => 0 | .idle => 1 | .retention => 2 | .gated => 3

/-- CURBDIE and RAIL of a die (R441). -/
def Die.budReg (d : Die) : Nat := b2n d.ovr * 2 ^ 63 + b2n d.der * 2 ^ 62 + d.bud
def Die.rail (d : Die) : Nat := d.ph * 2 ^ 40 + d.pw * 2 ^ 32 + 1200 * d.pw / d.ph

/-- FARSTAT (R451). -/
def Farrier.status (f : Farrier) : Nat :=
  f.rst * 256 + match f.st with
    | .boot => 0 | .run => 1 | .recovering => 2 | .failed => 3 | .bootfail => 4 | .unowned => 5

/-- IMGCTL (R462). -/
def Farrier.imgctl (f : Farrier) : Nat := f.err * 256 + 4 * b2n f.lck + 2 * b2n f.src

/-- One of the four words of a range-table entry (R427). -/
def Range.word (r : Range) (i : Nat) : Nat :=
  if i = 0 then r.base.toNat else if i = 1 then r.limit.toNat else if i = 2 then r.ctag + r.perm * 2 ^ 16 else 0

/-- The 64-bit control register at an address; 0 at one that no rule names, and for CURBDIE and RAIL of a die that the module lacks (R1,
R441; log 107). -/
def State.controlRead (s : State) (addr : Nat) : Nat :=
  let o := addr - ctlBase
  let reg := fun (base n : Nat) => decide (base ≤ o) && decide (o < base + 8 * n)
  if reg 0x100000 16 then ((s.bw.getD ((o - 0x100000) / 8) BwClass.reset).reg)
  else if o = 0x110000 then s.hvpod.toNat
  else if reg 0x110100 6 then (s.link ((o - 0x110100) / 8)).status
  else if reg 0x110200 6 then b2n (s.link ((o - 0x110200) / 8)).en
  else if reg 0x110300 2 then (s.eths.getD ((o - 0x110300) / 8) Eth.reset).status
  else if reg 0x120000 256 then (s.core ((o - 0x120000) / 8)).power
  else if reg 0x120800 2 then (s.dies.getD ((o - 0x120800) / 8) Die.reset).budReg
  else if reg 0x120880 2 then (s.dies.getD ((o - 0x120880) / 8) Die.reset).rail
  else if o = 0x130000 then s.far.status
  else if o = 0x130008 then s.far.imgctl
  else if reg 0x1000000 65536 then
    match s.ranges.get? ((o - 0x1000000) / 32) with
    | some r => r.word (o / 8 % 4)
    | none => 0
  else 0

/-- A 64-bit host read of BAR0 (R141). The image window is read as it was written (R462). -/
def State.bar0Read (s : State) (iface off : Nat) : Nat :=
  let a := bar0Target iface off
  if s.dark iface && !a.lit then 0
  else match a with
    | .control addr => s.controlRead addr
    | .mailbox o => s.mailboxRead iface o
    | .page pos o => s.pageRead iface pos o
    | .window o => getLe s.far.window o 8
    | .nothing => 0

/-! ### Writes that are no row of the opcode table (log 68) -/

/-- `l` with some bytes put at an offset. -/
def putBytes (l : List Byte) (o : Nat) (d : List Byte) : List Byte := slice l 0 o ++ d ++ l.drop (o + d.length)

/-- A word written to a request slot, or to MBCFG; every other offset of a request mailbox ignores writes, but for those that are rows
(R455). -/
def ReqBox.put (b : ReqBox) (off : Nat) (v : Word) : ReqBox :=
  if off < 0x1000 then
    let r := b.slots.getD (off / 128) Req.zero
    { b with slots := b.slots.set (off / 128) (Req.parse (putBytes (Req.bytes r) (off % 128 / 8 * 8) (bytesOf 8 v.toNat)) r.buf) }
  else if off = 0x3020 then { b with cfg := b2n (bitN v.toNat 16) * 2 ^ 16 + fld v.toNat 0 11 }
  else b

/-- An 8-byte write of the host (R141, R455, R462). -/
def State.hostWrite (s : State) (w : HostWrite) : State :=
  let a := bar0Target w.iface w.off
  if s.dark w.iface && !a.lit then s
  else match a with
    | .mailbox o => if w.iface < 64 then s.modReqBox w.iface fun b => b.put o w.val else s
    | .window o => if s.far.lck then s else { s with far := { s.far with window := putBytes s.far.window (o / 8 * 8) (bytesOf 8 w.val.toNat) } }
    | .control _ | .page _ _ | .nothing => s

/-- The host writes whose time has come, in their order. -/
def State.settleHost (s : State) : State :=
  (s.hostw.filter fun w => decide (w.at_ ≤ s.now)).foldl State.hostWrite { s with hostw := s.hostw.filter fun w => decide (s.now < w.at_) }

/-- A host read of BAR2: every launch window reads zeros (R158). -/
def bar2Read (_off : Nat) : Nat := 0

end Sys2Proof.Machine
end

