-- ==== Sys2Proof/Machine/Settle.lean ====
section
/-! DEFINITION. What follows from a change without an event of its own, done after every step (log 1): waits that end (09_thread_life
R237, R249, R251, R257), evictions cancelled (R259), items that leave their send port (06_queue R167), launches and groups that go
on (07_kernel R190, R191, R194; 08_group R209), shape records released (03_region R103), contexts that have closed (05_context
R143), kills put off by a save (R152), regions sealed (03_region R106), writes of the host that are no rows (R141; log 68), and checks of
an image that end (20_image R462). -/

namespace Sys2Proof.Machine

/-! ### Waits in STALL -/

/-- What an instruction that is issued again waited for is over (R237). Walks have their own events. -/
def State.retryOver (s : State) (t : Tid) (r : Retry) : Bool :=
  let th := s.thread t
  match r with
  | .walk | .missFull _ | .fetch _ | .arrive => false
  | .starter => true
  | .loads => th.owed.isEmpty
  | .stores tgt plain => decide (s.unacked t < 32) && !(plain && (s.at_ t).noBuffer tgt .plain)
  | .drained => decide (s.unacked t = 0)
  | .released => s.quiet t
  | .sendPort => !s.portFull t
  | .port copy need => s.portRoom t copy need
  | .shoot va => !s.pageBusy t.core th.ctx va
  | .tile own n => !s.tileLocked own n && (decide ((s.tile own n).st ≠ TileSt.opened) || (s.at_ t).tileFree own n)
  | .blocks n => decide (n ≤ (s.freeBlocks t.core).length) || (s.core t.core).spillBlk.isEmpty
  | .clear va n => !s.imagePending t va n (if va < spadSize then locksOf false [s.localSeg t.core va n] else [])
  | .vbank b => decide ((s.vbank t.core b).st ≠ VPow.waking)
  | .refresh until_ => decide (until_ ≤ s.now)
  | .slot => match s.slotBlock th.ctx t.core with | none => true | some only => !s.slotHope t.core only
  | .handler => !s.handlerBusy t
  | .engines => s.mayMove t
  | .held at_ => decide (at_ ≤ s.now)
  | .rotations until_ => decide (until_ ≤ (s.core t.core).cyc)

/-! ### Waits at blocking points -/

/-- A wait at a blocking point ends, when its condition holds and no other event ends it (R249, R251, R257, R276, R307). -/
def State.blockOver (s : State) (t : Tid) (b : Block) : State :=
  let me := s.at_ t
  match b with
  | .semw k n => if n ≤ (s.thread t).e[k].toNat then (me.semwTest k n).at_ s.cur else s
  | .join h xd pd pe => match me.joinTest h xd pd pe with | some s' => s'.at_ s.cur | none => s
  | .kwait _ pd pe => match me.kwaitTest pd pe with
    | some s' => if (s.thread t).owed.isEmpty then s'.at_ s.cur else s
    | none => s
  | .owed x => if (s.thread t).owed.any fun o => o.x = x then s else s.readyAt_ t
  | .vhold i => match (s.thread t).group with
    | some n => if (s.group n).armOf i = 0 then s.readyAt_ t else s
    | none => s.readyAt_ t
  | .lde tgt xd clear va => s.sendLde t va tgt xd clear
  | .bwait _ _ _ _ | .recv _ => s

/-- The LDNs of a thread that other chips hold, and that waited behind its own stores, go out (R118, R276). -/
def State.sendOwed (s : State) (t : Tid) (h : Nat) : State :=
  match s.byHandle h with
  | some th => th.owed.foldl (fun s o => s.sendLdn t h o) s
  | none => s

/-- The arrival acquire of a thread on another cluster, once no forwarded reply is owed (R122, R132, R133). -/
def State.settleArrival (s : State) (t : Tid) : State :=
  if (s.thread t).owed.isEmpty then (s.acquireAt t.core .pod).readyAt_ t else s

/-- What ends the wait of a thread, as far as it ends now. -/
def State.endWait (s : State) (t : Tid) : State :=
  match (s.slot t).st, (s.thread t).wait with
  | .stall, .retry (.fetch line) => s.settleFetch t line
  | .stall, .retry .arrive => s.settleArrival t
  | .stall, .retry r => if s.retryOver t r then s.readyAt_ t else s
  | .stall, .op (.mem parts d) =>
    if parts.all fun p => p.got.isSome then ((s.at_ t).tryFinish parts d).at_ s.cur else s.sendParts t parts d
  | .stall, .op (.put inst ea (p :: rest)) =>
    let u := s.at_ t
    if u.pieceFits inst p then (u.putPiecesOf inst ea (p :: rest)).at_ s.cur else s
  | .stall, .op (.arrive tgt va xd rs) =>
    if s.stores.any (s.boundStore t rs) then s else ((s.at_ t).barIssue .arr tgt va (some xd) 0 0 []).at_ s.cur
  | .wait, .block b | .saving, .block b => s.blockOver t b
  | _, _ => s

/-- The wait of one thread. At a core whose clock stands it goes on; a condition that has become true wakes a core that is not ON (R153,
R445, R448). -/
def State.settleThread (s : State) (t : Tid) : State :=
  let s := s.sendOwed t (s.handle t)
  if (s.core t.core).clockRuns then s.endWait t
  else if (s.core t.core).pow = .on then s
  else if (s.endWait t).slot t = s.slot t then s
  else s.wakeCore t.core

/-- The LDNs of saved threads, as `sendOwed`. -/
def State.settleSavedOwed (s : State) : State :=
  let hs := s.images.vals.map (·.hnd) ++ s.groups.vals.flatMap fun g => g.saved.map (·.2)
  hs.foldl (fun s h => s.sendOwed (tidOf h) h) s

/-- A store that waited behind an earlier store of its thread goes out to its chip (R118). -/
def State.settleStore (s : State) (id : Nat) : State :=
  match s.stores.find? fun x => x.id = id with
  | some x => if decide (x.phase = .waiting) && !s.storeBehind x && !s.heldBack x.tid x.id x.tgt then s.goHome x else s
  | none => s

/-- The stores that wait so. -/
def State.settleStores (s : State) : State := (s.stores.map (·.id)).foldl State.settleStore s

/-- A read (even) or write (odd) of a command at virtual address `w` / 2 is still to be made; with `unpaid`, by an access that its class
has not been charged for (R208). -/
def State.wordOpen (s : State) (c : Cmd) (w : Nat) (unpaid : Bool) : Bool :=
  let va := w / 2
  if w % 2 = 0 then (c.buf.get? va).isNone && !(unpaid && c.readPaid va)
  else if c.copy then
    (List.range (c.op.units s.chip)).any fun u => (c.op.unitAt s.chip u).1.zipIdx.any fun p =>
      decide (p.1.va = va) && !c.words.contains (unitKey u p.2) && !(unpaid && c.putPaid s.chip u p.2)
  else !(unpaid && c.words.any fun k => decide (k / 64 = va / 64))

/-- The access of a key is still to be made; with `unpaid`, by an access that its class has not been charged for (R208). -/
def State.stillOpen (s : State) (unpaid : Bool) (k : AccKey) : Bool :=
  match k with
  | .store id => s.stores.any fun x => decide (x.id = id) && x.phase.pending && !(unpaid && x.paid)
  | .load t => (match (s.slot t).st, (s.thread t).wait with
      | .stall, .op (.mem parts _) => parts.any fun p => p.got.isNone && !(unpaid && p.paid) && decide (p.tgt.chip = s.chip)
      | _, _ => false)
  | .ldn h x => (match s.byHandle h with | some th => th.owed.any fun o => decide (o.x = x) && o.got.isNone | none => false)
  | .word core id w => (match s.cmd? core id with
      | some c => !c.did && s.wordOpen c w unpaid
      | none => false)
  | .far src seq => s.transit.any fun e => decide (e.pkt.src = src) && decide (e.pkt.seq = seq) && decide (e.pkt.dst = s.chip)
  | .fetch t => match (s.slot t).st, (s.thread t).wait with
      | .stall, .retry (.fetch _) => true
      | _, _ => false
  | .tx _ => false

/-- A transaction of this chip has the key. -/
def State.txWaits (s : State) (k : AccKey) : Bool := s.txs.any fun x => decide (x.key = some k)

/-- An access that no longer waits leaves its class's queue, and one whose packet is answered the list of those that a full hold queue
refused (R208, R413). -/
def State.settleBand (s : State) : State :=
  { s with bwq := s.bwq.mapVals fun _ l => l.filter fun e => s.stillOpen true e.key,
           fullq := s.fullq.filter fun e => s.stillOpen false e.1 || s.txWaits e.1 }

/-- Packets that a full hold queue of another chip refused go out again when their time has come (R413, R425). -/
def State.settleFull (s : State) : State :=
  let due := s.fullq.filter fun e => decide (e.2 ≤ s.now)
  due.foldl (fun s e => match s.txs.find? fun x => x.key = some e.1 with
    | some x => (s.fullGone e.1).post x.pkt
    | none => s) s

/-- The waits of every thread. -/
def State.settleThreads (s : State) : State := s.liveSlots.foldl State.settleThread s.settleFull.settleStores.settleSavedOwed

/-! ### Evictions and images -/

/-- An eviction whose candidate has left SAVING before its commit is cancelled: its other slots wait again (R259). -/
def State.settleEvict (s : State) (core : Nat) : State :=
  match (s.core core).evict with
  | none => s
  | some (isGroup, key, _) =>
    let ts := s.candSlots (isGroup, key, 0, 0)
    let gone := decide (ts = []) || ts.any fun t => decide ((s.slot t).st ≠ .saving)
    if gone && !(isGroup && (s.group key).saving) then s.abandonEvict core isGroup key else s

/-- A complete image of a thread that can go on waits for a slot on the core it left (R259). -/
def State.settleImages (s : State) : State :=
  { s with images := s.images.mapVals fun _ (i : Image) =>
      { i with since := if s.imageReady i && (s.freeSlots i.core).isEmpty then i.since.or (some s.now) else none } }

/-! ### Items -/

/-- Waiting RECVs of the core's mailboxes are served (R165). -/
def State.settleBoxes (s : State) (core : Nat) : State :=
  (s.core core).boxes.keys.foldl (fun s k => match s.box? core k with
    | some b => if b.recvs.isEmpty || b.msgs.isEmpty then s else s.serveRecvs core k
    | none => s) s

/-- An item held in its send port leaves it when nothing before it holds it back, and the clock of its core runs (R134, R153, R167). -/
def State.settleItem (s : State) (id : Nat) : State :=
  match s.item? id with
  | some i => if i.st = .port ∧ s.itemHeld i = false ∧ (s.core i.home).clockRuns = true then s.launchItem i else s
  | none => s

/-! ### Groups and launches -/

/-- A group whose last thread has exited counts as triggered, and is gone when no command of it is in flight (R190, R209). -/
def State.settleGroup (s : State) (name : Nat) : State :=
  let g := s.group name
  if realGroup name && decide (g.st = .exiting) then
    let s := s.modLaunch g.launch fun l => if l.trig.contains g.rank then l else { l with trig := l.trig ++ [g.rank] }
    let k := s.core g.core
    let s := if k.holder = some name && !(k.cmds.any fun c => c.group = some name && !c.op.banks.isEmpty) then
      s.setCore g.core k.freeArray else s
    if s.groupBusy name then s else s.dropGroup name
  else s

/-- A thread of the launch remains, a command of its threads is in flight, or a write of them is not acknowledged (R194). -/
def State.launchBusy (s : State) (k : Nat) : Bool :=
  s.liveSlots.any (fun t => decide ((s.thread t).launch = some k))
  || s.images.any (fun e => decide (e.2.th.launch = some k))
  || s.groups.any (fun e => e.2.saved.any fun x => decide (x.1.launch = some k))
  || s.cores.any (fun e => e.2.cmds.any fun c => decide (c.launch = some k))
  || s.stores.any fun x => decide (x.launch = some k)

/-- DRAINING: the launch ends when its end condition holds (R194). -/
def State.drainLaunch (s : State) (k : Nat) : State :=
  match s.launches.get? k with
  | some l => if l.st = .draining ∧ s.launchBusy k = false then s.endLaunch k (if l.aborted then .aborted else .ok) 0 0 else s
  | none => s

/-- The rows of R194 whose event is a change of a producer. -/
def State.moveLaunch (s : State) (k : Nat) : State :=
  match s.launches.get? k with
  | none => s
  | some l =>
    let more := decide (l.names.length < l.rcd.groupCount)
    match l.st with
    | .waiting => if s.producerFailed l then s.endLaunch k .aborted 0 0 else if s.mayRun l then s.makeEligible k else s
    | .queued => if s.producerFailed l then s.endLaunch k .aborted 0 0 else s
    | .prologue =>
      if s.producerFailed l then (s.setLaunch k .draining).modLaunch k fun l => { l with aborted := true }
      else if l.producers.all s.triggered then s.setLaunch k (if more then .running else .draining)
      else s
    | .running | .draining | .done | .failed => s

/-- Evictions for a placement that is pending no more stop, before their commit, where nothing else wants room on the core (R199). -/
def State.stopEvict (s : State) (core : Nat) : State :=
  match (s.core core).evict with
  | some (isGroup, key, _) =>
    let begun := if isGroup then (s.group key).saving else (s.images.get? (imageKey (s.handle (Tid.ofKey key)))).isSome
    if begun || !(s.wants core).isEmpty || (s.moveCand core).isSome || (isGroup && (s.group key).moveTo.isSome) then s
    else s.abandonEvict core isGroup key
  | none => s

/-- Since when the next group of a launch has found no core, but the one it is pending on; a pending placement is withdrawn when another
core can take the group, or has taken it, or the launch places no more (R199). -/
def State.settlePending (s : State) (k : Nat) : State :=
  match s.launches.get? k with
  | none => s
  | some l =>
    let found := (s.coresFor k l).any fun x => some x ≠ l.pendCore
    let since := if l.placing && s.writesDone l && !found then l.noCore.or (some s.now) else none
    let s := if since = l.noCore then s else s.modLaunch k fun l => { l with noCore := since }
    match l.pendCore with
    | some c =>
      if l.placing && l.noCore.isSome && !found then s
      else (s.modLaunch k fun l => { l with pendCore := none }).stopEvict c
    | none => s

/-- One launch goes on. -/
def State.settleLaunch (s : State) (k : Nat) : State := ((s.moveLaunch k).drainLaunch k).settlePending k

/-- A core keeps the shape record of a kernel while a thread of the kernel is there, or a group of it is SPILLED or on its way
into an image there (R103). -/
def State.shapeKept (s : State) (core k : Nat) : Bool :=
  s.liveSlots.any (fun t => decide (t.core = core) && decide ((s.thread t).launch = some k))
  || s.groups.any fun e => decide (e.2.core = core) && decide (e.2.launch = k) && (e.2.saving || decide (e.2.st = .spilled))

/-- Shape records released. -/
def State.settleShapes (s : State) : State :=
  { s with cores := s.cores.mapVals fun c (k : Core) => { k with shapes := k.shapes.keep fun l _ => s.shapeKept c l } }

/-! ### Contexts and regions -/

/-- A CLOSING context with nothing left goes to ZEROING; a kill that a save put off happens (R143, R152). -/
def State.settleCtx (s : State) (c : Nat) : State :=
  let k := s.ctx c
  if k.wdLate && (decide (k.st = .opened) || decide (k.st = .closing)) && !s.savingCtx c then s.kill c 3 0 0
  else if k.st = .closing ∧ s.closeReady c = true then s.closeDone c
  else s

/-- A region to be sealed serves when no CPYW into it is in flight (R106). -/
def State.settleRegion (s : State) (base : Nat) : State :=
  match s.regions.get? base with
  | some r => match r.sealing with
    | some who =>
      if s.cpywInto base r.size then s
      else ({ s with regions := s.regions.set base { r with serving := true, sealing := none } } : State).replyReady (some who)
    | none => s
  | none => s

/-- What no request changed of the state that the Farrier keeps is in the journal (R143, R452; log 30). -/
def State.journalRest (s : State) : State := { s with far := s.far.journalRest s.pieces }

/-- Everything that follows from the last change. -/
def State.settle (s : State) : State :=
  let s := s.groups.keys.foldl State.settleGroup s
  let s := s.launches.keys.foldl State.settleLaunch s
  let s := s.settleThreads.settleBand
  let s := s.cores.keys.foldl State.settleEvict s
  let s := (s.items.map (·.id)).foldl State.settleItem s
  let s := s.cores.keys.foldl State.settleBoxes s
  let s := s.settleShapes
  let s := s.ctxs.keys.foldl State.writeSaves s
  let s := s.settleImages
  let s := s.ctxs.keys.foldl State.settleCtx s.holdDogs
  let s := s.regions.keys.foldl State.settleRegion s
  s.settleHost.settleCheck.journalRest

end Sys2Proof.Machine
end

