-- ==== Sys2Proof/Machine/Step.lean ====
section
/-! DEFINITION. One step of the machine: an issue that ISSUE_POSITION has marked, or else the next event of the agenda, or else the
next core's ISSUE_POSITION (log 1); and how an instruction is placed for the next step to run. -/

namespace Sys2Proof.Machine

/-- An outcome with everything done that follows from it. -/
def settled : Host.Outcome State Fault Refusal → Host.Outcome State Fault Refusal
  | .next s => .next s.settle
  | .fault f => .fault f
  | .refused r => .refused r

/-- An issue mark of the thread at `t`, in a state with the mark taken off. -/
def stepIssue (s : State) (t : Tid) (h : Half) : Host.Outcome State Fault Refusal :=
  if (s.slot t).st.live then
    match (s.at_ t).prepare h with
    | .stop s => .next s.settle
    | .run i s => settled (exec i s)
  else .fault .noThread

/-- An event of the agenda. An entry that is an instruction of a thread is passed over: threads issue by their positions. -/
def stepEvent (s : State) (i : Instr) : Host.Outcome State Fault Refusal :=
  if (encode i).isSome then .next s else settled (exec i s)

/-- The default event: the position of the core whose turn it is, with the turn passed on. -/
def State.nextTurn (s : State) : State :=
  { s with now := s.now + Config.elapsedNs s.tick, tick := s.tick + 1, turn := (s.turn + 1) % 256 }

/-- One step. -/
def step (s : State) : Host.Outcome State Fault Refusal :=
  match s.issueq, s.agenda with
  | (t, h) :: rest, _ => stepIssue { s with issueq := rest } t h
  | [], (time, i) :: rest => stepEvent { s with now := Nat.max s.now time, agenda := rest } i
  | [], [] => settled (exec (.issuePosition s.turn) s.nextTurn)

/-! ### Placing an instruction -/

/-- The thread that a placed instruction belongs to: the one marked to issue next, else slot 0 of core 0. -/
def State.loadTid (s : State) : Tid := match s.issueq with | (t, _) :: _ => t | [] => { core := 0, slot := 0 }

/-- Virtual address, and frame, of the page a placed instruction stands in. -/
def loadPage : Nat := 0x400000

/-- The line with an instruction word in slot 0, a legal transfer target, its parities correct (R26, R27). -/
def loadLine (w : Nat) : List Byte :=
  bytesOf 12 (w % 2 ^ 96) ++ zeros 48 ++ bytesOf 4 (2 ^ 31 + 2 ^ 29 + b2n (parity 96 (w % 2 ^ 96)) * 2 ^ 24 + 1)

/-- A leaf for an executable 4 KiB page of this chip (R402). -/
def State.loadPte (s : State) : Word := word (2 ^ 63 + s.chip * 2 ^ 49 + loadPage + 2 ^ 7 + 2 ^ 5)

/-- The context open, with bandwidth class 0 allowed. -/
def Context.loadable (k : Context) : Context :=
  { k with st := if k.st = .free then .opened else k.st,
           quota := { k.quota with bwMask := if bitN k.quota.bwMask 0 then k.quota.bwMask else k.quota.bwMask + 1 } }

/-- The thread at the first slot of the line. -/
def Thread.loaded (t : Thread) : Thread :=
  { t.startAt (word loadPage) with wait := .none, reissue := false, bkpt := 0, pairRest := false }

/-- The state with the instruction of bits `w` placed for the next step: its line in memory and in the cluster cache, a translation of
its page, a READY thread at its slot whose context is open, and the mark that issues it (log 39). -/
def State.withFetchWord (s : State) (nbits w : Nat) : State :=
  let t := s.loadTid
  let x := s.slot t
  let c := x.th.ctx
  let d := loadLine (w % 2 ^ nbits)
  let s := s.store loadPage d
  let s := s.fillLine (clusterOf t.core) s.chip loadPage d
  let s := s.modCore t.core fun k =>
    { k with tlb := { ctx := c, va := loadPage, size := 4096, pte := s.loadPte } :: k.tlb.filter fun e => !e.covers c loadPage }
  let s := s.modCtx c fun k => k.loadable
  let s := s.setSlot t { x with st := .ready, gen := if x.gen = 0 then 1 else x.gen, th := x.th.loaded }
  { s with issueq := (t, .whole) :: s.issueq.tail }

end Sys2Proof.Machine
end

