-- ==== Sys2Proof/Safety.lean ====
section
/-! DEFINITION. What counts as a safe run, the form of a state that every step keeps, and the words in which statements say what an
instruction does: when it runs, what it may change, and how its thread goes on. -/

namespace Sys2Proof.Safety

open Sys2Proof.Machine

/-- A run is safe when no number of steps ends in a fault or a refusal. -/
def SafeFrom (s : State) : Prop := ∀ k : Nat, ∃ t : State, core.run k s = .next t

/-- Every issue mark names a slot that holds a thread. -/
def MarksLive (s : State) : Prop := ∀ m ∈ s.issueq, (s.slot m.1).st.live = true

/-- Memory is in its canonical form: addresses strictly rising, no listed byte equal to the byte an unlisted address reads as. -/
def MemoryCanonical (s : State) : Prop := Memory.wf s.mem = true

/-- A context that is FREE or ZEROING holds no thread (R143). -/
def NoStrayThread (s : State) : Prop :=
  ∀ t ∈ s.liveSlots, (s.ctx (s.thread t).ctx).st ≠ .free ∧ (s.ctx (s.thread t).ctx).st ≠ .zeroing

/-! ### When an instruction of a thread has its own effect -/

/-- The thread is READY and none of the x registers is owed by an LDN (R276, R478). -/
def freeRegs (s : State) (regs : List XReg) : Bool :=
  decide ((s.slot s.cur).st = .ready) && regs.all fun r => s.me.owed.all fun o => decide (o.x ≠ r)

/-- The thread is READY, the guard is true and none of the x registers is owed (R34, R38, R478). -/
def runs (s : State) (g : Guard) (regs : List XReg) : Bool := s.me.guard g && freeRegs s regs

/-! ### Frames -/

/-- The trap registers and the other special registers of a thread (R303). -/
def specials (t : Thread) : List Word :=
  [t.putfail, t.tvec, t.tcause, t.taddr, t.tpc0, t.tpc1, t.tpc2, t.tann, t.tsave0, t.tsave1, t.bkpt, t.watch]

/-- No other thread changes. -/
def othersSame (s t : State) : Prop := ∀ id : Tid, id.key ≠ s.cur.key → t.slot id = s.slot id

/-- No register of the executing thread changes but the x registers `xs` and the predicates `ps`. -/
def regsSame (a b : Thread) (xs : List XReg) (ps : List PReg) : Prop :=
  (∀ r, r ∉ xs → b.xr r = a.xr r) ∧ (∀ q, q ∉ ps → b.pr q = a.pr q) ∧ b.e = a.e ∧ b.eb = a.eb
  ∧ specials b = specials a ∧ b.priv = a.priv ∧ b.ne = a.ne ∧ b.bsk = a.bsk ∧ b.pend = a.pend ∧ b.owed = a.owed
  ∧ b.ctx = a.ctx ∧ b.group = a.group ∧ b.prio = a.prio

/-- Memory, full bits, groups with their vector registers, tiles and flags, cores, contexts and every other part of the module
outside the slots and the issue marks are unchanged. -/
def moduleSame (s t : State) : Prop := t = { s with slots := t.slots, issueq := t.issueq }

/-- The chain has advanced by one slot (R284) and the thread is READY. -/
def advanced (s t : State) : Prop :=
  t.me.pc = s.me.npc ∧ t.me.npc = s.me.nnpc ∧ t.me.nnpc = nextPc s.me.nnpc ∧ t.me.a0 = s.me.a1 ∧ t.me.a1 = false
  ∧ t.me.k0 = s.me.k1 ∧ t.me.k1 = s.me.k2 ∧ t.me.k2 = false ∧ (t.slot t.cur).st = .ready

/-- The instruction completes: it answers a next state, its chain advances, `same` says what else of the module stays, no other thread
changes, no register but the x registers `xs` and the predicates `ps` changes, and `post` holds. -/
def CompletesIn (i : Instr) (s : State) (xs : List XReg) (ps : List PReg) (same : State → State → Prop) (post : State → Prop) : Prop :=
  ∃ t, exec i s = .next t ∧ t.cur = s.cur ∧ advanced s t ∧ same s t ∧ othersSame s t ∧ regsSame s.me t.me xs ps ∧ post t

/-- The instruction completes and changes nothing but the x registers `xs` and the predicates `ps`. -/
def Completes (i : Instr) (s : State) (xs : List XReg) (ps : List PReg) (post : State → Prop) : Prop :=
  CompletesIn i s xs ps moduleSame post

/-- The instruction completes and its one result is `v` in x[xd]. -/
def Writes (i : Instr) (s : State) (xd : XReg) (v : Word) : Prop := Completes i s [xd] [] fun t => t.me.xr xd = v

/-- The instruction completes and its one result is the condition `c`: p[PD] first and p[PE] second, all ones for true and 0 for
false, a write to p0 discarded (R13, R264). -/
def Decides (i : Instr) (s : State) (pd pe : PReg) (c : Bool) : Prop :=
  Completes i s [] [pd, pe] fun t =>
    t.me.pr pe = (if pe = 0 then ones else boolP !c) ∧ (pd ≠ pe → t.me.pr pd = if pd = 0 then ones else boolP c)

/-- The instruction completes and its one result is `v` in p[pd], discarded when that is p0 (R13). -/
def WritesP (i : Instr) (s : State) (pd : PReg) (v : Word) : Prop :=
  Completes i s [] [pd] fun t => t.me.pr pd = if pd = 0 then ones else v

/-- The instruction completes with `v` in x[xd] and `ok` in its two predicates (R180, R241, R264); `post` holds. -/
def Answers (i : Instr) (s : State) (xd : XReg) (pd pe : PReg) (v : Word) (ok : Bool) (same : State → State → Prop)
    (post : State → Prop) : Prop :=
  CompletesIn i s [xd] [pd, pe] same fun t =>
    t.me.xr xd = v ∧ t.me.pr pe = (if pe = 0 then ones else boolP !ok) ∧ (pd ≠ pe → t.me.pr pd = if pd = 0 then ones else boolP ok) ∧ post t

/-- What an instruction of one core leaves unchanged: everything outside the slots and the cores. -/
def coresOnly (s t : State) : Prop := t = { s with slots := t.slots, issueq := t.issueq, cores := t.cores }

/-- What an instruction of one group leaves unchanged: everything outside the slots, the groups and the check bits of registers. -/
def groupsOnly (s t : State) : Prop :=
  t = { s with slots := t.slots, issueq := t.issueq, groups := t.groups, eccV := t.eccV, eccAcc := t.eccAcc }

/-! ### Accesses to the executing core's own scratchpad -/

/-- A range of `n` bytes at `ea`, aligned on `al`, in the executing core's own scratchpad, below the shape record, off every mailbox
ring and with no line locked by the Bridle (R129, R163). -/
def localRange (s : State) (ea : Word) (n al : Nat) : Bool :=
  decide (0 < n) && decide (ea.toNat % al = 0) && decide (ea.toNat + n ≤ shapeBase) && decide (s.cur.core < 256)
  && (s.ringHit s.cur.core ea.toNat n).isNone && !s.bridleHit s.cur.core s.chip (localPa s.cur.core ea.toNat) n false

/-- An access there that also meets no watchpoint: it passes the checks of R273 and R302. -/
def ownSpad (s : State) (ea : Word) (n al : Nat) : Bool := localRange s ea n al && !s.me.watch.getLsbD 63

/-- What a store leaves unchanged outside the slots: everything but memory with its check bits, the stores of the threads and the
owners of scratchpad lines (log 86). -/
def storeSame (s t : State) : Prop :=
  t = { s with slots := t.slots, issueq := t.issueq, mem := t.mem, ecc := t.ecc, full := t.full, stores := t.stores,
               nextStore := t.nextStore, spads := t.spads }

/-- What an atomic leaves unchanged outside the slots: also the cluster caches may lose lines (R122, R280). -/
def atomSame (s t : State) : Prop :=
  t = { s with slots := t.slots, issueq := t.issueq, mem := t.mem, ecc := t.ecc, stores := t.stores, nextStore := t.nextStore,
               clusters := t.clusters, spads := t.spads }

/-- A wait of the thread at a blocking point begins and no pending trap ends it at once (R292). -/
def waitsUntrapped (t : Thread) : Prop := t.pend = [] ∨ t.priv = true

/-- Bytes [pa, pa + d.length) hold `d` and every other byte is as before. -/
def stored (s t : State) (pa : Nat) (d : List Byte) : Prop :=
  ∀ a, t.byte a = if pa ≤ a ∧ a < pa + d.length then d.getD (a - pa) 0 else s.byte a

/-! ### Vector instructions -/

/-- The registers `vs` lie in the window of the executing thread's group, none is held by an armed put, their bank is ON and no word of
them is marked (R212, R213, R218, R307, R477). -/
def windowReady (s : State) (vs : List VIdx) : Bool :=
  s.myGroup?.isSome && vs.all (fun v => decide (v.val < s.window)) && (s.heldIdx (vs.map (·.val))).isNone
  && decide ((s.vbank s.cur.core s.myBank).st = .on) && !s.eccVreg (vs.map (·.val))

/-- A vector instruction on the registers `vs` and the x registers `xs` has its effect: some of its `n` lanes is enabled, and it waits
for nothing (R306, R307). -/
def vecRuns (s : State) (g : Guard) (n : Nat) (vs : List VIdx) (xs : List XReg) : Bool :=
  freeRegs s xs && s.me.anyLane g n && windowReady s vs

/-- What a vector instruction leaves unchanged: everything outside the slots, the groups, the use of the vector bank and check bits. -/
def vecSame (s t : State) : Prop :=
  t = { s with slots := t.slots, issueq := t.issueq, groups := t.groups, cores := t.cores, eccV := t.eccV }

/-- The vector instruction completes. Of the groups only the executing thread's changes, and of that one only the register `vd`, where
there is one, and the flags; `post` holds of its new value. -/
def VecCompletes (i : Instr) (s : State) (xs : List XReg) (ps : List PReg) (vd : Option Nat) (post : State → Group → Prop) : Prop :=
  ∃ n grp grp', s.me.group = some n ∧ s.groups.get? n = some grp ∧ CompletesIn i s xs ps vecSame fun t =>
    t.groups.get? n = some grp' ∧ grp' = { grp with v := grp'.v, vflags := grp'.vflags }
    ∧ (∀ j, some j ≠ vd → grp'.v.getD j 0 = grp.v.getD j 0) ∧ (∀ m, m ≠ n → t.groups.get? m = s.groups.get? m) ∧ post t grp'

/-- Width of a lane in bits, where a register has `n` lanes (R305). -/
def laneWidth (n : Nat) : Nat := 1024 / n

/-- The vector instruction completes lane by lane: an enabled lane of `vd` takes the result of `f` on the same lane of the sources and its
flags join sr.vflags; a disabled lane keeps its contents (R306, R309). -/
def Lanewise (i : Instr) (s : State) (g : Guard) (n : Nat) (vd : VIdx) (srcs : List VIdx) (f : Nat → List Nat → Nat × Flags) : Prop :=
  VecCompletes i s [] [] (some vd.val) fun _ grp' =>
    let r := fun k => f k (srcs.map fun v => VReg.lane (s.vr v.val) (laneWidth n) k)
    (∀ k, k < n → VReg.lane (grp'.v.getD vd.val 0) (laneWidth n) k =
      if s.me.laneOn g k then (r k).1 % 2 ^ laneWidth n else VReg.lane (s.vr vd.val) (laneWidth n) k)
    ∧ ∀ grp, s.myGroup? = some grp → grp'.vflags = grp.vflags
        ||| ((((List.range n).filter fun k => s.me.laneOn g k).map fun k => (r k).2).foldl (· ||| ·) 0).zeroExtend 64

/-! ### Numbers (R65 to R92), in exact rationals -/

/-- The exact value (−1)^neg × n × 2^e (R66). -/
def ratOf (neg : Bool) (n : Nat) (e : Int) : ℚ := (if neg then -1 else 1) * n * (2 : ℚ) ^ e

/-- The rounding mode takes a magnitude of this sign away from zero, where it rounds in one direction (R75). -/
def roundsAway (rm : Rm) (neg : Bool) : Bool := (decide (rm = .rdn) && neg) || (decide (rm = .rup) && !neg)

/-- `r` is the magnitude `x` with sign `neg` rounded once into `f`, with its flags: within half a unit in the last place for .rne, a tie to
an even mantissa; within one unit, on the side the mode names, for the others; NX exactly when the result differs; a result beyond the
largest finite value as R78 gives it, with OF and NX (R75 to R79). -/
def RoundedOnce (f : Fmt) (rm : Rm) (neg : Bool) (x : ℚ) (r : Nat × Flags) : Prop :=
  (r.2.getLsbD 2 = false → ∃ N E, f.decode r.1 = .fin neg N E ∧
    let v := ratOf false N E
    let unit := ratOf false 1 E
    (rm = .rne → |x - v| ≤ unit / 2 ∧ (|x - v| = unit / 2 → N % 2 = 0))
    ∧ (rm ≠ .rne → roundsAway rm neg = false → v ≤ x ∧ x < v + unit)
    ∧ (rm ≠ .rne → roundsAway rm neg = true → x ≤ v ∧ v - unit < x)
    ∧ (r.2.getLsbD 4 = true ↔ v ≠ x) ∧ r.2.getLsbD 0 = false ∧ r.2.getLsbD 1 = false)
  ∧ (r.2.getLsbD 2 = true → ratOf false (2 ^ (f.mb + 1) - 1) (f.bias - f.mb) < x ∧ r.2 = fOF ||| fNX
      ∧ r.1 = (if neg then f.sign else 0) + (if rm = .rne ∨ roundsAway rm neg = true then f.top + 1 else f.top))
  ∧ (ratOf false 1 (f.bias + 1) ≤ x → r.2.getLsbD 2 = true)

/-- `z` is the rational `x` rounded to an integer (R75, R85). -/
def roundsTo (rm : Rm) (x : ℚ) (z : Int) : Prop :=
  match rm with
  | .rne => |x - z| ≤ 1 / 2 ∧ (|x - z| = 1 / 2 → z % 2 = 0)
  | .rtz => z = (if x < 0 then ⌈x⌉ else ⌊x⌋)
  | .rdn => z = ⌊x⌋
  | .rup => z = ⌈x⌉

/-! ### Branches, traps and atomics -/

/-- The atomics other than ACAS with the value each writes, from the old value and x[XB], both of 8n bits (R279). -/
def atomicRow (g : Guard) (w8 : Bool) (o : Order) (d : ADest) (xa xb : XReg) (off : BitVec 48) :
    List (Instr × (Nat → Nat → Nat)) :=
  let n := if w8 then 8 else 4
  let m := 2 ^ (8 * n)
  let sg := fun v : Nat => (BitVec.ofNat (8 * n) v).toInt
  [(.aadd g w8 o d xa xb off, fun old b => (old + b) % m),
   (.aand g w8 o d xa xb off, fun old b => old &&& b),
   (.aor g w8 o d xa xb off, fun old b => old ||| b),
   (.axor g w8 o d xa xb off, fun old b => old ^^^ b),
   (.amin g w8 false o d xa xb off, fun old b => if sg b < sg old then b else old),
   (.amin g w8 true o d xa xb off, fun old b => Nat.min old b),
   (.amax g w8 false o d xa xb off, fun old b => if sg old < sg b then b else old),
   (.amax g w8 true o d xa xb off, fun old b => Nat.max old b),
   (.aswap g w8 o d xa xb off, fun _ b => b)]

/-- The chain after a taken branch to `tgt` whose delay slots are annulled when `ann` (R284). -/
def jumped (s t : State) (tgt : Word) (ann : Bool) : Prop :=
  t.me.pc = s.me.npc ∧ t.me.npc = s.me.nnpc ∧ t.me.nnpc = tgt ∧ t.me.k0 = s.me.k1 ∧ t.me.k1 = s.me.k2 ∧ t.me.k2 = true
  ∧ t.me.a0 = (s.me.a1 || ann) ∧ t.me.a1 = ann ∧ (t.slot t.cur).st = .ready

/-- The thread can take a trap: its handler is a legal PC, and it is not privileged or allows nested traps (R293, R294). -/
def canTrap (t : Thread) : Bool := decide (t.tvec ≠ 0) && pcOk t.tvec && (!t.priv || t.ne)

/-! ### Engine commands -/

/-- A range of `n` bytes at `va` in the executing core's own window, below the shape record and off every open ring: the checks of a
command's range let it go (R376). -/
def ownRange (s : State) (va n : Nat) : Bool :=
  decide (0 < n) && decide (va + n ≤ shapeBase) && decide (s.cur.core < 256) && (s.ringHit s.cur.core va n).isNone

/-- The instruction queues one command at its port and goes on at once, or with .w stands in STALL until the command completes (R326,
R366, R367, R376). The command is the newest of its core and has the thread's lowest free tag; no other core, no other thread and no
register of this one changes, `same` says what else stays, and `post` holds of the command. -/
def Queues (i : Instr) (s : State) (copy : Bool) (d : Done) (same : State → State → Prop) (post : State → Cmd → Prop) : Prop :=
  ∃ (t : State) (c : Cmd), exec i s = .next t ∧ t.cur = s.cur ∧ same s t ∧ othersSame s t ∧ regsSame s.me t.me [] []
    ∧ t.myCore.cmds = s.myCore.cmds ++ [c] ∧ (∀ k, k ≠ s.cur.core → t.core k = s.core k)
    ∧ c.id = s.myCore.nextCmd ∧ c.copy = copy ∧ c.tid = s.cur ∧ c.gen = (s.slot s.cur).gen ∧ c.ctx = s.me.ctx ∧ c.dn = d
    ∧ c.tag = s.freeTag s.cur ∧ c.started = false ∧ c.fail = none
    ∧ (match d with
      | .async _ => advanced s t
      | .wait => (t.slot s.cur).st = .stall ∧ t.me.wait = .op (.cmd c.tag) ∧ t.me.pc = s.me.pc)
    ∧ post t c

/-- What a command leaves unchanged that takes or gives up a tile: everything outside the slots, the cores and the groups. -/
def tilesOnly (s t : State) : Prop :=
  t = { s with slots := t.slots, issueq := t.issueq, cores := t.cores, groups := t.groups, eccAcc := t.eccAcc }

/-- Tile `t` of the executing thread's group `n`, outside a handler, is open and no pass has stopped on it (R295, R325, R335). -/
def tileOpen (s : State) (n : Nat) (t : TileNo) : Bool :=
  !s.me.priv && decide (s.me.group = some n) && (s.groups.get? n).isSome && decide ((s.tile n t.val).st = .opened) && !(s.tile n t.val).part

/-- The operands of a pass on `n` columns stand where its checks let them go: the rows of `a` bytes and the scales in the own window, the
columns of `b` bytes there too, x[XB] and x[XC] aligned on `al` (R341, R360). -/
def operandsOk (s : State) (d : Desc) (xb xc : Word) (n al a b : Nat) (scales : Option (Word × Word)) : Bool :=
  (d.rows.all fun r => decide (r + a ≤ shapeBase) && (s.ringHit s.cur.core r a).isNone)
  && decide (xb.toNat % al = 0) && decide (xc.toNat % al = 0) && ownRange s xb.toNat ((n - 1) * xc.toNat + b)
  && scales.all fun p => decide (p.1.toNat % 64 = 0) && decide (p.2.toNat % 4 = 0) && ownRange s p.1.toNat 512 && ownRange s p.2.toNat 4

/-- The state in which a command of `n` bytes has named its barrier, off every open ring, and the barrier's address (R163, R376, R392). -/
def barNaming (s : State) (bar : Option (BitVec 17)) (n : Nat) : Option (Option (Nat × Nat) × State) :=
  match bar with
  | none => some (none, s)
  | some b =>
    if (s.ringHit s.cur.core (b.toNat * 16) 16).isSome then none
    else match s.barName (localPa s.cur.core (b.toNat * 16)) n with
      | .ok s' => some (some (localPa s.cur.core (b.toNat * 16), n), s')
      | .error _ => none

/-! ### Requests of the Farrier -/

/-- The journal has room for the transaction of a request that is taken now (R453). -/
def journalRoom (s : State) (iface : Nat) (r : Req) : Bool :=
  let b := s.reqBox iface
  let t := (s.postReq iface r).modReqBox iface fun b => { b with head := b.head + 1 }
  let a := Serve.answer serveAny iface b.head r t
  (s.far.journalTx iface r.reqId (pieceChanges s.pieces a.s.pieces)).isSome

/-- A request of a code arrives at a mailbox in which none waits, whole, with room for its reply and in the journal, while the Farrier takes
requests (R450, R453, R456). -/
def reqReady (s : State) (code iface : Nat) (r : Req) : Bool :=
  let b := s.reqBox iface
  decide (r.code = code) && r.clean && decide (iface < 64) && s.far.takes && decide (s.far.order = []) && journalRoom s iface r
  && decide (b.tail = b.head) && decide (b.waiting = []) && decide (b.rptail - b.rphead < 32)

/-- The request names an OPEN context of its interface (R457). -/
def ctxReady (s : State) (code iface : Nat) (r : Req) : Bool :=
  reqReady s code iface r && decide (r.ctx < 256) && decide ((s.ctx r.ctx).st = .opened) && decide ((s.ctx r.ctx).iface = iface)

/-- The request is taken and its one reply, with its code and number, is written, or waits for an effect when `ready` is false (R456);
`post` holds of it. -/
def Answered (i : Instr) (s : State) (iface : Nat) (r : Req) (ready : Bool) (post : State → Reply → Prop) : Prop :=
  ∃ (u : State) (rep : Reply), exec i s = .next u ∧ rep.code = r.code ∧ rep.reqId = r.reqId
    ∧ (let b := s.reqBox iface
       let b' := u.reqBox iface
       b'.head = b.head + 1 ∧ b'.tail = b.tail + 1
       ∧ (if ready then b'.rptail = b.rptail + 1 ∧ b'.replies.get? (b.head % 32) = some rep ∧ b'.waiting = []
          else b'.rptail = b.rptail ∧ b'.waiting = [(b.head, false, rep)]))
    ∧ post u rep

/-- The request is accepted with R0 and R1, and the state is `m` but for the mailboxes, the journal and the messages to the host. -/
def Granted (i : Instr) (s : State) (iface : Nat) (r : Req) (r0 r1 : Word) (m : State) : Prop :=
  Answered i s iface r true fun u rep => rep.status = .ok ∧ rep.r0 = r0 ∧ rep.r1 = r1 ∧ rep.data = []
    ∧ u = { m with far := { m.far with boxes := u.far.boxes, journal := u.far.journal, nextLsn := u.far.nextLsn, nextTx := u.far.nextTx,
                                       logged := u.far.logged, msix := u.far.msix, irqs := u.far.irqs } }

end Sys2Proof.Safety
end

