-- ==== Sys2Proof/Certificates/Slice0/Obligations.lean ====
section
/-! DEFINITION. The statements for the provers. -/

open Sys2Proof Sys2Proof.Machine Sys2Proof.Safety

/-! ### Encodings, steps and the whole machine -/

/-- R37 to R46, words written out from the encodings of the spec stand for the instructions they name. -/
def Obligations.DecodesSpecWords : Prop :=
  decodeTableWord 96 0x010000430000000000000000 = some (.add { neg := false, p := 0 } 0 4 (.reg 3))
  ∧ decodeTableWord 96 0x300063200000000000000010 = some (.ld { neg := false, p := 0 } .s4 3 2 16)
  ∧ decodeTableWord 96 0x580000000000000000000000 = some (.nop { neg := false, p := 0 })

/-- R25 to R30, R34 and R36, a step runs the decoded instruction: the thread marked to issue fetches the 64 bytes of its line, at the
translation of its PC, from the cluster cache or from a home that does not keep it waiting, and when the line's checks pass and its slot's
word decodes, the step is exec of that instruction with what follows from it; with no mark the step is the next event of the agenda, and
with no event the position of the next core (log 1). That the line is the cluster cache's copy, or memory as it stands at the issue position,
and that the copy then fills the cache, are the model's choices (log 8, log 70, log 83). -/
def Obligations.StepRunsDecoded : Prop :=
  ∀ (s m : State) (T : Tid) (rest : List (Tid × Half)) (e : TlbE) (d : List Byte) (i : Instr),
    let u := ({ s with issueq := rest } : State).at_ T
    let pa := e.pa (pcLine u.me.pc)
    (s.issueq = (T, .whole) :: rest → (s.slot T).st.live = true → u.me.pc.toNat < 2 ^ 48 → u.xlate u.me.pc.toNat = .ok e u →
      permCheck u u.me.ctx e.pte.toNat pa .fetch = none → place pa = .hbm →
      (u.cached (clusterOf T.core) u.chip pa = some d ∧ m = u)
        ∨ (u.cached (clusterOf T.core) u.chip pa = none ∧ u.movingAt pa = none ∧ (u.bwClass (pteBwc e.pte.toNat)).unl = true
            ∧ u.eccHit pa 64 = false ∧ d = u.bytes pa 64
            ∧ m = ((u.bandGone (.fetch T)).fullGone (.fetch T)).fillLine (clusterOf T.core) (pteChip e.pte.toNat) pa d) →
      lineOk (lineWord d) = true → (u.me.k0 = true → u.me.reissue = false → bitN (lineWord d) (pcSlot u.me.pc) = true) → u.me.breaks = false →
      slotParity d (pcSlot u.me.pc) = true → decode (slotOf d (pcSlot u.me.pc)) = .ok i → u.me.pairs d (pcSlot u.me.pc) = false →
      step s = settled (exec i (m.modMe fun t => { t with pairRest := false })))
    ∧ (∀ time l, s.issueq = [] → s.agenda = (time, i) :: l → encode i = none → step s = settled (exec i { s with now := Nat.max s.now time, agenda := l }))
    ∧ (s.issueq = [] → s.agenda = [] → step s = settled (exec (.issuePosition s.turn) s.nextTurn))

/-- R37 to R46, decode of encode is the instruction, for every well-formed instruction that has a word and every value of its operands. -/
def Obligations.EncodeDecode : Prop :=
  ∀ (i : Instr) (w : Slot96), wf i = true → encode i = some w → decode w = .ok i

/-- Every step keeps memory in its canonical form: addresses strictly rising and no byte listed that an unlisted one reads as. -/
def Obligations.MemoryCanonicalKept : Prop := ∀ s t : State, MemoryCanonical s → step s = .next t → MemoryCanonical t

/-- R154, R207, R230, R234, R300, R350, R419, R437, R440 to R442 and R461, the machine after reset: no thread, no context and no group, all
memory zero (log 3) and every full bit clear, the core registers at the values their tables give, every bandwidth class unlimited, every
link port and Ethernet port DOWN (log 5) and the measurement registers zero; memory is canonical. -/
def Obligations.ResetState : Prop :=
  let s := State.reset
  MemoryCanonical s ∧ (∀ T, (s.slot T).st = .free) ∧ (∀ c, (s.ctx c).st = .free) ∧ s.groups = [] ∧ (∀ a, s.byte a = 0) ∧ (∀ a, s.isFull a = false)
  ∧ (∀ c, (s.core c).cyc = 0 ∧ (s.core c).ageq = 2048 ∧ (s.core c).agecap = 127 ∧ (s.core c).fduty = 16 ∧ (s.core c).dthr = 50 ∧ (s.core c).freq = 64
      ∧ (s.core c).reti = 0 ∧ (s.core c).gati = 0 ∧ (s.core c).holder = none)
  ∧ (∀ k, (s.bw.getD k BwClass.reset).unl = true) ∧ s.hvpod = 0 ∧ (∀ p, (s.link p).st = .down) ∧ (∀ q, (s.eth q).st = .down)
  ∧ (∀ d, (s.die d).bud = 2048) ∧ s.far.meas = List.replicate 8 (List.replicate 64 0) ∧ s.issueq = []

/-- R233, R236, R284, R291, R439 and R444, ISSUE_POSITION: a core whose clock runs goes on by one cycle; a closed position issues nothing;
otherwise the owner of the position, or the thread chosen, takes the pending trap of lowest code that it can take, which leaves its age alone
(R239, R293), or has issued in this cycle and is marked to run or passes its annulled slot. -/
def Obligations.IssuePosition : Prop :=
  ∀ (s : State) (c : Nat) (T : Tid), c < 256 → (s.core c).clockRuns = true →
    let k := s.core c
    let t := s.thread T
    ∃ u, exec (.issuePosition c) s = .next u
      ∧ ((k.fduty ≤ k.cyc % 16 ∨ (k.cyc % 2 = 1 ∧ k.cyc ≤ k.halve)) → u.slots = s.slots ∧ u.issueq = s.issueq ∧ u.mem = s.mem
          ∧ (u.core c).cyc = k.cyc + 1)
      ∧ (s.pick c = some T → t.takeable = [] → u.mem = s.mem ∧ (u.core c).cyc = k.cyc + 1 ∧ (u.thread T).lastIssue = some k.cyc ∧ (u.thread T).readyAt = k.cyc
          ∧ (t.a0 = false → u.issueq = s.issueq ++ [(T, .whole)] ∧ (u.thread T).pc = t.pc)
          ∧ (t.a0 = true → u.issueq = s.issueq ∧ (u.thread T).pc = t.npc ∧ (u.thread T).npc = t.nnpc)
          ∧ (u.thread T).x = t.x ∧ (u.thread T).p = t.p)
      ∧ (∀ code v l, s.pick c = some T → t.takeable = (code, v) :: l → t.tvec ≠ 0 → pcOk t.tvec = true →
          u.mem = s.mem ∧ (u.core c).cyc = k.cyc + 1 ∧ u.issueq = s.issueq ∧ (u.slot T).st = .ready
          ∧ (u.thread T).tcause = word (256 + code) ∧ (u.thread T).taddr = v ∧ (u.thread T).pc = t.tvec ∧ (u.thread T).priv = true
          ∧ (u.thread T).tpc0 = t.pc ∧ (u.thread T).tpc1 = t.npc ∧ (u.thread T).tpc2 = t.nnpc ∧ (u.thread T).pend = t.pend.erase code
          ∧ (u.thread T).readyAt = t.readyAt ∧ (u.thread T).lastIssue = t.lastIssue ∧ (u.thread T).x = t.x ∧ (u.thread T).p = t.p)
      ∧ (∀ slot from_, k.resv.get? (k.cyc % 16) = some (slot, from_) → from_ ≤ k.cyc → s.mayIssue { core := c, slot := slot } = true →
          k.closed = false → s.pick c = some { core := c, slot := slot })

/-- R265, an instruction of the chapter of scalar instructions, memory accesses and atomics whose guard is false has no effect after the checks
of R34: it commits, whatever registers are owed, and changes no register, predicate, memory byte, full bit, hold or store count. -/
def Obligations.FalseGuardCommits : Prop :=
  ∀ (s : State) (i : Instr) (g : Guard) (w : Slot96), Machine.guardOf i = some g → encode i = some w → (w.extractLsb' 88 8).toNat < 0x50 →
    (s.slot s.cur).st = .ready → s.me.guard g = false → exec i s = .next s.commit ∧ Completes i s [] [] fun _ => True

/-! ### Integer, bit and predicate instructions (R264 to R272) -/

/-- R268, arithmetic: ADD, SUB, MUL, MULH, DIV and REM with the values at the edges. R268, logic and shifts, bit by bit: AND, OR, XOR, ANDN,
ORN, SHL, SHR, SAR and ROL. R268, the rest of the table: MIN, MAX, CLZ, CTZ, POPC, SEXT, MOV, BEXT and BINS. -/
def Obligations.IntegerAndBit : Prop :=
  (∀ (s : State) (g : Guard) (xd xa : XReg) (b : Src), runs s g (xd :: xa :: srcRegs b) = true →
    let x := s.me.xr xa
    let y := s.me.src b
    Writes (.add g xd xa b) s xd (BitVec.ofInt 64 (x.toInt + y.toInt))
    ∧ Writes (.sub g xd xa b) s xd (BitVec.ofInt 64 (x.toInt - y.toInt))
    ∧ Writes (.mul g xd xa b) s xd (BitVec.ofInt 64 (x.toInt * y.toInt))
    ∧ Writes (.mulh g false xd xa b) s xd (BitVec.ofInt 64 (x.toInt * y.toInt / 2 ^ 64))
    ∧ Writes (.mulh g true xd xa b) s xd (BitVec.ofNat 64 (x.toNat * y.toNat / 2 ^ 64))
    ∧ Writes (.div g false xd xa b) s xd (if y = 0 then ones else BitVec.ofInt 64 (x.toInt.tdiv y.toInt))
    ∧ Writes (.div g true xd xa b) s xd (if y = 0 then ones else BitVec.ofNat 64 (x.toNat / y.toNat))
    ∧ Writes (.rem g false xd xa b) s xd (if y = 0 then x else BitVec.ofInt 64 (x.toInt.tmod y.toInt))
    ∧ Writes (.rem g true xd xa b) s xd (if y = 0 then x else BitVec.ofNat 64 (x.toNat % y.toNat)))
  ∧ (∀ (s : State) (g : Guard) (xd xa : XReg) (b : Src), runs s g (xd :: xa :: srcRegs b) = true →
    let x := s.me.xr xa
    let y := s.me.src b
    let k := y.toNat % 64
    let bits := fun (i : Instr) (f : Nat → Bool) => Completes i s [xd] [] fun t => ∀ j, j < 64 → (t.me.xr xd).getLsbD j = f j
    bits (.and g xd xa b) (fun j => x.getLsbD j && y.getLsbD j)
    ∧ bits (.or g xd xa b) (fun j => x.getLsbD j || y.getLsbD j)
    ∧ bits (.xor g xd xa b) (fun j => x.getLsbD j != y.getLsbD j)
    ∧ bits (.andn g xd xa b) (fun j => x.getLsbD j && !y.getLsbD j)
    ∧ bits (.orn g xd xa b) (fun j => x.getLsbD j || !y.getLsbD j)
    ∧ bits (.shl g xd xa b) (fun j => decide (k ≤ j) && x.getLsbD (j - k))
    ∧ bits (.shr g xd xa b) (fun j => decide (j + k < 64) && x.getLsbD (j + k))
    ∧ bits (.sar g xd xa b) (fun j => if j + k < 64 then x.getLsbD (j + k) else x.getLsbD 63)
    ∧ bits (.rol g xd xa b) (fun j => x.getLsbD ((j + 64 - k) % 64)))
  ∧ (∀ (s : State) (g : Guard) (xd xa : XReg) (b : Src), runs s g (xd :: xa :: srcRegs b) = true →
    let x := s.me.xr xa
    let y := s.me.src b
    let p := y.toNat % 64
    let n := y.toNat / 2 ^ 8 % 2 ^ 6 + 1
    Writes (.min g false xd xa b) s xd (if x.toInt < y.toInt then x else y)
    ∧ Writes (.min g true xd xa b) s xd (if x.toNat < y.toNat then x else y)
    ∧ Writes (.max g false xd xa b) s xd (if x.toInt < y.toInt then y else x)
    ∧ Writes (.max g true xd xa b) s xd (if x.toNat < y.toNat then y else x)
    ∧ Completes (.clz g xd xa) s [xd] [] (fun t => (t.me.xr xd).toNat ≤ 64
        ∧ (∀ j, 64 - (t.me.xr xd).toNat ≤ j → x.getLsbD j = false)
        ∧ ((t.me.xr xd).toNat < 64 → x.getLsbD (63 - (t.me.xr xd).toNat) = true))
    ∧ Completes (.ctz g xd xa) s [xd] [] (fun t => (t.me.xr xd).toNat ≤ 64
        ∧ (∀ j, j < (t.me.xr xd).toNat → x.getLsbD j = false)
        ∧ ((t.me.xr xd).toNat < 64 → x.getLsbD (t.me.xr xd).toNat = true))
    ∧ Writes (.popc g xd xa) s xd (BitVec.ofNat 64 (((List.range 64).filter fun j => x.getLsbD j).length))
    ∧ Writes (.sext g .b1 xd xa) s xd (BitVec.ofInt 64 (BitVec.ofNat 8 x.toNat).toInt)
    ∧ Writes (.sext g .b2 xd xa) s xd (BitVec.ofInt 64 (BitVec.ofNat 16 x.toNat).toInt)
    ∧ Writes (.sext g .b4 xd xa) s xd (BitVec.ofInt 64 (BitVec.ofNat 32 x.toNat).toInt)
    ∧ Writes (.mov g xd b) s xd y
    ∧ Completes (.bext g xd xa b) s [xd] [] (fun t => ∀ j, j < 64 →
        (t.me.xr xd).getLsbD j = (decide (j < n) && x.getLsbD (j + p)))
    ∧ Completes (.bins g xd xa b) s [xd] [] (fun t => ∀ j, j < 64 →
        (t.me.xr xd).getLsbD j = if p ≤ j ∧ j < p + n then x.getLsbD (j - p) else (s.me.xr xd).getLsbD j))

/-- R269 and R271: LI, SEL, CMP and TSTB; a SEL whose guard is false writes nothing, whatever its selector. -/
def Obligations.SelectAndCompare : Prop :=
  ∀ (s : State) (g : Guard) (xd xa : XReg) (b : Src) (v : Word) (pn pd pe : PReg) (neg : Bool),
    let x := s.me.xr xa
    let y := s.me.src b
    (runs s g (xd :: xa :: srcRegs b) = true →
      Writes (.li g xd v) s xd v
      ∧ Writes (.sel g xd pn neg xa b) s xd (if (s.me.pr pn).getLsbD 0 ≠ neg then x else y)
      ∧ Decides (.cmp g .eq pd pe xa b) s pd pe (decide (x.toNat = y.toNat))
      ∧ Decides (.cmp g .ne pd pe xa b) s pd pe (decide (x.toNat ≠ y.toNat))
      ∧ Decides (.cmp g .lt pd pe xa b) s pd pe (decide (x.toInt < y.toInt))
      ∧ Decides (.cmp g .ge pd pe xa b) s pd pe (decide (y.toInt ≤ x.toInt))
      ∧ Decides (.cmp g .ltu pd pe xa b) s pd pe (decide (x.toNat < y.toNat))
      ∧ Decides (.cmp g .geu pd pe xa b) s pd pe (decide (y.toNat ≤ x.toNat))
      ∧ Decides (.tstb g pd pe xa b) s pd pe (x.getLsbD (y.toNat % 64)))
    ∧ (s.me.guard g = false → (s.slot s.cur).st = .ready → Completes (.sel g xd pn neg xa b) s [] [] fun _ => True)

/-- R272: the predicate instructions. -/
def Obligations.PredicateInstructions : Prop :=
  ∀ (s : State) (g : Guard) (xd xa : XReg) (b : Src) (pd pe pa pb : PReg), runs s g (xd :: xa :: srcRegs b) = true →
    let m := s.me.src b
    let x := s.me.pr pa
    let y := s.me.pr pb
    WritesP (.pand g pd pa pb) s pd (x &&& y)
    ∧ WritesP (.por g pd pa pb) s pd (x ||| y)
    ∧ WritesP (.pxor g pd pa pb) s pd (x ^^^ y)
    ∧ WritesP (.pandn g pd pa pb) s pd (x &&& ~~~y)
    ∧ WritesP (.pnot g pd pa) s pd (~~~x)
    ∧ Writes (.pmovPtox g xd pa) s xd x
    ∧ WritesP (.pmovXtop g pd xa) s pd (s.me.xr xa)
    ∧ Decides (.pany g .any pd pe pa b) s pd pe (decide (x &&& m ≠ 0))
    ∧ Decides (.pany g .all pd pe pa b) s pd pe (decide (x &&& m = m))
    ∧ Decides (.pany g .none pd pe pa b) s pd pe (decide (x &&& m = 0))
    ∧ Writes (.pcnt g xd pa b) s xd (BitVec.ofNat 64 (((List.range 64).filter fun j => (x &&& m).getLsbD j).length))

/-! ### Memory instructions and atomics (R273 to R281) -/

/-- R275 to R277, loads from the executing core's own scratchpad: LD, LDE and LDE.c of a full granule, and FEQ; an LDE.c clears the bit. R276,
LDN: the destination becomes owed and the thread goes on at once; no register changes. -/
def Obligations.LoadsFromOwnScratchpad : Prop :=
  (∀ (s : State) (g : Guard) (w : LdW) (xd xa : XReg) (off : BitVec 48) (pd pe : PReg), runs s g [xd, xa] = true →
    let ea := s.me.ea xa off
    let pa := localPa s.cur.core ea.toNat
    (∀ n sg, (w = .b1 ∧ n = 1 ∧ sg = false) ∨ (w = .b2 ∧ n = 2 ∧ sg = false) ∨ (w = .b4 ∧ n = 4 ∧ sg = false)
        ∨ (w = .b8 ∧ n = 8 ∧ sg = false) ∨ (w = .s1 ∧ n = 1 ∧ sg = true) ∨ (w = .s2 ∧ n = 2 ∧ sg = true)
        ∨ (w = .s4 ∧ n = 4 ∧ sg = true) →
      ownSpad s ea n n = true → s.eccHit pa n = false →
      Writes (.ld g w xd xa off) s xd
        (if sg then BitVec.ofInt 64 (BitVec.ofNat (8 * n) (s.readN pa n)).toInt else BitVec.ofNat 64 (s.readN pa n)))
    ∧ (ownSpad s ea 8 8 = true → s.eccHit pa 8 = false → s.isFull pa = true →
        Writes (.lde g xd xa off) s xd (BitVec.ofNat 64 (s.readN pa 8))
        ∧ CompletesIn (.ldeC g xd xa off) s [xd] []
            (fun s t => t = { s with slots := t.slots, issueq := t.issueq, full := t.full })
            (fun t => t.me.xr xd = BitVec.ofNat 64 (s.readN pa 8) ∧ t.isFull pa = false
              ∧ ∀ a, a / 16 ≠ pa / 16 → t.isFull a = s.isFull a))
    ∧ (ownSpad s ea 1 1 = true → Decides (.feq g pd pe xa off) s pd pe (s.isFull pa)))
  ∧ (∀ (s : State) (g : Guard) (w : LdW) (xd xa : XReg) (off : BitVec 48), runs s g [xd, xa] = true →
    let ea := s.me.ea xa off
    ownSpad s ea (ldBytes w) (ldBytes w) = true →
    ∃ t, exec (.ldn g w xd xa off) s = .next t ∧ t.cur = s.cur ∧ advanced s t
      ∧ t = { s with slots := t.slots, issueq := t.issueq, nextStore := t.nextStore } ∧ othersSame s t
      ∧ (∀ r, t.me.xr r = s.me.xr r) ∧ (∀ q, t.me.pr q = s.me.pr q) ∧ specials t.me = specials s.me
      ∧ (∃ o : Owed, t.me.owed = s.me.owed ++ [o] ∧ o.x = xd ∧ o.w = w ∧ o.va = ea ∧ o.got = none)
      ∧ t.me.firstOwed [xd] = some xd)

/-- R275 and R277, stores to the executing core's own scratchpad: ST writes the low bytes of x[XB], STF also sets the full bit, EMPT clears it.
The bytes stored are those at the address the checks of R273 are made for, and no other byte changes. R18 and R103, memory: what an access
stores outside the last 256 bytes of a scratchpad is what a later read of the same bytes gives, and every other byte stays; a store that
begins in those 256 bytes changes nothing. -/
def Obligations.StoresToOwnScratchpad : Prop :=
  (∀ (s : State) (g : Guard) (w : StW) (xa xb : XReg) (off : BitVec 48),
    MemoryCanonical s → runs s g [xa, xb] = true → s.unacked s.cur < 32 →
    let ea := s.me.ea xa off
    let pa := localPa s.cur.core ea.toNat
    (ownSpad s ea (stBytes w) (stBytes w) = true →
      CompletesIn (.st g w xa xb off) s [] [] storeSame fun t =>
        stored s t pa (bytesOf (stBytes w) (s.me.xr xb).toNat) ∧ t.full = s.full)
    ∧ (ownSpad s ea 8 8 = true → (∀ q ∈ s.ldeq, q.pa / 16 ≠ pa / 16) →
      CompletesIn (.stf g xa xb off) s [] [] storeSame fun t =>
        stored s t pa (bytesOf 8 (s.me.xr xb).toNat) ∧ t.isFull pa = true ∧ ∀ a, a / 16 ≠ pa / 16 → t.isFull a = s.isFull a)
    ∧ (ownSpad s ea 1 1 = true →
      CompletesIn (.empt g xa off) s [] [] storeSame fun t =>
        (∀ a, t.byte a = s.byte a) ∧ t.isFull pa = false ∧ ∀ a, a / 16 ≠ pa / 16 → t.isFull a = s.isFull a))
  ∧ (∀ (s : State) (a : Nat) (d : List Byte), MemoryCanonical s →
    MemoryCanonical (s.store a d)
    ∧ ((∀ k, k < d.length → inShapeHole (a + k) = false) → (s.store a d).bytes a d.length = d ∧ stored s (s.store a d) a d)
    ∧ (inShapeHole a = true → ∀ b, (s.store a d).byte b = s.byte b))

/-- R279 and R280, atomics on the executing core's own scratchpad: with a result, the old value zero-extended in x[XD]; without one, no
register. An order with a release asks for a quiet thread, one with an acquire for answered loads. AFADD adds as R279 says. R279, ACAS: the
old value in x[XD]; memory takes x[XB] exactly when the old value equals the low bits of x[XD]; the predicates say so. -/
def Obligations.AtomicsOnOwnScratchpad : Prop :=
  (∀ (s : State) (g : Guard) (w8 : Bool) (o : Order) (xd xa xb : XReg) (off : BitVec 48),
    MemoryCanonical s → runs s g [xd, xa, xb] = true → s.unacked s.cur < 32 →
    (o.ord = .rel ∨ o.ord = .ar → s.quiet s.cur = true) → (o.ord = .acq ∨ o.ord = .ar → s.me.owed = []) →
    let n := if w8 then 8 else 4
    let ea := s.me.ea xa off
    let pa := localPa s.cur.core ea.toNat
    let b := (s.me.xr xb).toNat % 2 ^ (8 * n)
    let old := s.readN pa n
    ownSpad s ea n n = true → s.eccHit pa n = false →
    (∀ r ∈ atomicRow g w8 o (.res xd) xa xb off,
      CompletesIn r.1 s [xd] [] atomSame fun t => t.me.xr xd = BitVec.ofNat 64 old ∧ stored s t pa (bytesOf n (r.2 old b)))
    ∧ (∀ r ∈ atomicRow g w8 o .drop xa xb off,
      CompletesIn r.1 s [] [] atomSame fun t => stored s t pa (bytesOf n (r.2 old b)))
    ∧ (n = 4 →
      (CompletesIn (.afadd g o (.res xd) xa xb off) s [xd] [] atomSame fun t =>
        t.me.xr xd = BitVec.ofNat 64 old ∧ stored s t pa (bytesOf 4 (addF32 old b)))
      ∧ CompletesIn (.afadd g o .drop xa xb off) s [] [] atomSame fun t => stored s t pa (bytesOf 4 (addF32 old b))))
  ∧ (∀ (s : State) (g : Guard) (w8 : Bool) (o : Order) (xd : XReg) (pd pe : PReg) (xa xb : XReg) (off : BitVec 48),
    MemoryCanonical s → runs s g [xd, xa, xb] = true →
    (o.ord = .rel ∨ o.ord = .ar → s.quiet s.cur = true) → (o.ord = .acq ∨ o.ord = .ar → s.me.owed = []) →
    let n := if w8 then 8 else 4
    let ea := s.me.ea xa off
    let pa := localPa s.cur.core ea.toNat
    let old := s.readN pa n
    let hit := decide (old = (s.me.xr xd).toNat % 2 ^ (8 * n))
    ownSpad s ea n n = true → s.eccHit pa n = false →
    CompletesIn (.acas g w8 o xd pd pe xa xb off) s [xd] [pd, pe] atomSame fun t =>
      t.me.xr xd = BitVec.ofNat 64 old
      ∧ t.me.pr pe = (if pe = 0 then ones else boolP !hit) ∧ (pd ≠ pe → t.me.pr pd = if pd = 0 then ones else boolP hit)
      ∧ (if hit then stored s t pa (bytesOf n (s.me.xr xb).toNat) else ∀ a, t.byte a = s.byte a))

/-- R273, the order of the checks that a misaligned or outside address meets: ALIGN first, then ADDR, before any effect, with the address in
sr.taddr. For LD and LDN of every width, ST of every width, LDE, LDE.c, STF, EMPT, FEQ, and every atomic of either width with and without a
result. -/
def Obligations.MisalignedAccessTraps : Prop :=
  ∀ (s : State) (g : Guard) (lw : LdW) (sw : StW) (w8 : Bool) (o : Order) (xd xa xb : XReg) (pd pe : PReg) (off : BitVec 48),
    runs s g [xd, xa, xb] = true →
    let ea := s.me.ea xa off
    let n := if w8 then 8 else 4
    let loads : List Instr := [.ld g lw xd xa off, .ldn g lw xd xa off]
    let eights : List Instr := [.stf g xa xb off, .lde g xd xa off, .ldeC g xd xa off]
    let atomics := ((atomicRow g w8 o (.res xd) xa xb off ++ atomicRow g w8 o .drop xa xb off).map (·.1))
      ++ [.acas g w8 o xd pd pe xa xb off]
    let fadds : List Instr := [.afadd g o (.res xd) xa xb off, .afadd g o .drop xa xb off]
    let traps := fun (l : List Instr) (c : Cause) => ∀ i ∈ l, exec i s = .next (s.trap c ea)
    (ea.toNat % ldBytes lw ≠ 0 → traps loads .align)
    ∧ (ea.toNat % stBytes sw ≠ 0 → traps [.st g sw xa xb off] .align)
    ∧ (ea.toNat % 8 ≠ 0 → traps eights .align)
    ∧ (ea.toNat % n ≠ 0 → traps atomics .align)
    ∧ (ea.toNat % 4 ≠ 0 → traps fadds .align)
    ∧ (2 ^ 48 ≤ ea.toNat →
        (ea.toNat % ldBytes lw = 0 → traps loads .addr)
        ∧ (ea.toNat % stBytes sw = 0 → traps [.st g sw xa xb off] .addr)
        ∧ (ea.toNat % 8 = 0 → traps eights .addr)
        ∧ traps [.empt g xa off, .feq g pd pe xa off] .addr
        ∧ (ea.toNat % n = 0 → traps atomics .addr)
        ∧ (ea.toNat % 4 = 0 → traps fadds .addr))

/-- R101, an STF to a granule at whose bit another thread waits: the STF completes with its bytes stored, the first waiting LDE or LDE.c takes
the value, and its thread is READY past its instruction. LDE.c clears the bit again, so that the rest of the queue stays as it is; LDE leaves it
set. -/
def Obligations.FullBitServesWaiter : Prop :=
  ∀ (s : State) (g : Guard) (xa xb xd : XReg) (off : BitVec 48) (u : Tid) (clear : Bool) (tgt : Target) (va : Word) (rest : List LdeWait),
    MemoryCanonical s → runs s g [xa, xb] = true → s.unacked s.cur < 32 →
    let ea := s.me.ea xa off
    let pa := localPa s.cur.core ea.toNat
    ownSpad s ea 8 8 = true → s.isFull pa = false → s.ldeq = { pa := pa, clear := clear, who := .thread u } :: rest →
    (clear = true ∨ rest = []) → u.key ≠ s.cur.key →
    (s.slot u).st = .wait → (s.thread u).wait = .block (.lde tgt xd clear va) →
    ∃ t, exec (.stf g xa xb off) s = .next t ∧ t.cur = s.cur ∧ advanced s t ∧ regsSame s.me t.me [] []
      ∧ stored s t pa (bytesOf 8 (s.me.xr xb).toNat) ∧ t.isFull pa = !clear ∧ t.ldeq = rest
      ∧ (∀ a, a / 16 ≠ pa / 16 → t.isFull a = s.isFull a)
      ∧ (t.slot u).st = .ready ∧ (t.thread u).xr xd = s.me.xr xb ∧ (t.thread u).pc = (s.thread u).npc
      ∧ (∀ id : Tid, id.key ≠ s.cur.key → id.key ≠ u.key → t.slot id = s.slot id)
      ∧ t = { s with slots := t.slots, issueq := t.issueq, mem := t.mem, ecc := t.ecc, full := t.full, stores := t.stores,
                     nextStore := t.nextStore, spads := t.spads, ldeq := t.ldeq }

/-! ### Control flow, traps and system instructions (R283 to R304, R137) -/

/-- R42, R284, R287 and R288, taken branches and calls: the target enters the chain after two delay slots, annulled by .at alone; CALL and CALLX
write the address after the delay slots to x15, and CALLX x15 goes to the old x15. R284 and R288, a BR of any condition that fails: the chain
advances to the next slot, and .an annuls the two delay slots. R288, a taken branch to a bad target: ADDR above 2^48, and for BRX and CALLX
ALIGN inside a slot, with sr.taddr the target, and x15 not written. -/
def Obligations.Branches : Prop :=
  (∀ (s : State) (g : Guard) (an : Annul) (loff : BitVec 42) (ts : Fin 5) (xa : XReg) (c : BrTest),
    runs s g [xa, 15] = true → freeRegs s (testRegs c) = true →
    let direct := (s.me.pc &&& ~~~63#64) + loff.signExtend 64 * 64 + BitVec.ofNat 64 (12 * ts.val)
    let link := nextPc (nextPc (nextPc s.me.pc))
    let ann := decide (an = .at_)
    let goes := fun (i : Instr) (tgt : Word) (xs : List XReg) => ∃ t, exec i s = .next t ∧ t.cur = s.cur
      ∧ jumped s t tgt ann ∧ moduleSame s t ∧ othersSame s t ∧ regsSame s.me t.me xs [] ∧ (15 ∈ xs → t.me.xr 15 = link)
    let holds := match c with
      | .always => True
      | .z x => s.me.xr x = 0
      | .nz x => s.me.xr x ≠ 0
      | .neg x => (s.me.xr x).toInt < 0
      | .nneg x => 0 ≤ (s.me.xr x).toInt
    (direct.toNat < 2 ^ 48 → (holds → goes (.br g c an loff ts) direct []) ∧ goes (.call g an loff ts) direct [15])
    ∧ (pcOk (s.me.xr xa) = true → goes (.brx g an xa) (s.me.xr xa) [] ∧ goes (.callx g an xa) (s.me.xr xa) [15]))
  ∧ (∀ (s : State) (g : Guard) (an : Annul) (loff : BitVec 42) (ts : Fin 5) (c : BrTest) (x : XReg), runs s g [x] = true →
    (c = .z x ∧ s.me.xr x ≠ 0) ∨ (c = .nz x ∧ s.me.xr x = 0) ∨ (c = .neg x ∧ 0 ≤ (s.me.xr x).toInt) ∨ (c = .nneg x ∧ (s.me.xr x).toInt < 0) →
    ∃ t, exec (.br g c an loff ts) s = .next t ∧ moduleSame s t ∧ othersSame s t ∧ regsSame s.me t.me [] []
      ∧ t.me.pc = s.me.npc ∧ t.me.npc = s.me.nnpc ∧ t.me.nnpc = nextPc s.me.nnpc ∧ t.me.k2 = false
      ∧ t.me.a0 = (s.me.a1 || decide (an = .an)) ∧ t.me.a1 = decide (an = .an))
  ∧ (∀ (s : State) (g : Guard) (an : Annul) (loff : BitVec 42) (ts : Fin 5) (xa : XReg), runs s g [xa, 15] = true →
    let x := s.me.xr xa
    (2 ^ 48 ≤ x.toNat → exec (.brx g an xa) s = .next (s.trap .addr x) ∧ exec (.callx g an xa) s = .next (s.trap .addr x))
    ∧ (x.toNat < 2 ^ 48 → x.toNat % 64 ∉ [0, 12, 24, 36, 48] →
        exec (.brx g an xa) s = .next (s.trap .align x) ∧ exec (.callx g an xa) s = .next (s.trap .align x))
    ∧ (2 ^ 48 ≤ (branchTarget s.me.pc loff ts).toNat →
        exec (.br g .always an loff ts) s = .next (s.trap .addr (branchTarget s.me.pc loff ts))
        ∧ exec (.call g an loff ts) s = .next (s.trap .addr (branchTarget s.me.pc loff ts))))

/-- R293 and R294, taking a precise trap: the chain is saved, K0 is not, the cause and address are written, the handler sees counters of its
own, and its first slot is next. x registers, predicates, owed registers, memory and groups are shared and unchanged. R145, R293 and R294, a
trap that cannot be taken (no handler, or a synchronous trap in a handler with NE 0) kills the context with reason 1, and no thread of it is
left: that the kill takes its threads at once is the model's choice (log 71), and so is the address in the summary of a cause without one
(log 93). -/
def Obligations.TrapEntry : Prop :=
  (∀ (s : State) (c : Cause) (addr : Word), canTrap s.me = true → (s.slot s.cur).st = .ready →
    let t := s.trap c addr
    t.me.tpc0 = s.me.pc ∧ t.me.tpc1 = s.me.npc ∧ t.me.tpc2 = s.me.nnpc
    ∧ t.me.tann.toNat = 2 * b2n s.me.a1 + 4 * b2n s.me.k1 + 8 * b2n s.me.k2 + 16 * b2n s.me.priv
    ∧ t.me.tcause.toNat = causeCode c ∧ t.me.taddr = addr
    ∧ t.me.priv = true ∧ t.me.ne = false
    ∧ (s.me.priv = false → t.me.e = Vector.replicate 4 0 ∧ t.me.eb = s.me.e)
    ∧ (s.me.priv = true → t.me.e = s.me.e ∧ t.me.eb = s.me.eb)
    ∧ t.me.pc = s.me.tvec ∧ t.me.npc = nextPc s.me.tvec ∧ t.me.nnpc = nextPc (nextPc s.me.tvec)
    ∧ t.me.a0 = false ∧ t.me.a1 = false ∧ t.me.k0 = false ∧ t.me.k1 = false ∧ t.me.k2 = false
    ∧ t.me.x = s.me.x ∧ t.me.p = s.me.p ∧ t.me.owed = s.me.owed ∧ t.me.tsave0 = s.me.tsave0 ∧ t.me.tsave1 = s.me.tsave1
    ∧ t.me.tvec = s.me.tvec ∧ (t.slot t.cur).st = .ready ∧ t.mem = s.mem ∧ t.full = s.full ∧ t.groups = s.groups
    ∧ ∀ id : Tid, id.key ≠ s.cur.key → t.slot id = s.slot id)
  ∧ (∀ (s : State) (c : Cause) (addr : Word), canTrap s.me = false → (s.ctx s.me.ctx).st = .opened →
    let t := s.trap c addr
    (t.ctx s.me.ctx).st = .killing ∧ (t.ctx s.me.ctx).reason = 1 ∧ (t.ctx s.me.ctx).cause = causeCode c
    ∧ (t.ctx s.me.ctx).faddr = faultAddr (causeCode c) addr ∧ ∀ id, (t.slot id).st.live = true → (t.thread id).ctx ≠ s.me.ctx)

/-- R284, R293 and R297, TRAP: TRAPI with sr.taddr the second source; the saved chain is the one after TRAP commits, so ERET goes on behind
it. -/
def Obligations.TrapInstruction : Prop :=
  ∀ (s : State) (g : Guard) (b : Src), runs s g (srcRegs b) = true → canTrap s.me = true →
    ∃ t, exec (.trap g b) s = .next t ∧ t.me.tpc0 = s.me.npc ∧ t.me.tpc1 = s.me.nnpc ∧ t.me.tpc2 = nextPc s.me.nnpc
      ∧ t.me.tann.toNat = b2n s.me.a1 + 4 * b2n s.me.k2 + 16 * b2n s.me.priv
      ∧ t.me.tcause.toNat = 0x1A ∧ t.me.taddr = s.me.src b ∧ t.me.priv = true ∧ t.me.pc = s.me.tvec
      ∧ t.me.x = s.me.x ∧ t.me.p = s.me.p ∧ moduleSame s t ∧ othersSame s t

/-- R296, ERET of a handler with nothing outstanding whose saved PCs are legal: the chain comes back without a check of the slot at PC; NEST is
cleared and the handler goes on, or the interrupted code's counters are seen again and privilege ends. -/
def Obligations.ReturnFromTrap : Prop :=
  ∀ (s : State) (g : Guard), runs s g [] = true → s.me.priv = true →
    pcOk s.me.tpc0 = true → pcOk s.me.tpc1 = true → pcOk s.me.tpc2 = true →
    (s.me.tann.getLsbD 4 = false → s.handlerBusy s.cur = false) →
    ∃ t, exec (.eret g) s = .next t ∧ t.me.pc = s.me.tpc0 ∧ t.me.npc = s.me.tpc1 ∧ t.me.nnpc = s.me.tpc2
      ∧ t.me.a0 = s.me.tann.getLsbD 0 ∧ t.me.a1 = s.me.tann.getLsbD 1 ∧ t.me.k0 = false
      ∧ t.me.k1 = s.me.tann.getLsbD 2 ∧ t.me.k2 = s.me.tann.getLsbD 3
      ∧ t.me.x = s.me.x ∧ t.me.p = s.me.p ∧ t.mem = s.mem ∧ othersSame s t
      ∧ (if s.me.tann.getLsbD 4 then t.me.priv = true ∧ t.me.tann.getLsbD 4 = false ∧ t.me.e = s.me.e ∧ t.groups = s.groups
         else t.me.priv = false ∧ t.me.e = s.me.eb ∧ t.groups = s.groups.erase (handlerKey s.cur))

/-- R293 and R296 together: ERET right after a precise trap out of unprivileged code gives back the chain, the counters and every register, but
K0, which it clears. -/
def Obligations.TrapRoundTrip : Prop :=
  ∀ (s : State) (g : Guard) (c : Cause) (addr : Word), canTrap s.me = true → (s.slot s.cur).st = .ready →
    s.me.priv = false → s.me.guard g = true → s.handlerBusy s.cur = false →
    pcOk s.me.pc = true → pcOk s.me.npc = true → pcOk s.me.nnpc = true →
    ∃ t, exec (.eret g) (s.trap c addr) = .next t ∧ t.me.pc = s.me.pc ∧ t.me.npc = s.me.npc ∧ t.me.nnpc = s.me.nnpc
      ∧ t.me.a0 = false ∧ t.me.a1 = s.me.a1 ∧ t.me.k0 = false ∧ t.me.k1 = s.me.k1 ∧ t.me.k2 = s.me.k2
      ∧ t.me.x = s.me.x ∧ t.me.p = s.me.p ∧ t.me.e = s.me.e ∧ t.me.priv = false ∧ t.mem = s.mem

/-- R48, R296, R303 and R415: outside privileged mode ERET, an SWR of a privileged register, an SRD of sr.tsave0 or sr.tsave1, TLBI and PROBE
raise PRIV, whatever the guard. R48, R299 and R303: an SWR of a read-only register or of a number outside the map, and an SRD outside the map, raise
ILL. -/
def Obligations.PrivilegedAndUnknown : Prop :=
  (∀ (s : State) (g : Guard) (n : BitVec 12) (xd xa : XReg) (pd pe : PReg) (r : Reach) (m : TlbiMode) (a : Perm), s.me.priv = false →
    let privTrap := fun i => exec i s = .next (s.trap .priv s.me.pc)
    privTrap (.eret g) ∧ privTrap (.srd g xd 0x047) ∧ privTrap (.srd g xd 0x048) ∧ privTrap (.tlbi g r m) ∧ privTrap (.probe g a xd pd pe xa)
    ∧ (n.toNat ∈ [0x010, 0x011, 0x013, 0x031, 0x040, 0x041, 0x042, 0x043, 0x044, 0x045, 0x046, 0x047, 0x048, 0x050, 0x051] →
        privTrap (.swr g n xa)))
  ∧ (∀ (s : State) (g : Guard) (n : BitVec 12) (xd xa : XReg),
    (n.toNat ∈ [0x000, 0x001, 0x002, 0x003, 0x004, 0x012, 0x024, 0x025] → exec (.swr g n xa) s = .next (s.trap .ill s.me.pc))
    ∧ (n.toNat ∉ [0x000, 0x001, 0x002, 0x003, 0x004, 0x010, 0x011, 0x012, 0x013, 0x020, 0x021, 0x022, 0x023, 0x024, 0x025, 0x030, 0x031,
        0x040, 0x041, 0x042, 0x043, 0x044, 0x045, 0x046, 0x047, 0x048, 0x050, 0x051] →
      exec (.swr g n xa) s = .next (s.trap .ill s.me.pc) ∧ exec (.srd g xd n) s = .next (s.trap .ill s.me.pc)))

/-- R299 to R301, NOP, TS, CYC and WSWIN; R138, R234, R303 and R304, what SRD reads of every special register: those of the thread, its
privilege and flags, those of its core, and those of its group, which a loose thread reads as 0. -/
def Obligations.SystemReads : Prop :=
  ∀ (s : State) (g : Guard) (xd : XReg) (b : Src), runs s g (xd :: srcRegs b) = true →
    let t := s.me
    let bank := (t.src b).toNat
    let start := s.now - s.now % 64000 + bank * 1000
    Completes (.nop g) s [] [] (fun _ => True)
    ∧ Writes (.ts g xd) s xd (BitVec.ofNat 64 s.now)
    ∧ (∀ c, t.lastIssue = some c → Writes (.cyc g xd) s xd (BitVec.ofNat 64 c))
    ∧ (bank ≤ 63 → Writes (.wswin g xd b) s xd (BitVec.ofNat 64 (if start + 256 ≤ s.now then start + 64000 else start)))
    ∧ (63 < bank → Writes (.wswin g xd b) s xd (refusal .fault))
    ∧ Writes (.srd g xd 0x000) s xd (BitVec.ofNat 64 ((s.ctx t.ctx).tag * 2 ^ 16 + t.ctx))
    ∧ Writes (.srd g xd 0x001) s xd (BitVec.ofNat 64 (s.chip * 256 + s.cur.core))
    ∧ (∀ c, t.lastIssue = some c → Writes (.srd g xd 0x004) s xd (BitVec.ofNat 64
        (Nat.min 127 (t.prio + Nat.min s.myCore.agecap ((c - t.readyAt) / s.myCore.ageq)) * 2 ^ 8 + t.prio)))
    ∧ Writes (.srd g xd 0x010) s xd (BitVec.ofNat 64 s.myCore.ageq) ∧ Writes (.srd g xd 0x011) s xd (BitVec.ofNat 64 s.myCore.agecap)
    ∧ Writes (.srd g xd 0x012) s xd (BitVec.ofNat 64 s.myCore.fduty) ∧ Writes (.srd g xd 0x013) s xd (BitVec.ofNat 64 s.myCore.dthr)
    ∧ Completes (.srd g xd 0x031) s [xd] [] (fun u => ∀ j, j < 64 → (u.me.xr xd).getLsbD j =
        ((decide (j = 0) && t.priv) || (decide (j = 1) && t.ne) || (decide (j = 3) && t.bsk)
          || (decide (j = 4) && (t.pend.get? (causeCode .post)).isSome)))
    ∧ Writes (.srd g xd 0x002) s xd (BitVec.ofNat 64 (s.handle s.cur))
    ∧ Writes (.srd g xd 0x030) s xd t.putfail ∧ Writes (.srd g xd 0x040) s xd t.tvec ∧ Writes (.srd g xd 0x041) s xd t.tcause
    ∧ Writes (.srd g xd 0x042) s xd t.taddr ∧ Writes (.srd g xd 0x043) s xd t.tpc0 ∧ Writes (.srd g xd 0x044) s xd t.tpc1
    ∧ Writes (.srd g xd 0x045) s xd t.tpc2 ∧ Writes (.srd g xd 0x046) s xd t.tann
    ∧ Writes (.srd g xd 0x050) s xd t.bkpt ∧ Writes (.srd g xd 0x051) s xd t.watch
    ∧ (t.priv = true → Writes (.srd g xd 0x047) s xd t.tsave0 ∧ Writes (.srd g xd 0x048) s xd t.tsave1)
    ∧ (t.group = none → ∀ n : BitVec 12, n.toNat ∈ [0x003, 0x020, 0x021, 0x022, 0x023, 0x024, 0x025] → Writes (.srd g xd n) s xd 0)
    ∧ (∀ n grp, t.group = some n → s.groups.get? n = some grp →
        let depth := fun (m : Nat) => if s.myCore.holder = some n then BitVec.ofNat 64 m else 0
        Writes (.srd g xd 0x003) s xd (BitVec.ofNat 64 n) ∧ Writes (.srd g xd 0x020) s xd grp.mfmt ∧ Writes (.srd g xd 0x021) s xd grp.ascl
        ∧ Writes (.srd g xd 0x022) s xd grp.bscl ∧ Writes (.srd g xd 0x023) s xd grp.vflags
        ∧ Writes (.srd g xd 0x024) s xd (depth s.myCore.bank0.meter) ∧ Writes (.srd g xd 0x025) s xd (depth s.myCore.bank1.meter))

/-- R20, R222, R234, R302 and R303, SWR of every register that can be written, in privileged mode or, for sr.putfail and the registers of a
group, in any: the register takes the value, reserved bits stay zero, sr.ageq and sr.agecap are clipped; no x register, predicate or byte of
memory changes. -/
def Obligations.SystemWrites : Prop :=
  ∀ (s : State) (g : Guard) (xa : XReg), runs s g [xa] = true →
    let v := s.me.xr xa
    let sets := fun (n : BitVec 12) (post : State → Prop) => ∃ t, exec (.swr g n xa) s = .next t ∧ advanced s t ∧ post t
      ∧ (∀ r, t.me.xr r = s.me.xr r) ∧ (∀ q, t.me.pr q = s.me.pr q) ∧ t.mem = s.mem ∧ othersSame s t
    (s.me.priv = true →
      sets 0x040 (fun t => t.me.tvec = v) ∧ sets 0x041 (fun t => t.me.tcause = v &&& 0x1FF) ∧ sets 0x042 (fun t => t.me.taddr = v) ∧ sets 0x043 (fun t => t.me.tpc0 = v)
      ∧ sets 0x044 (fun t => t.me.tpc1 = v) ∧ sets 0x045 (fun t => t.me.tpc2 = v) ∧ sets 0x046 (fun t => t.me.tann = v &&& 0x1F)
      ∧ sets 0x047 (fun t => t.me.tsave0 = v) ∧ sets 0x048 (fun t => t.me.tsave1 = v)
      ∧ sets 0x050 (fun t => t.me.bkpt = v &&& 0x8000FFFFFFFFFFFF) ∧ sets 0x051 (fun t => t.me.watch = v &&& 0xE000FFFFFFFFFFC0)
      ∧ sets 0x031 (fun t => t.me.ne = v.getLsbD 1 ∧ t.me.bsk = v.getLsbD 3 ∧ t.me.priv = true)
      ∧ sets 0x010 (fun t => t.myCore.ageq = Nat.min 65536 (Nat.max 16 v.toNat))
      ∧ sets 0x011 (fun t => t.myCore.agecap = Nat.min 127 v.toNat)
      ∧ sets 0x013 (fun t => t.myCore.dthr = v.toNat % 256))
    ∧ sets 0x030 (fun t => t.me.putfail = v &&& 0x80FFFF3FFFFFFFFF)
    ∧ (∀ n, s.me.group = some n → (s.groups.get? n).isSome = true →
        sets 0x020 (fun t => (t.group n).mfmt = v &&& 0x1FF) ∧ sets 0x021 (fun t => (t.group n).ascl = v)
        ∧ sets 0x022 (fun t => (t.group n).bscl = v) ∧ sets 0x023 (fun t => (t.group n).vflags = v &&& 0x1F))

/-- R137 and R298, FENCE of a thread with nothing outstanding only commits (an acquire at device or pod scope also empties the cluster's cache),
and TPOST to the issuing thread makes POST pending once: a second one is refused FULL and replaces nothing. -/
def Obligations.FenceAndPost : Prop :=
  ∀ (s : State) (g : Guard) (o : Order) (xd xa : XReg) (pd pe : PReg) (b : Src),
    (runs s g [] = true → o.ord ≠ .none → s.quiet s.cur = true →
      CompletesIn (.fence g o) s [] [] (fun s t => t = { s with slots := t.slots, issueq := t.issueq, clusters := t.clusters })
        fun t => o.ord ≠ .rel → (o.scp = .dev ∨ o.scp = .pod) → (t.cluster (clusterOf s.cur.core)).lines = [])
    ∧ (runs s g (xd :: xa :: srcRegs b) = true → s.me.xr xa = 0 → s.locate (s.handle s.cur) = .slot s.cur →
      (s.me.pend.get? (causeCode .post) = none →
        ∃ t, exec (.tpost g xd pd pe xa b) s = .next t ∧ advanced s t ∧ moduleSame s t ∧ othersSame s t ∧ t.me.xr xd = 0
          ∧ t.me.pend.get? (causeCode .post) = some (s.me.src b) ∧ ∀ r, r ≠ xd → t.me.xr r = s.me.xr r)
      ∧ (∀ v, s.me.pend.get? (causeCode .post) = some v →
        Completes (.tpost g xd pd pe xa b) s [xd] [pd, pe] fun t => t.me.xr xd = refusal .full))

/-! ### Thread life (R240 to R255) -/

/-- R241 to R243, a SPAWN whose slot is there, with none of the registers it reads owed: the child starts in the slot that State.pickSlot
names, which is the model's reading of R232 and is not stated here, READY at the entry with x1 to x4, the priority and
the next generation; the parent gets its handle. SPAWN puts it in the parent's group and launch, SPAWN.loose in neither: that a loose child
belongs to no launch is the model's choice (log 47). -/
def Obligations.SpawnCreatesThread : Prop :=
  ∀ (s : State) (g : Guard) (xd : XReg) (pd pe : PReg) (xa : XReg) (b : Src) (i : Nat), runs s g (xd :: xa :: srcRegs b ++ [1, 2, 3, 4]) = true →
    pcOk (s.me.xr xa) = true → (s.me.src b).toNat ≤ 127 → s.slotBlock s.me.ctx s.cur.core = none → s.pickSlot s.cur.core = some i →
    let c : Tid := { core := s.cur.core, slot := i }
    let made := fun (ins : Instr) (grp launch : Option Nat) => ∃ t, exec ins s = .next t ∧ t.cur = s.cur ∧ advanced s t
      ∧ coresOnly s t ∧ (∀ id : Tid, id.key ≠ s.cur.key → id.key ≠ c.key → t.slot id = s.slot id)
      ∧ (t.slot c).st = .ready ∧ (t.slot c).gen = nextGen (s.slot c).gen
      ∧ (t.thread c).pc = s.me.xr xa ∧ (t.thread c).npc = nextPc (s.me.xr xa) ∧ (t.thread c).k0 = true
      ∧ (∀ r : XReg, (t.thread c).xr r = if r = 1 ∨ r = 2 ∨ r = 3 ∨ r = 4 then s.me.xr r else 0)
      ∧ (∀ q : PReg, q ≠ 0 → (t.thread c).pr q = 0) ∧ (t.thread c).prio = (s.me.src b).toNat ∧ (t.thread c).ctx = s.me.ctx
      ∧ (t.thread c).tvec = (s.ctx s.me.ctx).tvec ∧ (t.thread c).group = grp ∧ (t.thread c).launch = launch
      ∧ t.me.xr xd = BitVec.ofNat 64 (handleOf s.chip s.cur.core i (nextGen (s.slot c).gen))
      ∧ regsSame s.me t.me [xd] [pd, pe] ∧ (pe ≠ 0 → t.me.pr pe = 0)
    made (.spawnLoose g xd pd pe xa b) none none
    ∧ (∀ n, s.me.group = some n → s.members n < 64 → made (.spawn g xd pd pe xa b) (some n) s.me.launch)

/-- R248 and R249, the end of a thread: EXIT of a thread of no group with no unacknowledged store leaves its slot FREE with the departure record
that a later JOIN answers 0 on; a JOIN of a slot whose record is another generation's is refused DEAD. -/
def Obligations.ExitAndJoin : Prop :=
  ∀ (s : State) (g : Guard) (xd xa : XReg) (pd pe : PReg),
    (runs s g [] = true → s.unacked s.cur = 0 → s.me.group = none →
      ∃ t, exec (.exit g) s = .next t ∧ (t.slot s.cur).st = .free ∧ (∃ n, (t.slot s.cur).dep = some ((s.slot s.cur).gen, .exited, n))
        ∧ othersSame s t ∧ t.mem = s.mem ∧ t.full = s.full)
    ∧ (runs s g [xd, xa] = true →
      let h := (s.me.xr xa).toNat
      let c : Tid := { core := h / 2 ^ 16 % 256, slot := h / 2 ^ 8 % 256 }
      h < 2 ^ 34 → h / 2 ^ 24 = s.chip → h % 256 ≠ 0 → h ≠ s.handle s.cur → (s.slot c).st = .free →
      (∀ n, (s.slot c).dep = some (h % 256, .exited, n) → Answers (.join g xd pd pe xa) s xd pd pe 0 true moduleSame fun _ => True)
      ∧ (∀ gen d n, (s.slot c).dep = some (gen, d, n) → gen ≠ h % 256 →
        Answers (.join g xd pd pe xa) s xd pd pe (refusal .dead) false moduleSame fun _ => True))

/-- R253 to R255, priority and positions: PRIO of the thread itself, YIELD, and SLOT with its three kinds of request. R250 to R252, event
counters and migration: SEMW subtracts when the counter suffices and waits otherwise; SEMA with h = 0 adds and raises EVOVF rather than pass
65,535; MIGR to the thread's own core answers its handle, and to another core it waits there for the answer. -/
def Obligations.ThreadControls : Prop :=
  (∀ (s : State) (g : Guard) (xd xa : XReg) (pd pe : PReg) (b : Src) (cyc : Nat), runs s g (xd :: xa :: srcRegs b) = true →
    s.me.lastIssue = some cyc →
    let q := (s.me.src b).toNat
    (q ≤ 127 → s.me.xr xa = 0 → ∃ t, exec (.prio g xd pd pe xa b) s = .next t ∧ advanced s t ∧ moduleSame s t ∧ othersSame s t
      ∧ t.me.prio = q ∧ t.me.xr xd = BitVec.ofNat 64 s.me.prio ∧ ∀ r, r ≠ xd → t.me.xr r = s.me.xr r)
    ∧ (q = 0 → Completes (.yield g b) s [] [] fun t => t.me.readyAt = cyc)
    ∧ (0 < q → ∃ t, exec (.yield g b) s = .next t ∧ (t.slot s.cur).st = .stall ∧ t.me.readyAt = cyc
        ∧ t.me.wait = .retry (.rotations (cyc + 16 * Nat.min q 255)) ∧ t.me.pc = s.me.npc ∧ moduleSame s t ∧ othersSame s t
        ∧ regsSame s.me t.me [] [])
    ∧ (s.myCore.posOf s.cur.slot = none → q ≤ 3 → s.myCore.resv.get? q = none →
        Answers (.slot g xd pd pe b) s xd pd pe (BitVec.ofNat 64 q) true coresOnly fun t =>
          t.myCore.resv.get? q = some (s.cur.slot, (s.myCore.cyc + 15) / 16 * 16))
    ∧ (∀ p, s.myCore.posOf s.cur.slot = some p → q = 5 →
        Answers (.slot g xd pd pe b) s xd pd pe (BitVec.ofNat 64 p) true coresOnly fun t => t.myCore.resv = s.myCore.resv.erase p)
    ∧ (5 < q → Answers (.slot g xd pd pe b) s xd pd pe (refusal .fault) false moduleSame fun _ => True))
  ∧ (∀ (s : State) (g : Guard) (xd xa : XReg) (pd pe : PReg) (k : EReg) (b : Src), runs s g (xd :: xa :: srcRegs b) = true →
    let n := (s.me.src b).toNat
    let old := s.me.e[k].toNat
    (n ≤ 65535 → s.semwTiles k = [] →
      (n ≤ old → ∃ t, exec (.semw g k b) s = .next t ∧ advanced s t ∧ moduleSame s t ∧ othersSame s t ∧ t.me.x = s.me.x
        ∧ t.me.p = s.me.p ∧ t.me.e[k].toNat = old - n ∧ ∀ j : EReg, j ≠ k → t.me.e[j] = s.me.e[j])
      ∧ (old < n → waitsUntrapped s.me → ∃ t, exec (.semw g k b) s = .next t ∧ (t.slot s.cur).st = .wait ∧ t.me.wait = .block (.semw k n)
        ∧ t.me.pc = s.me.pc ∧ t.me.e = s.me.e ∧ moduleSame s t ∧ othersSame s t))
    ∧ (n ≤ 65535 → s.me.xr xa = 0 →
      (old + n ≤ 65535 → ∃ t, exec (.sema g xd pd pe k xa b) s = .next t ∧ advanced s t ∧ moduleSame s t ∧ othersSame s t
        ∧ t.me.e[k].toNat = old + n ∧ t.me.xr xd = 0 ∧ (pe ≠ 0 → t.me.pr pe = 0) ∧ ∀ r, r ≠ xd → t.me.xr r = s.me.xr r)
      ∧ (65535 < old + n → exec (.sema g xd pd pe k xa b) s = .next (s.trap .evovf (BitVec.ofNat 64 k.val))))
    ∧ (s.me.group = none → (s.me.xr xa).toNat ≤ 255 →
      ((s.me.xr xa).toNat = s.cur.core →
        Answers (.migr g xd pd pe xa) s xd pd pe (BitVec.ofNat 64 (s.handle s.cur)) true moduleSame fun _ => True)
      ∧ ((s.me.xr xa).toNat ≠ s.cur.core → s.mayMove s.cur = true →
        ∃ t, exec (.migr g xd pd pe xa) s = .next t ∧ (t.slot s.cur).st = .stall
          ∧ t.moves = s.moves ++ [{ tid := s.cur, dest := (s.me.xr xa).toNat, xd := some xd, pd := pd, pe := pe }] ∧ othersSame s t)))

/-- R245 to R247, channels: an entry of the thread's context on its own core is installed from a record in the scratchpad, blocked, unblocked,
queried and removed at once, and one of another core is asked for, the thread in STALL until its reply; an entry that is not the context's
is DENIED; and SPNR puts a spawn message with x1 to x4 in the send port. -/
def Obligations.Channels : Prop :=
  ∀ (s : State) (g : Guard) (xd xa xb : XReg) (pd pe : PReg) (b : Src) (ev : EvSel) (core i : Nat),
    runs s g (xd :: xa :: xb :: srcRegs b ++ [1, 2, 3, 4]) = true → (s.me.src b).toNat = core * 256 + i → core < 256 → i < 256 →
    (∀ c, core = s.cur.core → (s.core core).chans.get? i = some c → c.ctx = s.me.ctx →
      (Answers (.chanBlock g xd pd pe b) s xd pd pe 0 true coresOnly fun t => (t.core core).chans.get? i = some { c with blocked := true })
      ∧ (Answers (.chanUnblock g xd pd pe b) s xd pd pe 0 true coresOnly fun t =>
          (t.core core).chans.get? i = some { c with blocked := false })
      ∧ (Answers (.chanQuery g xd pd pe b) s xd pd pe c.entry true coresOnly fun t => (t.core core).chans.get? i = some c)
      ∧ (Answers (.chanRemove g xd pd pe b) s xd pd pe 0 true coresOnly fun t =>
          (t.core core).chans = (s.core core).chans.erase i))
    ∧ (core ≠ s.cur.core → ∀ e ∈ [(Instr.chanBlock g xd pd pe b, ChanReq.block), (.chanUnblock g xd pd pe b, .unblock),
          (.chanQuery g xd pd pe b, .query), (.chanRemove g xd pd pe b, .remove)],
        ∃ t, exec e.1 s = .next t ∧ (t.slot s.cur).st = .stall ∧ t.me.wait = .op (.chan e.2 core i xd pd pe) ∧ t.me.pc = s.me.pc
          ∧ moduleSame s t ∧ othersSame s t ∧ regsSame s.me t.me [] [])
    ∧ (core = s.cur.core → (∀ c, (s.core core).chans.get? i = some c → c.ctx ≠ s.me.ctx) →
        (Answers (.chanQuery g xd pd pe b) s xd pd pe (refusal .denied) false moduleSame fun _ => True)
        ∧ (∀ ch, (s.core core).chans.get? i = none → s.me.fetched = none → ownSpad s (s.me.xr xa) 32 32 = true → s.eccHit (localPa s.cur.core (s.me.xr xa).toNat) 32 = false →
            s.chanOf core s.me.ctx (s.bytes (localPa s.cur.core (s.me.xr xa).toNat) 32) = some ch →
            ((s.core core).chans.filter fun e => e.2.ctx = s.me.ctx).length < (s.ctx s.me.ctx).quota.chans →
            Answers (.chanInstall g xd pd pe xa b) s xd pd pe 0 true coresOnly fun t => (t.core core).chans.get? i = some ch))
    ∧ (localRange s (s.me.xr xb) 8 8 = true → s.portFull s.cur = false →
        ∃ t, ∃ it ∈ (t : State).items, exec (.spnr g xa xb ev) s = .next t ∧ advanced s t ∧ regsSame s.me t.me [] [] ∧ othersSame s t ∧ t.mem = s.mem
          ∧ it.id = s.nextItem ∧ it.tid = some s.cur ∧ it.ev = ev
          ∧ it.kind = .spnr ((s.me.xr xa).toNat / 2 ^ 16 % 2 ^ 10) ((s.me.xr xa).toNat / 2 ^ 8 % 2 ^ 8) ((s.me.xr xa).toNat % 2 ^ 8)
              [s.me.xr 1, s.me.xr 2, s.me.xr 3, s.me.xr 4] (localPa s.cur.core (s.me.xr xb).toNat))

/-! ### Names, puts, queues, kernels (R163 to R184, R202 to R205, R226 to R229) -/

/-- R226, R228 and R229, names and puts: GNAME gives the own name (0 for a loose thread) or that of a rank, VARM sets the arm count of a
register of the window, with count 0 takes its arming away, and VPUT takes the register as it stands into the send port. -/
def Obligations.NamesAndPuts : Prop :=
  (∀ (s : State) (g : Guard) (xd : XReg), runs s g [xd] = true → s.me.group = none → Writes (.gname g xd) s xd 0)
  ∧ ∀ (s : State) (g : Guard) (xd xa : XReg) (pd pe : PReg) (b : Src) (v : VIdx) (count : Byte) (idx : Fin 64) (ev : EvSel) (n : Nat) (grp : Group),
    runs s g (xd :: xa :: srcRegs b) = true → s.me.group = some n → s.groups.get? n = some grp →
    Writes (.gname g xd) s xd (BitVec.ofNat 64 n)
    ∧ (∀ l name, s.myLaunch? = some l → (s.me.src b).toNat < l.rcd.groupCount → l.names[(s.me.src b).toNat]? = some name →
        Answers (.gnameRank g xd pd pe b) s xd pd pe (BitVec.ofNat 64 name) true moduleSame fun _ => True)
    ∧ (v.val < grp.vregs → CompletesIn (.varm g v count) s [] [] groupsOnly fun t =>
        ∃ grp', t.groups.get? n = some grp' ∧ grp'.v = grp.v ∧ (count ≠ 0 → grp'.arm.get? v.val = some count.toNat)
          ∧ (count = 0 → Tab.wf grp.arm = true → grp'.armOf v.val = 0) ∧ ∀ j, j ≠ v.val → grp'.arm.get? j = grp.arm.get? j)
    ∧ (grp.vregs ≤ v.val → exec (.varm g v count) s = .next (s.trap .win (BitVec.ofNat 64 v.val)))
    ∧ (v.val < grp.vregs → grp.arm.getD v.val 0 = 0 → s.portFull s.cur = false → (s.vbank s.cur.core grp.bank).st = .on →
        s.eccVreg [v.val] = false →
        ∃ t, ∃ it ∈ (t : State).items, exec (.vput g v xa idx ev) s = .next t ∧ advanced s t ∧ regsSame s.me t.me [] [] ∧ othersSame s t ∧ t.mem = s.mem
          ∧ it.id = s.nextItem ∧ it.tid = some s.cur ∧ it.ev = ev
          ∧ it.kind = .vput ((s.me.xr xa).toNat % 2 ^ 32) idx.val (grp.v.getD v.val 0))

/-- R164, R165, R181 and R182, messages: SEND takes its bytes into the send port, for a mailbox of any core or chip of the pod, and one to a
mailbox of its own core with room is accepted at once; RECV and RECV.try take the oldest message of the highest priority, write its bytes at
the address given and its description to x[XD]; RECV.try on an empty mailbox answers 0 and false, and RECV waits there. While another message
of the cycle is still to be accepted RECV waits and RECV.try stays in STALL until it has been. The watchpoint is off: R302 does not say whether
it sees these accesses (log 16). -/
def Obligations.SendAndReceive : Prop :=
  ∀ (s : State) (g : Guard) (xd xa xb : XReg) (pd pe : PReg) (b : Src) (size prio : Fin 4) (ev : EvSel) (k : Nat) (m : Mailbox),
    MemoryCanonical s → runs s g (xd :: xa :: xb :: srcRegs b) = true →
    let a := s.me.xr xa
    let pa := localPa s.cur.core a.toNat
    let id := (s.me.xr xb).toNat
    let n := 32 * 2 ^ size.val
    let takenUp := fun (t : State) => exec (.send g size prio ev xa xb) s = .next t ∧ advanced s t ∧ regsSame s.me t.me [] []
      ∧ othersSame s t ∧ t.mem = s.mem
      ∧ ∃ it ∈ t.items, it.id = s.nextItem ∧ it.tid = some s.cur ∧ it.ev = ev ∧ it.kind = .send id n prio.val (s.bytes pa n)
    (id < 2 ^ 24 → s.inPod (id / 2 ^ 14) = true → ownSpad s a n n = true → s.portFull s.cur = false → s.eccHit pa n = false →
      (id / 2 ^ 6 ≠ s.chip * 2 ^ 8 + s.cur.core → ∃ t, takenUp t)
      ∧ (∀ box, id = s.chip * 2 ^ 14 + s.cur.core * 2 ^ 6 + id % 2 ^ 6 → s.box? s.cur.core (id % 2 ^ 6) = some box → box.tag = s.myTag →
        box.size = n → box.msgs.length + box.resv.length < box.depth → box.recvs = [] → s.tagKilling s.myTag = false →
        (∀ it ∈ s.items, it.id ≠ s.nextItem ∧ it.tid ≠ some s.cur) →
        ∃ t, takenUp t ∧ (∃ it ∈ t.items, it.id = s.nextItem ∧ it.st = .answered .ok 0) ∧ ∃ box', t.box? s.cur.core (id % 2 ^ 6) = some box'
          ∧ box'.msgs = box.msgs ++ [{ prio := prio.val, sender := s.handle s.cur, data := s.bytes pa n }]))
    ∧ ((s.me.src b).toNat = k → k ≤ 63 → s.box? s.cur.core k = some m → m.ctx = s.me.ctx → ownSpad s a m.size m.size = true →
      (s.msgDue s.cur.core k = true →
        (∃ t, exec (.recvTry g xd pd pe xa b) s = .next t ∧ (t.slot s.cur).st = .stall ∧ t.me.pc = s.me.pc ∧ moduleSame s t ∧ othersSame s t)
        ∧ (waitsUntrapped s.me → ∃ t, exec (.recv g xd pd pe xa b) s = .next t ∧ (t.slot s.cur).st = .wait ∧ t.me.wait = .block (.recv k)
          ∧ t.me.pc = s.me.pc ∧ othersSame s t ∧ t.mem = s.mem))
      ∧ (m.msgs = [] →
        (s.msgDue s.cur.core k = false → Answers (.recvTry g xd pd pe xa b) s xd pd pe 0 false moduleSame fun _ => True)
        ∧ (waitsUntrapped s.me → ∃ t, exec (.recv g xd pd pe xa b) s = .next t ∧ (t.slot s.cur).st = .wait ∧ t.me.wait = .block (.recv k)
          ∧ t.me.pc = s.me.pc ∧ othersSame s t ∧ t.mem = s.mem))
      ∧ (∀ early msg late, m.msgs = early ++ msg :: late → (∀ q ∈ early, q.prio < msg.prio) → (∀ q ∈ late, q.prio ≤ msg.prio) →
        m.waits = [] → m.recvs = [] → s.msgDue s.cur.core k = false →
        let takes := fun (i : Instr) => Answers i s xd pd pe (recvInfo m.size msg) true
          (fun s t => t = { s with slots := t.slots, issueq := t.issueq, cores := t.cores, mem := t.mem, ecc := t.ecc, spads := t.spads })
          (fun t => stored s t pa msg.data ∧ t.box? s.cur.core k = some { m with msgs := early ++ late })
        takes (.recv g xd pd pe xa b) ∧ takes (.recvTry g xd pd pe xa b)))

/-- R184, mailboxes: MBOX.open takes the lowest free index and an empty ring, MBOX.query describes it, and MBOX.close of one that nothing waits
at frees the index, zeroes the ring and answers the messages it held. R183, ENQ of a continuation record that the thread may read, with its
earlier accesses answered: the record's address and context join the task queue of the first of 16 cores with room, and the core's number is
the answer. -/
def Obligations.MailboxesAndTasks : Prop :=
  (∀ (s : State) (g : Guard) (xd xa : XReg) (pd pe : PReg) (b : Src), MemoryCanonical s → runs s g (xd :: xa :: srcRegs b) = true →
    let a := (s.me.xr xa).toNat
    let v := (s.me.src b).toNat
    let size := 32 * 2 ^ (v % 4)
    let depth := 2 ^ (v / 4 % 16)
    (∀ k, v < 64 → v / 4 % 16 ≤ 8 → a % 64 = 0 → a + (depth * size + 63) / 64 * 64 ≤ shapeBase →
      s.ringHit s.cur.core a ((depth * size + 63) / 64 * 64) = none → s.myCore.boxes.lowestFree 64 = some k →
      (s.myCore.boxes.filter fun e => e.2.ctx = s.me.ctx).length < (s.ctx s.me.ctx).quota.boxes →
      Answers (.mboxOpen g xd pd pe xa b) s xd pd pe (BitVec.ofNat 64 k) true coresOnly fun t => ∃ m, t.box? s.cur.core k = some m
        ∧ m.ctx = s.me.ctx ∧ m.tag = s.myTag ∧ m.size = size ∧ m.depth = depth ∧ m.base = a ∧ m.msgs = [] ∧ m.recvs = [] ∧ m.waits = [])
    ∧ (∀ m, v ≤ 63 → s.box? s.cur.core v = some m → m.ctx = s.me.ctx →
      (Answers (.mboxQuery g xd pd pe b) s xd pd pe (BitVec.ofNat 64 (m.base / 64 * 2 ^ 32 + Nat.min m.recvs.length 255 * 2 ^ 17 + 2 ^ 16
          + sizeCode m.size * 2 ^ 13 + Nat.log2 m.depth * 2 ^ 9 + m.msgs.length)) true moduleSame fun _ => True)
      ∧ (m.recvs = [] → m.waits = [] → Answers (.mboxClose g xd pd pe b) s xd pd pe (BitVec.ofNat 64 m.msgs.length) true
          (fun s t => t = { s with slots := t.slots, issueq := t.issueq, cores := t.cores, mem := t.mem, ecc := t.ecc, full := t.full })
          fun t => t.myCore.boxes = s.myCore.boxes.erase v ∧ ∀ c, t.byte c =
            if localPa s.cur.core m.base ≤ c ∧ c < localPa s.cur.core m.base + (m.depth * m.size + 63) / 64 * 64 then 0 else s.byte c)))
  ∧ (∀ (s : State) (g : Guard) (xd xa : XReg) (pd pe : PReg) (e : TlbE) (rest : List TlbE) (k : Nat), runs s g [xd, xa] = true →
    let a := s.me.xr xa
    a.toNat % 64 = 0 → spadSize ≤ a.toNat → a.toNat < 2 ^ 48 → s.myCore.tlb = e :: rest → e.covers s.me.ctx a.toNat = true →
    permCheck s s.me.ctx e.pte.toNat (e.pa a.toNat) .read = none →
    s.bridleHit s.cur.core (pteChip e.pte.toNat) (e.pa a.toNat) 256 true = false → s.quiet s.cur = true →
    s.enqCore a.toNat s.me.ctx = some k →
    Answers (.enq g xd pd pe xa) s xd pd pe (BitVec.ofNat 64 k) true coresOnly fun t =>
      (t.core k).taskq = (s.core k).taskq ++ [(a, s.me.ctx)]
      ∧ ∀ c, c ≠ k → t.core c = { s.core c with tlb := (t.core c).tlb } ∧ (c ≠ s.cur.core → t.core c = s.core c))

/-- R202 to R205, kernels: WID reads the work identifier, the group's rank and the dimensions; TRIG marks the group's rank once the thread is
quiet; KWAIT of a launch whose producers have finished answers true; KLNCH of a well-formed unconditional record takes a launch. -/
def Obligations.KernelInstructions : Prop :=
  ∀ (s : State) (g : Guard) (xd xa : XReg) (pd pe : PReg) (k : Nat) (l : Launch) (grp : Group) (n : Nat),
    runs s g [xd, xa] = true → s.me.group = some n → s.groups.get? n = some grp → s.me.launch = some k → s.launches.get? k = some l →
    (s.me.spawned = false →
      Writes (.wid g xd 6) s xd s.me.wid ∧ Writes (.wid g xd 8) s xd (BitVec.ofNat 64 s.me.pos)
      ∧ ∀ i : Fin 6, Writes (.wid g xd ⟨i.val, by omega⟩) s xd (BitVec.ofNat 64 (l.rcd.field s.me.wid i.val)))
    ∧ Writes (.wid g xd 7) s xd (BitVec.ofNat 64 grp.rank) ∧ Writes (.wid g xd 9) s xd (BitVec.ofNat 64 l.rcd.groupCount)
    ∧ Writes (.wid g xd 16) s xd (BitVec.ofNat 64 l.rcd.glv)
    ∧ (s.quiet s.cur = true → CompletesIn (.trig g) s [] [] (fun s t => t = { s with slots := t.slots, issueq := t.issueq, launches := t.launches })
        fun t => ∃ l', t.launches.get? k = some l' ∧ grp.rank ∈ l'.trig ∧ (∀ r ∈ l.trig, r ∈ l'.trig) ∧ l'.st = l.st)
    ∧ (s.me.owed = [] → l.aborted = false → l.st = .running → CompletesIn (.kwait g pd pe) s [] [pd, pe]
        (fun s t => t = { s with slots := t.slots, issueq := t.issueq, clusters := t.clusters })
        fun t => t.me.pr pe = (if pe = 0 then ones else 0) ∧ (pd ≠ pe → t.me.pr pd = ones))
    ∧ (let a := s.me.xr xa
       let r := recOf (s.bytes (localPa s.cur.core a.toNat) 64)
       s.me.fetched = none → ownSpad s a 64 64 = true → s.eccHit (localPa s.cur.core a.toNat) 64 = false → s.quiet s.cur = true →
       (s.ctx s.me.ctx).st = .opened → s.inFlight s.me.ctx < (s.ctx s.me.ctx).quota.launches →
       r.formOk (s.ctx s.me.ctx).quota.blocks = true → r.deps = 0 → r.shape = 0 → r.conditional = false →
       Answers (.klnch g xd pd pe xa) s xd pd pe (BitVec.ofNat 64 (serialOf s.nextLaunch)) true
         (fun s t => t = { s with slots := t.slots, issueq := t.issueq, launches := t.launches, nextLaunch := t.nextLaunch, ctxs := t.ctxs,
                                  stores := t.stores, clusters := t.clusters, txs := t.txs, nextSeq := t.nextSeq, transit := t.transit })
         fun t => t.nextLaunch = s.nextLaunch + 1 ∧ ∃ l', t.launches.get? s.nextLaunch = some l' ∧ l'.ctx = s.me.ctx ∧ l'.rcd = r
           ∧ l'.st = .queued ∧ l'.eligible = true ∧ l'.producers = [])

/-! ### Barriers (R385 to R399) -/

/-- R388, R389 and R394 to R396, barrier operations on the executing core: BINIT makes an OPEN barrier; BARR before the last arrival counts it,
the last one with no bytes pending completes the phase; BEXP changes the expected count; BTEST and BWAIT of a phase that is over answer at
once. R385, R386, the object: what is written to a granule is what is read back, for every field in its range. R399, BIND of a 64-byte
aligned region takes the lowest free of the group's 16 bindings, and UNBIND gives it back. -/
def Obligations.BarrierInstructions : Prop :=
  (∀ (s : State) (g : Guard) (xd xa : XReg) (pd pe : PReg) (b : Src), MemoryCanonical s → runs s g (xd :: xa :: srcRegs b) = true →
    let a := s.me.xr xa
    let pa := localPa s.cur.core a.toNat
    let v := s.me.src b
    let o := s.barAt pa
    let same := fun (s t : State) => t = { s with slots := t.slots, issueq := t.issueq, mem := t.mem, ecc := t.ecc, cores := t.cores,
                                                  spads := t.spads }
    ownSpad s a 16 16 = true → s.myTag < 2 ^ 16 → (∀ w ∈ s.myCore.bwt, w.pa ≠ pa) → s.me.bwaitDone = none →
    s.regionsOf s.me.group s.me.ctx s.cur.core s.chip pa = [] →
    (1 ≤ v.toNat → v.toNat ≤ 4095 → o.live = false → s.eccHit pa 16 = false →
      CompletesIn (.binit g .dev xa b) s [] [] same fun t => t.barAt pa =
        { st := 1, scp := 3, ph := false, pend := 0, arr := 0, exp := v.toNat, tag := s.myTag, gname := 0, zeros := true })
    ∧ (o.live = true → o.tag = s.myTag → o.scp = 3 → o.st = 1 → s.eccHit pa 16 = false →
      (o.arr + 1 < o.exp → CompletesIn (.barr g xd xa) s [xd] [] same fun t =>
        t.me.xr xd = BitVec.ofNat 64 ((o.arr + 1) * 2 + b2n o.ph) ∧ t.barAt pa = { o with arr := o.arr + 1 })
      ∧ (o.arr + 1 = o.exp → o.pend = 0 → CompletesIn (.barr g xd xa) s [xd] [] same fun t =>
        t.me.xr xd = BitVec.ofNat 64 ((o.arr + 1) * 2 + b2n o.ph) ∧ t.barAt pa = { o with arr := 0, ph := !o.ph })
      ∧ (∀ n : Nat, (o.exp : Int) + v.toInt = n → 1 ≤ n → n ≤ 4095 → o.arr < n → CompletesIn (.bexp g xd xa b) s [xd] [] same fun t =>
        t.me.xr xd = BitVec.ofNat 64 n ∧ t.barAt pa = { o with exp := n })
      ∧ Decides (.btest g pd pe xa b) s pd pe (o.ph != v.getLsbD 0)
      ∧ (o.ph ≠ v.getLsbD 0 → Completes (.bwait g xa b) s [] [] fun _ => True)
      ∧ (o.ph = v.getLsbD 0 → s.myCore.bwt.length < 256 → waitsUntrapped s.me → ∃ t, exec (.bwait g xa b) s = .next t ∧ (t.slot s.cur).st = .wait
          ∧ t.me.pc = s.me.pc ∧ t.mem = s.mem ∧ t.myCore.bwt.length = s.myCore.bwt.length + 1)))
  ∧ (∀ (s : State) (pa : Nat) (b : BarObj), MemoryCanonical s → inShapeHole pa = false → b.st < 8 → b.scp < 8 → b.pend < 2 ^ 24 →
    b.arr < 2 ^ 12 → b.exp < 2 ^ 12 → b.tag < 2 ^ 16 → b.gname < 2 ^ 32 → b.zeros = true →
    (s.setBar pa b).barAt pa = b ∧ (s.setBar pa b).full = s.full)
  ∧ (∀ (s : State) (g : Guard) (scp : Scope) (xd xa : XReg) (pd pe : PReg) (b : Src) (n k : Nat) (grp : Group),
    runs s g (xd :: xa :: srcRegs b) = true → s.me.group = some n → s.groups.get? n = some grp →
    let base := (s.me.xr xd).toNat
    let len := (s.me.src b).toNat
    let same := fun (s t : State) => t = { s with slots := t.slots, issueq := t.issueq, groups := t.groups, ctxs := t.ctxs }
    (ownSpad s (s.me.xr xa) 16 16 = true →
      (let pa := localPa s.cur.core (s.me.xr xa).toNat
       s.eccHit pa 16 = false ∧ ((s.barAt pa).live = true → s.partyOk s.myParty (s.barAt pa) pa = true)) →
      base % 64 = 0 → len % 64 = 0 → 0 < len → len ≤ 2 ^ 40 → base + len ≤ 2 ^ 48 →
      grp.binds.lowestFree 16 = some k → (grp.bindRec = true ∨ s.saveRoom grp.ctx 512 = true) →
      Answers (.bind g scp xd pd pe xa b) s xd pd pe (BitVec.ofNat 64 k) true same fun t => ∃ grp', t.groups.get? n = some grp'
        ∧ grp'.binds.get? k = some { scp := scp, bar := s.me.xr xa, len := s.me.src b, base := s.me.xr xd } ∧ grp'.bindRec = true)
    ∧ (∀ bd, len ≤ 15 → grp.binds.get? len = some bd →
      Answers (.unbind g xd pd pe b) s xd pd pe 0 true groupsOnly fun t => ∃ grp', t.groups.get? n = some grp'
        ∧ grp'.binds = grp.binds.erase len))

/-! ### Privileged page instructions (R415 to R417) -/

/-- R416 and R417, in privileged mode: TLBI removes the executing context's translations of the page from the TLBs of its reach, and from what
waiting instructions of the cores in its reach keep of them, and keeps those of other contexts; TLBI.clu changes the TLBs of its cluster alone;
PROBE answers 0 for the local window and the leaf of an address it may be used for, and on a missing permission PROT at
level 3. -/
def Obligations.PageInstructions : Prop :=
  ∀ (s : State) (g : Guard) (xd xa : XReg) (pd pe : PReg) (acc : Perm), runs s g [xd, xa] = true → s.me.priv = true →
    let a := (s.me.xr xa).toNat
    let keeps := fun (i : Instr) (inCore : Nat → Bool) (inClu : Nat → Bool) (hit : TlbE → Bool) => ∃ t, exec i s = .next t ∧ t.cur = s.cur
      ∧ advanced s t ∧ regsSame s.me t.me [] []
      ∧ t = { s with slots := t.slots, issueq := t.issueq, cores := t.cores, clusters := t.clusters }
      ∧ (∀ id : Tid, id.slot < 256 → id.key ≠ s.cur.key → t.slot id = if inCore id.core then
          { s.slot id with th := { s.thread id with pages := (s.thread id).pages.filter fun e => !hit e } } else s.slot id)
      ∧ (∀ c, t.core c = if inCore c then { s.core c with tlb := (s.core c).tlb.filter fun e => !hit e } else s.core c)
      ∧ (∀ k, t.cluster k = if inClu k then { s.cluster k with l2 := (s.cluster k).l2.filter fun e => !hit e } else s.cluster k)
    let all := fun (e : TlbE) => decide (e.ctx = s.me.ctx)
    let page := fun (e : TlbE) => all e && e.covers s.me.ctx a
    let notGlobal := fun (e : TlbE) => all e && !pteG e.pte.toNat
    let mine := fun c => decide (c = s.cur.core)
    let near := fun c => decide (clusterOf c = clusterOf s.cur.core)
    let clu := fun k => decide (k = clusterOf s.cur.core)
    (spadSize ≤ a → a < 2 ^ 48 →
      keeps (.tlbi g .core (.page xa)) mine (fun _ => false) page
      ∧ keeps (.tlbi g .clu (.page xa)) near clu page
      ∧ keeps (.tlbi g .dev (.page xa)) (fun _ => true) (fun _ => true) page)
    ∧ (a < spadSize ∨ 2 ^ 48 ≤ a → ∀ r, Completes (.tlbi g r (.page xa)) s [] [] fun _ => True)
    ∧ keeps (.tlbi g .core .ctx) mine (fun _ => false) notGlobal ∧ keeps (.tlbi g .clu .ctx) near clu notGlobal
    ∧ keeps (.tlbi g .dev .ctx) (fun _ => true) (fun _ => true) notGlobal
    ∧ keeps (.tlbi g .core .all) mine (fun _ => false) all ∧ keeps (.tlbi g .clu .all) near clu all
    ∧ keeps (.tlbi g .dev .all) (fun _ => true) (fun _ => true) all
    ∧ (a < spadSize → Answers (.probe g acc xd pd pe xa) s xd pd pe 0 true moduleSame fun _ => True)
    ∧ (∀ e rest, spadSize ≤ a → a < 2 ^ 48 → s.myCore.tlb = e :: rest → e.covers s.me.ctx a = true →
      (permCheck s s.me.ctx e.pte.toNat (e.pa a) acc = none →
        Answers (.probe g acc xd pd pe xa) s xd pd pe e.pte true coresOnly fun _ => True)
      ∧ (permCheck s s.me.ctx e.pte.toNat (e.pa a) acc = some .prot →
        Answers (.probe g acc xd pd pe xa) s xd pd pe (BitVec.ofNat 64 (2 ^ 63 + 3 * 2 ^ 8 + 8)) false coresOnly fun _ => True))

/-! ### Vector instructions (R305 to R322) -/

/-- R306 to R312, floating-point lanes: each enabled lane takes the rounded result of its operands and its flags join sr.vflags, a disabled lane
keeps its contents, and no other register, group or thread changes. VSUB and VFMS negate their last operand. R75 to R83, what those results
are: sums, products and fused sums are the exact rational rounded once, an exact zero has the sign of R311, a NaN operand gives the canonical
NaN and NV when it signals, the invalid operations give it with NV, and the functions take the special values of R83. -/
def Obligations.VectorArithmetic : Prop :=
  (∀ (f : Fmt) (rm : Rm) (a b c sig : Bool) (n m k : Nat) (d e h : Int) (v : Val), f ∈ [fmtF32, fmtBf16, fmtF16] →
    let x := ratOf a n d
    let y := ratOf b m e
    let z := ratOf c k h
    let neg := fun (s : Bool) (r : Nat) => (if s then f.sign else 0) + r
    let inf := f.top + 1
    let zeroSign := fun (p q : Bool) => (neg (if p = q then p else decide (rm = .rdn)) 0, (0 : Flags))
    (x + y ≠ 0 → RoundedOnce f rm (decide (x + y < 0)) |x + y| (f.addV rm (.fin a n d) (.fin b m e)))
    ∧ (x + y = 0 → f.addV rm (.fin a n d) (.fin b m e) = zeroSign a b)
    ∧ (x * y ≠ 0 → RoundedOnce f rm (a != b) |x * y| (f.mulV rm (.fin a n d) (.fin b m e)))
    ∧ (x * y = 0 → f.mulV rm (.fin a n d) (.fin b m e) = (neg (a != b) 0, 0))
    ∧ (x * y + z ≠ 0 → RoundedOnce f rm (decide (x * y + z < 0)) |x * y + z| (f.fmaV rm (.fin a n d) (.fin b m e) (.fin c k h)))
    ∧ (x * y + z = 0 → f.fmaV rm (.fin a n d) (.fin b m e) (.fin c k h) = zeroSign (a != b) c)
    ∧ f.addV rm (.nan sig) v = (f.nan, flagIf (sig || v.snan) fNV) ∧ f.addV rm v (.nan sig) = (f.nan, flagIf (sig || v.snan) fNV)
    ∧ f.mulV rm (.nan sig) v = (f.nan, flagIf (sig || v.snan) fNV) ∧ f.mulV rm v (.nan sig) = (f.nan, flagIf (sig || v.snan) fNV)
    ∧ f.addV rm (.inf a) (.inf !a) = (f.nan, fNV) ∧ f.addV rm (.inf a) (.inf a) = (neg a inf, 0)
    ∧ f.addV rm (.inf a) (.fin b m e) = (neg a inf, 0) ∧ f.addV rm (.fin b m e) (.inf a) = (neg a inf, 0)
    ∧ f.mulV rm (.inf a) (.fin b 0 e) = (f.nan, fNV) ∧ f.mulV rm (.fin b 0 e) (.inf a) = (f.nan, fNV)
    ∧ (m ≠ 0 → f.mulV rm (.inf a) (.fin b m e) = (neg (a != b) inf, 0)) ∧ f.mulV rm (.inf a) (.inf b) = (neg (a != b) inf, 0)
    ∧ f.fmaV rm (.inf a) (.fin b 0 e) v = (f.nan, fNV) ∧ f.fmaV rm (.inf a) (.inf b) (.inf !(a != b)) = (f.nan, fNV)
    ∧ (∀ g ∈ [f.rcp rm, f.rsq rm, f.exp2 rm, f.log2 rm], g (.nan sig) = (f.nan, flagIf sig fNV))
    ∧ f.rcp rm (.fin a 0 d) = (neg a inf, fDZ) ∧ f.rcp rm (.inf a) = (neg a 0, 0)
    ∧ f.rsq rm (.fin a 0 d) = (neg a inf, fDZ) ∧ f.rsq rm (.inf false) = (0, 0) ∧ f.rsq rm (.inf true) = (f.nan, fNV)
    ∧ f.exp2 rm (.inf false) = (inf, 0) ∧ f.exp2 rm (.inf true) = (0, 0) ∧ f.exp2 rm (.fin a 0 d) = (f.bias * 2 ^ f.mb, 0)
    ∧ f.log2 rm (.fin a 0 d) = (f.sign + inf, fDZ) ∧ f.log2 rm (.inf false) = (inf, 0) ∧ f.log2 rm (.inf true) = (f.nan, fNV)
    ∧ (n ≠ 0 → f.rsq rm (.fin true n d) = (f.nan, fNV) ∧ f.log2 rm (.fin true n d) = (f.nan, fNV)))
  ∧ ∀ (s : State) (g : Guard) (ty : Ty) (rm : Rm) (d a b c : VIdx), vecRuns s g ty.lanes [d, a, b, c] [] = true →
    let f := fmtOf ty
    let v := fun (l : List Nat) (i : Nat) => f.decode (l.getD i 0)
    Lanewise (.vadd g ty rm d a b) s g ty.lanes d [a, b] (fun _ l => f.addV rm (v l 0) (v l 1))
    ∧ Lanewise (.vsub g ty rm d a b) s g ty.lanes d [a, b] (fun _ l => f.addV rm (v l 0) (v l 1).flip)
    ∧ Lanewise (.vmul g ty rm d a b) s g ty.lanes d [a, b] (fun _ l => f.mulV rm (v l 0) (v l 1))
    ∧ Lanewise (.vfma g ty rm d a b c) s g ty.lanes d [a, b, c] (fun _ l => f.fmaV rm (v l 0) (v l 1) (v l 2))
    ∧ Lanewise (.vfms g ty rm d a b c) s g ty.lanes d [a, b, c] (fun _ l => f.fmaV rm (v l 0) (v l 1) (v l 2).flip)
    ∧ Lanewise (.vrcp g ty rm d a) s g ty.lanes d [a] (fun _ l => f.rcp rm (v l 0))
    ∧ Lanewise (.vrsq g ty rm d a) s g ty.lanes d [a] (fun _ l => f.rsq rm (v l 0))
    ∧ Lanewise (.vexp2 g ty rm d a) s g ty.lanes d [a] (fun _ l => f.exp2 rm (v l 0))
    ∧ Lanewise (.vlog2 g ty rm d a) s g ty.lanes d [a] (fun _ l => f.log2 rm (v l 0))

/-- R312 and R313, integer and bit lanes, by the numbers the lanes hold: VMIN, VMAX, VABS and VNEG of integers, VIADD, VIMUL, VAND, VOR, VXOR,
the shifts by a lane or an immediate, taken modulo the width, and VIDX. R312, VMIN, VMAX, VABS and VNEG of floating-point lanes: VABS clears
the sign bit, VNEG inverts it, whatever the value. R82, the smaller and the larger of two encodings: by value with −0 below +0; the other
operand where one is a NaN, the canonical NaN where both are, and NV when one signals. -/
def Obligations.VectorIntegers : Prop :=
  (∀ (s : State) (g : Guard) (ty : Ty) (d a b : VIdx) (xa : XReg) (step : BitVec 32) (n : Fin 32), ty.isInt = true →
    vecRuns s g ty.lanes [d, a, b] [xa] = true →
    let w := ty.bits
    let x := fun (l : List Nat) => l.getD 0 0
    let y := fun (l : List Nat) => l.getD 1 0
    let val := fun (k : Nat) => if ty.isSigned then (BitVec.ofNat w k).toInt else (k : Int)
    let sg := fun (k : Nat) => (BitVec.ofNat w k).toInt
    let lw := fun (i : Instr) (srcs : List VIdx) (f : Nat → List Nat → Int) =>
      Lanewise i s g ty.lanes d srcs fun k l => ((f k l % (2 ^ w : Nat)).toNat, 0)
    lw (.vmin g ty d a b) [a, b] (fun _ l => min (val (x l)) (val (y l)))
    ∧ lw (.vmax g ty d a b) [a, b] (fun _ l => max (val (x l)) (val (y l)))
    ∧ (ty.isSigned = true → lw (.vabs g ty d a) [a] (fun _ l => |sg (x l)|) ∧ lw (.vneg g ty d a) [a] (fun _ l => -sg (x l)))
    ∧ lw (.viadd g ty d a b) [a, b] (fun _ l => sg (x l) + sg (y l))
    ∧ lw (.vimul g ty d a b) [a, b] (fun _ l => sg (x l) * sg (y l))
    ∧ lw (.vand g ty d a b) [a, b] (fun _ l => (x l &&& y l : Nat))
    ∧ lw (.vor g ty d a b) [a, b] (fun _ l => (x l ||| y l : Nat))
    ∧ lw (.vxor g ty d a b) [a, b] (fun _ l => (x l ^^^ y l : Nat))
    ∧ lw (.vshl g ty d a (.reg b)) [a, b] (fun _ l => (x l * 2 ^ (y l % w) : Nat))
    ∧ lw (.vshl g ty d a (.imm n)) [a] (fun _ l => (x l * 2 ^ (n.val % w) : Nat))
    ∧ lw (.vshr g ty d a (.reg b)) [a, b] (fun _ l => (x l / 2 ^ (y l % w) : Nat))
    ∧ lw (.vshr g ty d a (.imm n)) [a] (fun _ l => (x l / 2 ^ (n.val % w) : Nat))
    ∧ lw (.vsar g ty d a (.reg b)) [a, b] (fun _ l => sg (x l) / (2 ^ (y l % w) : Nat))
    ∧ lw (.vsar g ty d a (.imm n)) [a] (fun _ l => sg (x l) / (2 ^ (n.val % w) : Nat))
    ∧ lw (.vidx g ty d xa step) [] (fun k _ => (s.me.xr xa).toNat + k * step.toInt))
  ∧ (∀ (s : State) (g : Guard) (ty : Ty) (d a b : VIdx), ty.isFloat = true → vecRuns s g ty.lanes [d, a, b] [] = true →
    let h := 2 ^ (ty.bits - 1)
    Lanewise (.vabs g ty d a) s g ty.lanes d [a] (fun _ l => (l.getD 0 0 % h, 0))
    ∧ Lanewise (.vneg g ty d a) s g ty.lanes d [a] (fun _ l => (l.getD 0 0 ^^^ h, 0))
    ∧ Lanewise (.vmin g ty d a b) s g ty.lanes d [a, b] (fun _ l => (fmtOf ty).minmax false (l.getD 0 0) (l.getD 1 0))
    ∧ Lanewise (.vmax g ty d a b) s g ty.lanes d [a, b] (fun _ l => (fmtOf ty).minmax true (l.getD 0 0) (l.getD 1 0)))
  ∧ (∀ (f : Fmt) (a b : Nat) (mx : Bool), f ∈ [fmtF32, fmtBf16, fmtF16] →
    let x := f.decode a
    let y := f.decode b
    let r := f.minmax mx a b
    r.2 = flagIf (x.snan || y.snan) fNV
    ∧ (x.isNan = true → r.1 = if y.isNan then f.nan else b) ∧ (y.isNan = true → x.isNan = false → r.1 = a)
    ∧ (∀ p q n m d e, x = .fin p n d → y = .fin q m e →
      (ratOf p n d < ratOf q m e ∨ (ratOf p n d = ratOf q m e ∧ p = true ∧ q = false) → r.1 = if mx then b else a)
      ∧ (ratOf q m e < ratOf p n d ∨ (ratOf p n d = ratOf q m e ∧ p = false ∧ q = true) → r.1 = if mx then a else b)))

/-- R316 and R317, moves between lanes and registers: VMOV, VSEL, VBCST, VINS of one lane, VEXTR of one lane, VPERM and VSHUF from the lanes of
two registers set side by side. -/
def Obligations.VectorMoves : Prop :=
  ∀ (s : State) (g : Guard) (ty : Ty) (d a b c : VIdx) (xd xa : XReg) (pn : PReg) (neg : Bool) (k : Fin 64) (m : Shuf),
    ty.isLane = true → vecRuns s g ty.lanes [d, a, b, c] [xd, xa] = true →
    let L := ty.lanes
    let w := ty.bits
    let at' := fun (r : VIdx) (i : Nat) => VReg.lane (s.vr r.val) w i
    let both := fun (p q : VIdx) (i : Nat) => if i < L then at' p i else at' q (i - L)
    let src := fun (i : Nat) => match m with
      | .zipl => if i % 2 = 0 then i / 2 else L + i / 2
      | .ziph => if i % 2 = 0 then L / 2 + i / 2 else L + L / 2 + i / 2
      | .even => 2 * i
      | .odd => 2 * i + 1
      | .rot r => i + r.val
    Lanewise (.vmov g ty d a) s g L d [a] (fun _ l => (l.getD 0 0, 0))
    ∧ Lanewise (.vsel g ty d pn neg a b) s g L d [a, b]
        (fun i l => (if (s.me.pr pn).getLsbD i ≠ neg then l.getD 0 0 else l.getD 1 0, 0))
    ∧ Lanewise (.vbcst g ty d xa) s g L d [] (fun _ _ => ((s.me.xr xa).toNat, 0))
    ∧ Lanewise (.vperm g ty d a b c) s g L d [b] (fun _ l => (both a c (l.getD 0 0 % (2 * L)), 0))
    ∧ ((∀ i, i < L → src i < 2 * L) → Lanewise (.vshuf g ty d a b m) s g L d [] (fun i _ => (both a b (src i), 0)))
    ∧ (s.me.laneOn g k.val = true → k.val < L →
      (VecCompletes (.vins g ty d xa k) s [] [] (some d.val) fun _ grp' => ∀ i, i < L → VReg.lane (grp'.v.getD d.val 0) w i =
        if i = k.val then (s.me.xr xa).toNat % 2 ^ w else at' d i)
      ∧ (VecCompletes (.vextr g ty xd a k) s [xd] [] none fun t _ => t.me.xr xd =
        if ty.isSigned then BitVec.ofInt 64 (BitVec.ofNat w (at' a k.val)).toInt else BitVec.ofNat 64 (at' a k.val)))

/-- R314 and R315, lane conditions: VCMP and VCLASS write the bits of the enabled lanes of p[PD] and the inverse to p[PE], keep the bits of the
disabled lanes, and with PD = PE the PE value stands. R82, the conditions: of floating-point elements by value, false with a NaN but for .un,
NV for a NaN that signals; of integers by the numbers they hold. -/
def Obligations.VectorCompare : Prop :=
  (∀ (ty : Ty) (x y : Nat), ty.isFloat = true →
    let f := fmtOf ty
    let fl := flagIf ((f.decode x).snan || (f.decode y).snan) fNV
    ((f.decode x).isNan = true ∨ (f.decode y).isNan = true →
      cmpElem .eq ty x y = (false, fl) ∧ cmpElem .lt ty x y = (false, fl) ∧ cmpElem .le ty x y = (false, fl) ∧ cmpElem .un ty x y = (true, fl))
    ∧ ∀ p q n m d e, f.decode x = .fin p n d → f.decode y = .fin q m e →
      cmpElem .eq ty x y = (decide (ratOf p n d = ratOf q m e), 0) ∧ cmpElem .lt ty x y = (decide (ratOf p n d < ratOf q m e), 0)
      ∧ cmpElem .le ty x y = (decide (ratOf p n d ≤ ratOf q m e), 0) ∧ cmpElem .un ty x y = (false, 0))
  ∧ (∀ (ty : Ty) (x y : Nat), ty.isInt = true →
    let val := fun (k : Nat) => if ty.isSigned then (BitVec.ofNat ty.bits k).toInt else (k % 2 ^ ty.bits : Nat)
    cmpElem .eq ty x y = (decide (val x = val y), 0) ∧ cmpElem .lt ty x y = (decide (val x < val y), 0)
    ∧ cmpElem .le ty x y = (decide (val x ≤ val y), 0) ∧ cmpElem .un ty x y = (false, 0))
  ∧ ∀ (s : State) (g : Guard) (ty : Ty) (c : VCond) (mask : BitVec 10) (d a b : VIdx) (pd pe : PReg),
    vecRuns s g ty.lanes [d, a, b] [] = true →
    let w := laneWidth ty.lanes
    let bits := fun (t : State) (f : Nat → Bool) => ∀ i, i < 64 →
      let on := decide (i < ty.lanes) && s.me.laneOn g i
      (pe ≠ 0 → (t.me.pr pe).getLsbD i = if on then !f i else (s.me.pr pe).getLsbD i)
      ∧ (pd ≠ 0 → pd ≠ pe → (t.me.pr pd).getLsbD i = if on then f i else (s.me.pr pd).getLsbD i)
    let cmp := fun (i : Nat) => cmpElem c ty (VReg.lane (s.vr a.val) w i) (VReg.lane (s.vr b.val) w i)
    (VecCompletes (.vcmp g c ty pd pe a b) s [] [pd, pe] none fun t grp' => bits t (fun i => (cmp i).1)
      ∧ ∀ grp, s.myGroup? = some grp → grp'.vflags = grp.vflags
        ||| ((((List.range ty.lanes).filter fun i => s.me.laneOn g i).map fun i => (cmp i).2).foldl (· ||| ·) 0).zeroExtend 64)
    ∧ VecCompletes (.vclass g ty d pd pe a mask) s [] [pd, pe] (some d.val) fun t grp' =>
      let cls := fun (i : Nat) => classBit (fmtOf ty) (VReg.lane (s.vr a.val) w i)
      bits t (fun i => mask.getLsbD (cls i)) ∧ ∀ i, i < ty.lanes → VReg.lane (grp'.v.getD d.val 0) w i =
        if s.me.laneOn g i then 2 ^ cls i % 2 ^ w else VReg.lane (s.vr d.val) w i

/-- R318, R319, R91 and R92: VCVT converts the part of the wider side that its field names and leaves the rest of the destination, and its
flags join sr.vflags; VRED of integers puts the sum, the smallest or the largest of the enabled lanes into every lane of the destination, and
VRED of floating-point lanes the root of the pairwise tree over them, a sum where every lane is enabled. R84 to R88, the conversions: floating
point to floating point and integers to floating point are the exact value rounded once, floating point to an integer is rounded and clipped,
integers keep the low bits, and the narrow formats give the values of the spec's table. -/
def Obligations.VectorConvertAndReduce : Prop :=
  (∀ (dt st : Ty) (ns : Bool) (rm : Rm) (b : Nat),
    let f := fmtOf dt
    let r := cvtElem dt st ns rm b
    let w := dt.bits
    let val := if st.isSigned then (BitVec.ofNat st.bits b).toInt else (b % 2 ^ st.bits : Nat)
    let lo : Int := if dt.isSigned then -(2 ^ (w - 1)) else 0
    let hi : Int := if dt.isSigned then 2 ^ (w - 1) - 1 else 2 ^ w - 1
    (dt.isFloat = true → st.isFloat = true ∨ st.isNarrow = true →
      (∀ g n e, (fmtOf st).decode b = .fin g n e → (n ≠ 0 → RoundedOnce f rm g (ratOf false n e) r) ∧ (n = 0 → r = (if g then f.sign else 0, 0)))
      ∧ (∀ g, (fmtOf st).decode b = .inf g → r = ((if g then f.sign else 0) + (f.top + 1), 0))
      ∧ (∀ sig, (fmtOf st).decode b = .nan sig → r = (f.nan, flagIf sig fNV)))
    ∧ (dt.isFloat = true → st.isInt = true → (val ≠ 0 → RoundedOnce f rm (decide (val < 0)) (|val| : Int) r) ∧ (val = 0 → r = (0, 0)))
    ∧ (dt.isInt = true → st.isFloat = true ∨ st.isNarrow = true →
      (∀ sig, (fmtOf st).decode b = .nan sig → r = (0, fNV))
      ∧ (∀ g, (fmtOf st).decode b = .inf g → r = (((if g then lo else hi) % (2 ^ w : Nat)).toNat, fNV))
      ∧ (∀ g n e, (fmtOf st).decode b = .fin g n e → ∃ z, roundsTo rm (ratOf g n e) z ∧
        r = if hi < z then ((hi % (2 ^ w : Nat)).toNat, fNV) else if z < lo then ((lo % (2 ^ w : Nat)).toNat, fNV)
          else ((z % (2 ^ w : Nat)).toNat, flagIf (decide (ratOf g n e ≠ z)) fNX)))
    ∧ (dt.isInt = true → st.isInt = true → r = ((val % (2 ^ w : Nat)).toNat, 0)))
  ∧ (let conv := fun (x : Nat) => [cvtElem .f8e4 .f32 false .rne x, cvtElem .f8e4 .f32 true .rne x, cvtElem .f8e5 .f32 false .rne x, cvtElem .f4 .f32 false .rne x]
    conv 0x3DCCCCCD = [(0x1D, fNX), (0x1D, fNX), (0x2E, fNX), (0x0, fUF ||| fNX)]
    ∧ conv 0x3E800000 = [(0x28, 0), (0x28, 0), (0x34, 0), (0x0, fUF ||| fNX)]
    ∧ conv 0x3F400000 = [(0x34, 0), (0x34, 0), (0x3A, 0), (0x2, fUF ||| fNX)]
    ∧ conv 0x40200000 = [(0x42, 0), (0x42, 0), (0x41, 0), (0x4, fNX)]
    ∧ conv 0x40A00000 = [(0x4A, 0), (0x4A, 0), (0x45, 0), (0x6, fNX)]
    ∧ conv 0xC0E00000 = [(0xCE, 0), (0xCE, 0), (0xC7, 0), (0xF, fOF ||| fNX)]
    ∧ conv 0x43E60000 = [(0x7E, fNX), (0x7E, fNX), (0x5F, fNX), (0x7, fOF ||| fNX)]
    ∧ conv 0x43EB0000 = [(0x7E, fOF ||| fNX), (0x7F, fOF ||| fNX), (0x5F, fNX), (0x7, fOF ||| fNX)]
    ∧ conv 0x447A0000 = [(0x7E, fOF ||| fNX), (0x7F, fOF ||| fNX), (0x64, fNX), (0x7, fOF ||| fNX)]
    ∧ conv 0x7F800000 = [(0x7E, fOF ||| fNX), (0x7F, fOF), (0x7B, fOF ||| fNX), (0x7, fOF ||| fNX)]
    ∧ conv 0x7FC00000 = [(0x7F, 0), (0x7F, 0), (0x7E, 0), (0x0, fNV)])
  ∧ ∀ (s : State) (g : Guard) (dt st ty : Ty) (ns : Bool) (rm : Rm) (d a : VIdx) (part : Fin 8),
    let flags := fun (grp' : Group) (n : Nat) (f : Nat → Nat × Flags) => ∀ grp, s.myGroup? = some grp → grp'.vflags = grp.vflags
      ||| ((((List.range n).filter fun i => s.me.laneOn g i).map fun i => (f i).2).foldl (· ||| ·) 0).zeroExtend 64
    (dt.bits ≤ st.bits → vcvtOk dt st ns rm part.val = true → vecRuns s g (1024 / st.bits) [d, a] [] = true →
      VecCompletes (.vcvt g dt st ns rm d a part) s [] [] (some d.val) fun _ grp' =>
        (∀ j, j < 1024 / dt.bits → VReg.lane (grp'.v.getD d.val 0) dt.bits j =
          let i := j - part.val * (1024 / st.bits)
          if part.val * (1024 / st.bits) ≤ j ∧ i < 1024 / st.bits ∧ s.me.laneOn g i = true then
            (cvtElem dt st ns rm (VReg.lane (s.vr a.val) st.bits i)).1 % 2 ^ dt.bits
          else VReg.lane (s.vr d.val) dt.bits j)
        ∧ flags grp' (1024 / st.bits) fun i => cvtElem dt st ns rm (VReg.lane (s.vr a.val) st.bits i))
    ∧ (st.bits < dt.bits → vcvtOk dt st ns rm part.val = true → vecRuns s g (1024 / dt.bits) [d, a] [] = true →
      VecCompletes (.vcvt g dt st ns rm d a part) s [] [] (some d.val) fun _ grp' =>
        (∀ j, j < 1024 / dt.bits → VReg.lane (grp'.v.getD d.val 0) dt.bits j =
          if s.me.laneOn g j then (cvtElem dt st ns rm (VReg.lane (s.vr a.val) st.bits (part.val * (1024 / dt.bits) + j))).1 % 2 ^ dt.bits
          else VReg.lane (s.vr d.val) dt.bits j)
        ∧ flags grp' (1024 / dt.bits) fun j => cvtElem dt st ns rm (VReg.lane (s.vr a.val) st.bits (part.val * (1024 / dt.bits) + j)))
    ∧ (ty.isInt = true → vecRuns s g ty.lanes [d, a] [] = true →
      let w := ty.bits
      let x := fun (i : Nat) => VReg.lane (s.vr a.val) w i
      let val := fun (i : Nat) => if ty.isSigned then (BitVec.ofNat w (x i)).toInt else (x i : Int)
      let on := (List.range ty.lanes).filter fun i => s.me.laneOn g i
      let every := fun (op : VRedOp) (ok : Nat → Prop) => VecCompletes (.vred g op ty rm d a) s [] [] (some d.val) fun _ grp' =>
        ∃ r, ok r ∧ r < 2 ^ w ∧ ∀ i, i < ty.lanes → VReg.lane (grp'.v.getD d.val 0) w i = r
      every .add (fun r => r = (on.map x).sum % 2 ^ w)
      ∧ every .min (fun r => ∃ i ∈ on, x i = r ∧ ∀ j ∈ on, val i ≤ val j)
      ∧ every .max (fun r => ∃ i ∈ on, x i = r ∧ ∀ j ∈ on, val j ≤ val i))
    ∧ (ty.isFloat = true → vecRuns s g ty.lanes [d, a] [] = true →
      let f := fmtOf ty
      let levels := if ty.lanes = 32 then 5 else 6
      let root := fun (op : VRedOp) (leaf : Nat → Nat) (node : Nat → Nat → Nat × Flags) =>
        VecCompletes (.vred g op ty rm d a) s [] [] (some d.val) fun _ grp' => ∃ t : Nat → Nat → Nat, (∀ i, t 0 i = leaf i)
          ∧ (∀ k j, t (k + 1) j = (node (t k (2 * j)) (t k (2 * j + 1))).1)
          ∧ (∀ i, i < ty.lanes → VReg.lane (grp'.v.getD d.val 0) ty.bits i = t levels 0)
          ∧ ∀ grp b, s.myGroup? = some grp → (grp'.vflags.getLsbD b = true ↔ grp.vflags.getLsbD b = true
              ∨ ∃ k j, k < levels ∧ j < ty.lanes / 2 ^ (k + 1) ∧ (node (t k (2 * j)) (t k (2 * j + 1))).2.getLsbD b = true)
      let x := fun (i : Nat) => VReg.lane (s.vr a.val) ty.bits i
      ((∀ i, i < ty.lanes → s.me.laneOn g i = true) → root .add x fun p q => f.addV rm (f.decode p) (f.decode q))
      ∧ root .min (fun i => if s.me.laneOn g i then x i else f.top + 1) (f.minmax false)
      ∧ root .max (fun i => if s.me.laneOn g i then x i else f.sign + (f.top + 1)) (f.minmax true))

/-- R320 and R321, vector memory on the executing core's own scratchpad: VLD and VLDG fill the enabled lanes from memory, VST and VSTS store the
enabled lanes and no other byte, VSTS in rising lane order, each lane a store of the 32 that the thread may hold: that VSTS goes lane by lane
and may issue in part before it waits is the model's reading (log 19). R211, R212, R306 and R218: an index beyond the window raises WIN with the
index in sr.taddr before anything else; with no enabled lane a vector instruction only commits; a held register is waited for. -/
def Obligations.VectorMemory : Prop :=
  (∀ (s : State) (g : Guard) (ty : Ty) (d b : VIdx) (xa : XReg) (off : BitVec 32) (sh : Fin 4), MemoryCanonical s → ty.isLane = true →
    vecRuns s g ty.lanes [d, b] [xa] = true → s.unacked s.cur < 32 →
    let n := ty.bits / 8
    let ea := s.me.xr xa + off.signExtend 64
    let pa := localPa s.cur.core ea.toNat
    let lane := fun (i : Nat) => VReg.lane (s.vr d.val) ty.bits i
    let addr := fun (i : Nat) => s.me.xr xa + BitVec.ofNat 64 (VReg.lane (s.vr b.val) ty.bits i * 2 ^ sh.val)
    let on := (List.range ty.lanes).filter fun i => s.me.laneOn g i
    let stSame := fun (s t : State) => t = { s with slots := t.slots, issueq := t.issueq, cores := t.cores, mem := t.mem, ecc := t.ecc,
                                                    stores := t.stores, nextStore := t.nextStore, spads := t.spads }
    let put := fun (l : List Nat) =>
      l.foldl (fun m i => Memory.puts m (localPa s.cur.core (addr i).toNat) (bytesOf n (lane i))) s.mem
    (ownSpad s ea 128 128 = true → s.eccHit pa 128 = false →
      VecCompletes (.vld g ty d xa off) s [] [] (some d.val) fun _ grp' => ∀ i, i < ty.lanes →
        VReg.lane (grp'.v.getD d.val 0) ty.bits i = if s.me.laneOn g i then s.readN (pa + i * n) n else lane i)
    ∧ (ownSpad s ea 128 128 = true → CompletesIn (.vst g ty d xa off) s [] [] stSame fun t => ∀ c, t.byte c =
        if pa ≤ c ∧ c < pa + 128 ∧ s.me.laneOn g ((c - pa) / n) = true then (bytesOf n (lane ((c - pa) / n))).getD ((c - pa) % n) 0
        else s.byte c)
    ∧ ((∀ i ∈ on, ownSpad s (addr i) n n = true ∧ s.eccHit (localPa s.cur.core (addr i).toNat) n = false) →
      VecCompletes (.vldg g ty d b xa sh) s [] [] (some d.val) fun _ grp' => ∀ i, i < ty.lanes →
        VReg.lane (grp'.v.getD d.val 0) ty.bits i = if s.me.laneOn g i then s.readN (localPa s.cur.core (addr i).toNat) n else lane i)
    ∧ ((∀ i ∈ on, ownSpad s (addr i) n n = true) →
      (s.unacked s.cur + on.length ≤ 32 → CompletesIn (.vsts g ty d b xa sh) s [] [] stSame fun t => t.mem = put on)
      ∧ (32 < s.unacked s.cur + on.length → (∀ x ∈ s.stores, x.inst < s.nextStore) → ∃ t, exec (.vsts g ty d b xa sh) s = .next t
        ∧ (t.slot s.cur).st = .stall ∧ t.me.pc = s.me.pc ∧ t.mem = put (on.take (32 - s.unacked s.cur)) ∧ othersSame s t)))
  ∧ (∀ (s : State) (g : Guard) (ty : Ty) (rm : Rm) (d a b : VIdx),
    (s.window ≤ d.val → exec (.vadd g ty rm d a b) s = .next (s.trap .win (BitVec.ofNat 64 d.val))
      ∧ exec (.vmov g ty d a) s = .next (s.trap .win (BitVec.ofNat 64 d.val)))
    ∧ (d.val < s.window → a.val < s.window → b.val < s.window → (s.slot s.cur).st = .ready → s.me.anyLane g ty.lanes = false →
        Completes (.vadd g ty rm d a b) s [] [] fun _ => True)
    ∧ (d.val < s.window → a.val < s.window → b.val < s.window → s.me.anyLane g ty.lanes = true → s.heldIdx [d.val, a.val, b.val] = some d.val →
        waitsUntrapped s.me → ∃ t, exec (.vadd g ty rm d a b) s = .next t ∧ (t.slot s.cur).st = .wait ∧ t.me.wait = .block (.vhold d.val) ∧ t.me.pc = s.me.pc
          ∧ t.groups = s.groups))

/-! ### Tiles (R323 to R346) -/

/-- R338 to R340 and R344 to R346, a group's tiles: TOPEN takes free blocks for a closed tile, zeroed; TCLOSE gives them back; TZERO clears the
columns it names and with the whole width the flags; MIDX sets the descriptor from 128 indices; TREAD and TWRITE move 32 entries of a column
or a row; TQRY reports; MRES queues the thread's stopped pass again from where it stopped, and goes on or waits for it, and on a tile on
which no pass stopped only commits. -/
def Obligations.TileInstructions : Prop :=
  ∀ (s : State) (g : Guard) (n : Nat) (t : TileNo) (w cb nbm : Fin 16) (xa xb : XReg) (vi : VIdx) (row wt : Bool),
    runs s g [xa, xb] = true →
    let x := s.tile n t.val
    let core := s.cur.core
    let sets := fun (i : Instr) (f : Tile → Prop) => CompletesIn i s [] [] tilesOnly fun u => f (u.tile n t.val)
      ∧ (∀ k : Nat, k ≠ t.val → u.tile n k = s.tile n k) ∧ ∀ m, m ≠ n → u.groups.get? m = s.groups.get? m
    (∀ p, s.me.priv = false → s.me.group = some n → (s.groups.get? n).isSome = true → x.part = true → x.pass = some p → p.tid = s.cur →
      p.gen = (s.slot s.cur).gen → isNarrowCore core = false → mmaFormats p.fmt = true → p.cb + p.nbm + 1 ≤ x.width →
      s.tileCmds n t.val = [] → s.portRoom s.cur false (if isFp8 (mfA p.fmt) then 4 else 2) = true →
      operandsOk s p.desc p.xb p.xc (32 * (p.nbm + 1)) 64 p.aLen p.bLen (if isFp8 (mfA p.fmt) then some (p.ascl, p.bscl) else none) = true →
      ∃ (u : State) (c : Cmd), exec (.mres g wt t) s = .next u ∧ u.cur = s.cur ∧ tilesOnly s u ∧ othersSame s u ∧ regsSame s.me u.me [] []
        ∧ (let ahead := fun (d : Cmd) => !d.onTile n t.val
           u.myCore.cmds = s.myCore.cmds.takeWhile ahead ++ c :: s.myCore.cmds.dropWhile ahead)
        ∧ c.own = n ∧ c.dn = p.dn ∧ c.tid = s.cur
        ∧ c.op = .mma t.val { p with segs := [s.localSeg core p.xb.toNat ((32 * (p.nbm + 1) - 1) * p.xc.toNat + p.bLen)] } x.prog
        ∧ u.tile n t.val = { x with part := false, dlv := false, pass := none, stop := none }
        ∧ (if wt then (u.slot s.cur).st = .stall ∧ u.me.wait = .op (.cmd c.tag) ∧ u.me.pc = s.me.pc else advanced s u))
    ∧ (s.me.priv = false → s.me.group = some n → (s.groups.get? n).isSome = true → x.st = .closed → w.val + 1 ≤ (s.freeBlocks core).length →
      s.blocksOf s.me.ctx core + (w.val + 1) ≤ (s.ctx s.me.ctx).quota.blocks →
      sets (.topen g t w) fun y => y.st = .opened ∧ y.blocks.length = w.val + 1 ∧ y.ent = [] ∧ y.desc = none ∧ y.part = false
        ∧ ∀ b ∈ y.blocks, b ∈ (s.group n).poolFree ∨ b ∈ s.freeBlocks core)
    ∧ (tileOpen s n t = true →
      Completes (.mres g wt t) s [] [] (fun _ => True)
      ∧ CompletesIn (.tqry g xa t) s [xa] [] moduleSame (fun u => ∀ q, q = (u.me.xr xa).toNat → x.width < 256 →
          q % 2 ^ 59 / 2 ^ 58 = b2n x.desc.isSome ∧ q / 2 ^ 48 % 2 ^ 8 = x.width
            ∧ q % 256 = Nat.min 255 (s.tileCmds n t.val).length ∧ (s.tileLocked n t.val = false → q / 2 ^ 61 = 1))
      ∧ (s.tileLocked n t.val = false →
        sets (.tclose g t) (fun y => y = x.emptied)
        ∧ (cb.val + nbm.val + 1 ≤ x.width → sets (.tzero g t cb nbm) fun y => y.st = .opened ∧ y.blocks = x.blocks ∧ y.desc = x.desc
            ∧ [y.nv, y.of_, y.sat, y.err] = (if nbm.val + 1 = x.blocks.length then [false, false, false, false] else [x.nv, x.of_, x.sat, x.err])
            ∧ ∀ i c, i < 128 → c < x.cols → y.entry i c = if 32 * cb.val ≤ c ∧ c < 32 * (cb.val + nbm.val + 1) then 0 else x.entry i c)
        ∧ ∀ l, windowReady s [vi] = true → laneEntries x (s.me.xr xa).toNat (s.me.xr xb).toNat row = some l →
          (s.accHit core x l = false → VecCompletes (.tread g t vi xa xb row) s [] [] (some vi.val) fun _ grp' =>
            ∀ k, k < 32 → VReg.lane (grp'.v.getD vi.val 0) 32 k = (if row then x.entry (s.me.xr xb).toNat ((s.me.xr xa).toNat + k)
              else x.entry ((s.me.xr xb).toNat + k) (s.me.xr xa).toNat).toNat)
          ∧ (sets (.twrite g t vi xa xb row) fun y => y.st = .opened ∧ y.blocks = x.blocks ∧ ∀ i c, i < 128 → c < x.cols →
              y.entry i c = if row then (if i = (s.me.xr xb).toNat ∧ (s.me.xr xa).toNat ≤ c ∧ c < (s.me.xr xa).toNat + 32 then
                  BitVec.ofNat 32 (VReg.lane (s.vr vi.val) 32 (c - (s.me.xr xa).toNat)) else x.entry i c)
                else if c = (s.me.xr xa).toNat ∧ (s.me.xr xb).toNat ≤ i ∧ i < (s.me.xr xb).toNat + 32 then
                  BitVec.ofNat 32 (VReg.lane (s.vr vi.val) 32 (i - (s.me.xr xb).toNat)) else x.entry i c))
      ∧ (∀ vj : VIdx, vj.val = vi.val + 1 → windowReady s [vi, vj] = true → (s.me.xr xa).toNat % 64 = 0 → (s.me.xr xb).toNat % 64 = 0 →
        (s.me.xr xa).toNat < spadSize → sets (.midx g t vi xa xb) fun y => y.ent = x.ent ∧ ∃ d, y.desc = some d ∧ d.base = s.me.xr xa
          ∧ d.stride = s.me.xr xb ∧ d.idx.length = 128 ∧ ∀ k, k < 128 → d.idx.getD k 0 =
            BitVec.ofNat 16 (if k < 64 then VReg.lane (s.vr vi.val) 16 k else VReg.lane (s.vr vj.val) 16 (k - 64))))

/-- R329, R341, R343 and R345, the engine commands of a tile: TLOAD, TSTORE, MMA, TSAVE and TREST queue one command at the tile port with what
they sample at issue; TSAVE leaves the tile SAVED, and TREST opens it with the width that the image's header names, in blocks of its own, which the
tile takes over when a TSAVE before it is done: blocks of its own behind a TSAVE in flight are the model's choice (log 94). -/
def Obligations.TileCommands : Prop :=
  ∀ (s : State) (g : Guard) (n : Nat) (t : TileNo) (d : Done) (xa xb : XReg) (f : TFmt) (cb nbm : Fin 16) (rmaj : Bool) (k : KCode) (nb4 : Fin 4),
    runs s g [xa, xb] = true →
    let x := s.tile n t.val
    let a := (s.me.xr xa).toNat
    let b := (s.me.xr xb).toNat
    let seg := fun va len => [s.localSeg s.cur.core va len]
    let nc := 32 * (nbm.val + 1)
    let span := if rmaj then 127 * b + nc * TFmt.size f else (nc - 1) * b + 128 * TFmt.size f
    (tileOpen s n t = true → s.portRoom s.cur false 1 = true →
      (cb.val + nbm.val + 1 ≤ x.width → a % 64 = 0 → b % 64 = 0 → ownRange s a span = true →
        (s.tileLocked n t.val = false → Queues (.tload g f d t xa xb cb nbm rmaj) s false d coresOnly fun _ c =>
          c.own = n ∧ c.op = .tload f t.val a b cb.val nbm.val rmaj (seg a span) ∧ c.locks = locksOf false (seg a span))
        ∧ Queues (.tstore g f d t xa xb cb nbm rmaj) s false d coresOnly fun _ c =>
          c.own = n ∧ c.op = .tstore f t.val a b cb.val nbm.val rmaj (seg a span) ∧ c.locks = locksOf true (seg a span))
      ∧ (a % 64 = 0 → ownRange s a x.imageLen = true → Queues (.tsave g d t xa) s false d tilesOnly fun u c =>
          c.own = n ∧ c.op = .tsave t.val a (seg a x.imageLen) x.desc ∧ u.tile n t.val = { x with st := .saved }))
    ∧ (tileOpen s n t = true → ∀ desc, x.desc = some desc → isNarrowCore s.cur.core = false → mmaFormats (s.group n).mfmt = true →
      cb.val + nb4.val + 1 ≤ x.width → let fmt := (s.group n).mfmt
      let fp8 := isFp8 (mfA fmt)
      let bl := kLen k * fmtBytes (mfB fmt)
      s.portRoom s.cur false (if fp8 then 4 else 2) = true →
      operandsOk s desc (s.me.xr xa) (s.me.xr xb) (32 * (nb4.val + 1)) 64 (kLen k * fmtBytes (mfA fmt)) bl
        (if fp8 then some ((s.group n).ascl, (s.group n).bscl) else none) = true →
      Queues (.mma g d t xa xb k cb nb4) s false d coresOnly fun _ c => c.own = n ∧ ∃ p, c.op = .mma t.val p 0 ∧ p.fmt = fmt ∧ p.desc = desc
        ∧ p.ascl = (s.group n).ascl ∧ p.bscl = (s.group n).bscl ∧ p.xb = s.me.xr xa ∧ p.xc = s.me.xr xb ∧ p.cb = cb.val ∧ p.nbm = nb4.val
        ∧ p.k = k ∧ p.pc = s.me.pc ∧ p.segs = seg a ((32 * (nb4.val + 1) - 1) * b + bl))
    ∧ (s.me.priv = false → s.me.group = some n → (s.groups.get? n).isSome = true → x.st ≠ .opened →
      s.portRoom s.cur false 1 = true → s.me.fetched = none → a % 64 = 0 →
      let h := s.bytes (localPa s.cur.core a) 2048
      let w := getLe h 0 1
      imageOk h = true → ownRange s a (2048 + 16384 * w) = true → ownRange s a 2048 = true →
      s.imagePending s.cur a 2048 (locksOf false (seg a 2048)) = false → s.eccHit (localPa s.cur.core a) 2048 = false →
      w ≤ (s.freeBlocks s.cur.core).length → s.blocksOf s.me.ctx s.cur.core + w ≤ (s.ctx s.me.ctx).quota.blocks →
      Queues (.trest g d t xa) s false d tilesOnly fun u c => c.own = n ∧ c.op = .trest t.val a (seg a (2048 + 16384 * w)) h
        ∧ (u.tile n t.val).st = .opened
        ∧ (if s.tileSaving n t.val then (u.tile n t.val).blocks = x.blocks ∧ (u.tile n t.val).width = w else (u.tile n t.val).blocks.length = w))

/-! ### The counting array (R348 to R365) -/

/-- R350 to R364, the counting instructions of a group on a counting core that no other group's array use stops: MCNT adds K to its bank's
meter, sets the bank's key and takes the array; MMRG joins two meters; MDRN and MCLR leave their bank EMPTY at issue; MDEP reports. -/
def Obligations.CountingInstructions : Prop :=
  ∀ (s : State) (g : Guard) (n : Nat) (t : TileNo) (d : Done) (bk : Bool) (xa xb : XReg) (k : KCode) (cb : Fin 16) (nbm : Fin 8) (desc : Desc),
    runs s g [xa, xb] = true → s.me.priv = false → s.me.group = some n → (s.groups.get? n).isSome = true →
    isNarrowCore s.cur.core = true → (s.myCore.holder = none ∨ s.myCore.holder = some n) →
    let core := s.cur.core
    let bank := s.myCore.bank (b2n bk)
    let grp := s.group n
    let key := (List.range 128).map (fun i => BitVec.ofNat 32 (s.readN (localPa core (grp.ascl.toNat + 4 * i)) 4))
      ++ [BitVec.ofNat 32 (s.readN (localPa core grp.bscl.toNat) 4)]
    let held := fun (u : State) (b0 b1 : CountBank) => u.myCore.holder = some n ∧ u.myCore.bank0 = b0 ∧ u.myCore.bank1 = b1
    let one := fun (u : State) (b : CountBank) => held u (if bk then s.myCore.bank0 else b) (if bk then b else s.myCore.bank1)
    (tileOpen s n t = true → (s.tile n t.val).desc = some desc → mfA grp.mfmt = 10 → mfB grp.mfmt = 10 → s.portRoom s.cur false 2 = true →
      operandsOk s desc (s.me.xr xa) (s.me.xr xb) (32 * (nbm.val + 1)) 16 (kLen k / 2) (kLen k / 2) (some (grp.ascl, grp.bscl)) = true →
      s.bridleHit core s.chip (localPa core grp.ascl.toNat) 512 true = false → s.bridleHit core s.chip (localPa core grp.bscl.toNat) 4 true = false →
      s.eccHit (localPa core grp.ascl.toNat) 512 = false → s.eccHit (localPa core grp.bscl.toNat) 4 = false →
      bank.meter + kLen k ≤ 255 → (bank.key = none ∨ bank.key = some key) →
      Queues (.mcnt g d bk t xa xb k nbm) s false d coresOnly fun u c => one u { bank with meter := bank.meter + kLen k, key := some key }
        ∧ ∃ p, c.op = .mcnt (b2n bk) t.val p ∧ p.desc = desc ∧ p.k = k ∧ p.nbm = nbm.val ∧ p.xb = s.me.xr xa ∧ p.xc = s.me.xr xb)
    ∧ (s.portRoom s.cur false 0 = true →
      (s.myCore.bank1.empty = false → s.myCore.bank0.meter + s.myCore.bank1.meter ≤ 255 → (s.myCore.bank0.empty = true ∨ s.myCore.bank0.key = s.myCore.bank1.key) →
        Queues (.mmrg g d) s false d coresOnly fun u c => c.op = .mmrg
          ∧ held u { s.myCore.bank0 with meter := s.myCore.bank0.meter + s.myCore.bank1.meter, key := s.myCore.bank1.key }
              { s.myCore.bank1 with meter := 0, key := none })
      ∧ (s.myCore.bank1.empty = true → Queues (.mmrg g d) s false d coresOnly fun u c => c.op = .mmrg ∧ held u s.myCore.bank0 s.myCore.bank1)
      ∧ Queues (.mclr g d bk) s false d coresOnly (fun u c => c.op = .mclr (b2n bk) ∧ one u { bank with meter := 0, key := none })
      ∧ (tileOpen s n t = true → cb.val + nbm.val + 1 ≤ (s.tile n t.val).width →
        Queues (.mdrn g d bk t cb nbm) s false d coresOnly fun u c => c.own = n
          ∧ c.op = .mdrn (b2n bk) t.val cb.val (32 * (nbm.val + 1)) (mfAcm grp.mfmt) bank.key ∧ one u { bank with meter := 0, key := none }))
    ∧ (Writes (.mdep g xa bk) s xa (BitVec.ofNat 64 (b2n s.myCore.holder.isSome * 2 ^ 63 + b2n bank.key.isSome * 2 ^ 61
        + Nat.min 255 (s.myCore.cmds.filter fun c => c.op.banks.contains (b2n bk)).length * 2 ^ 40 + bank.meter * 2 ^ 32
        + (match bank.key with | some l => (l.getD 128 0).toNat | none => 0))))

/-! ### Copies (R374 to R384) -/

/-- R367, R376 to R384, the copy port: a command whose operands are multiples of 64 and whose ranges pass their checks is queued with what it
copies, with its barrier's bytes made pending; CPYW goes from the own window to a region of the weight store that is loading; a command of
length 0 is a marker; PORTQ reports the queues, the thread's commands and its last failure, and clears the failure's mark: that the failure
reads 0 before a first one is the model's reading (log 41). -/
def Obligations.CopyCommands : Prop :=
  ∀ (s : State) (g : Guard) (o : CopyOpts) (xa xb xc : XReg) (op : CpyrOp) (msk : BitVec 8), runs s g [xa, xb, xc] = true →
    let da := (s.me.xr xa).toNat
    let sa := (s.me.xr xb).toNat
    let n := (s.me.xr xc).toNat
    let core := s.cur.core
    let seg := fun va len => [s.localSeg core va len]
    let named := fun (len : Nat) (i : Instr) (same : State → State → State → Prop) (post : State → Cmd → Prop) => ∀ bar s1,
      barNaming s o.bar len = some (bar, s1) → Queues i s true o.done (same s1) fun u c => c.bar = bar ∧ post u c
    let plain := fun (s1 _s t : State) => t = { s1 with slots := t.slots, issueq := t.issueq, cores := t.cores }
    let size := fun (len : Nat) => len % 64 = 0 ∧ 0 < len ∧ len ≤ 0xFFFFC0
    (s.portRoom s.cur true 2 = true → da % 64 = 0 → sa % 64 = 0 →
      (size n → ownRange s sa n = true → ownRange s da n = true → (da + n ≤ sa ∨ sa + n ≤ da) →
        named n (.cpy g o xa xb xc) plain (fun _ c => c.op = .cpy da sa n (seg da n) (seg sa n) o.full)
        ∧ named n (.cpyr g op o xa xb xc) plain (fun _ c => c.op = .cpyr op da sa n (seg da n) (seg sa n) o.full))
      ∧ (∀ ss ds rows rl, ss = 64 * (n / 2 ^ 44 % 2 ^ 20) → ds = 64 * (n / 2 ^ 24 % 2 ^ 20) → rows = n / 2 ^ 12 % 2 ^ 12 + 1 → rl = 64 * (n % 2 ^ 12) →
        size (rows * rl) → ownRange s sa ((rows - 1) * ss + rl) = true → ownRange s da ((rows - 1) * ds + rl) = true →
        (da + (rows - 1) * ds + rl ≤ sa ∨ sa + (rows - 1) * ss + rl ≤ da) →
        named (rows * rl) (.cpy2 g o xa xb xc) plain fun _ c =>
          c.op = .cpy2 da sa rows rl ds ss (seg da ((rows - 1) * ds + rl)) (seg sa ((rows - 1) * ss + rl)) o.full)
      ∧ (∀ e rest off, o.full = false → size n → ownRange s sa n = true → s.myCore.tlb = e :: rest → e.covers s.me.ctx da = true →
        s.me.pages = [] → spadSize ≤ da → da + n ≤ 2 ^ 48 → da + n ≤ e.va + e.size → s.pageBusy core s.me.ctx da = false →
        permCheck s s.me.ctx e.pte.toNat (e.pa da) .write = none →
        place (e.pa da) = .wstore off → off % 0x40000 + n ≤ 0x40000 → pteChip e.pte.toNat = s.chip →
        (∃ b r, s.regionAt (e.pa da) = some (b, r) ∧ r.ctx = s.me.ctx ∧ r.serving = false) →
        named n (.cpyw g o xa xb xc) plain fun _ c => c.op = .cpyw da sa n
          [{ va := da, len := n, tgt := { chip := s.chip, pa := e.pa da, bwc := some (pteBwc e.pte.toNat), loc := false } }] (seg sa n)))
    ∧ (s.portRoom s.cur true 1 = true → da % 64 = 0 → size n → ownRange s da n = true →
      named n (.fill g o xa xb xc) plain fun _ c => c.op = .fill da n (s.me.xr xb) (seg da n) o.full)
    ∧ (let cores := ((List.range 8).filter fun b => msk.getLsbD b).map fun b => coreAtBit core b
      s.portRoom s.cur true (1 + cores.length) = true → da % 64 = 0 → sa % 64 = 0 → size n → ownRange s sa n = true → da + n ≤ shapeBase →
      (∀ c ∈ cores, c < 256 ∧ s.ringHit c da n = none ∧ (c = core → da + n ≤ sa ∨ sa + n ≤ da)) →
      named (n * cores.length) (.cpym g o xa xb xc msk) plain fun _ c => c.op = .cpym da sa n cores (seg sa n) o.full)
    ∧ (s.portRoom s.cur true 0 = true → n = 0 → ∀ i ∈ [Instr.cpy g o xa xb xc, .cpy2 g o xa xb xc, .cpym g o xa xb xc msk, .cpyw g o xa xb xc, .fill g o xa xb xc,
        .cpyr g op o xa xb xc], Queues i s true o.done coresOnly fun _ c => c.op = .marker ∧ c.bar = none ∧ c.locks = [])
    ∧ CompletesIn (.portq g xa) s [xa] [] moduleSame fun u => u.me.failNew = false ∧ u.me.failed = s.me.failed ∧ (u.me.xr xa =
        BitVec.ofNat 64 ((match s.me.failed with | some (st, tag) => b2n s.me.failNew * 2 ^ 56 + stCode st * 2 ^ 48 + tag * 2 ^ 40 | none => 0)
          + (s.cmdsOf s.cur).length * 2 ^ 24 + (64 - s.myCore.bridleUsed) * 2 ^ 16 + s.myCore.portCount true * 2 ^ 8 + s.myCore.portCount false))

/-! ### Events of memory, engines and barriers -/

/-- R109, R110, R113 to R115, R213, R246, R276 and R477, the events of memory: LOAD_REPLY and REFRESH_WINDOW_END complete a load that waits
for a scratchpad or weight store of this chip, and LOAD_REPLY a CHAN that named another core; LDN_REPLY delivers an answered register, ACCESS_AT_HOME performs a store or an LDN,
STORE_ACKNOWLEDGED takes a performed store off the thread's count, WRITE_COMBINING_IDLE_DRAIN drains a line idle for 1,024 cycles, the
vector banks' two events change their power, and SOFT_ERROR marks a word, counts a corrected error or kills a context. -/
def Obligations.MemoryEvents : Prop :=
  ∀ (s : State) (T : Tid) (p : Part) (w : LdW) (xd : XReg) (home off id line bank : Nat) (x : Store) (d : List Byte),
    let t0 := s.thread T
    let done := fun (u : State) => (u.slot T).st = .ready ∧ (u.thread T).xr xd = loadVal w (s.bytes p.tgt.pa (ldBytes w))
      ∧ (u.thread T).pc = t0.npc ∧ (∀ r, r ≠ xd → (u.thread T).xr r = t0.xr r) ∧ u.mem = s.mem
      ∧ ∀ j : Tid, j.key ≠ T.key → u.slot j = s.slot j
    ((s.slot T).st = .stall → t0.wait = .op (.mem [p] (.load w xd)) → p.got = none → p.n = ldBytes w → p.tgt.loc = false →
      p.tgt.chip = s.chip → (∀ y ∈ s.stores, y.tid ≠ T) → s.fullq = [] → s.eccHit p.tgt.pa p.n = false →
      (s.core T.core).clockRuns = true →
      (place p.tgt.pa = .spad home off → (s.core home).clockRuns = true → (home = T.core ∨ s.ringHit home off p.n = none) →
        ∃ u, exec (.loadReply T.core T.slot) s = .next u ∧ done u)
      ∧ (place p.tgt.pa = .wstore off → wsBank off = bank → refreshEnd s.now bank = none → s.liveSlots = [T] →
        ∃ u, exec (.refreshWindowEnd bank) s = .next u ∧ done u))
    ∧ (∀ r k j y pd pe, (s.slot T).st = .stall → t0.wait = .op (.chan r k j y pd pe) → (s.core k).clockRuns = true → (s.core T.core).clockRuns = true →
      exec (.loadReply T.core T.slot) s = .next (((s.at_ T).chanDone r k j y pd pe).at_ s.cur))
    ∧ (∀ o v, (s.slot T).st.live = true → s.locate (s.handle T) = .slot T → t0.owedAt xd = some o →
      (o.got = some (some v, .ok) → o.via = [] → (s.core T.core).clockRuns = true → ∃ u, exec (.ldnReply T.core T.slot xd) s = .next u ∧ (u.thread T).xr xd = v
          ∧ (∀ r, r ≠ xd → (u.thread T).xr r = t0.xr r) ∧ (∀ o ∈ (u.thread T).owed, o.x ≠ xd) ∧ (u.slot T).st = (s.slot T).st
          ∧ (u.thread T).pc = t0.pc ∧ u.mem = s.mem ∧ ∀ j : Tid, j.key ≠ T.key → u.slot j = s.slot j)
      ∧ (o.got = none → o.tgt.chip = s.chip → o.tgt.loc = false → place o.tgt.pa = .spad home off → (s.core home).clockRuns = true →
          (home = o.core ∨ s.ringHit home off (ldBytes o.w) = none) → (∀ y ∈ s.stores, y.tid ≠ T) → s.fullq = [] → s.eccHit o.tgt.pa (ldBytes o.w) = false →
          ∃ u, exec (.accessAtHome (.ldn T.core T.slot xd)) s = .next u ∧ u.mem = s.mem ∧ (∀ r, (u.thread T).xr r = t0.xr r)
            ∧ ∃ o', (u.thread T).owedAt xd = some o' ∧ o'.got = some (some (loadVal o.w (s.bytes o.tgt.pa (ldBytes o.w))), .ok)))
    ∧ (s.stores.find? (fun y => y.id = id) = some x →
      (x.phase = .done → (s.core x.tid.core).clockRuns = true → exec (.storeAcknowledged id) s = .next { s with stores := s.stores.filter fun y => y.id ≠ id })
      ∧ (MemoryCanonical s → s.stores = [x] → s.fullq = [] → x.phase = .sent → x.kind = .plain → x.data = d → x.n = d.length → x.tgt.chip = s.chip →
          place x.tgt.pa = .spad home off → off + d.length ≤ shapeBase → (s.core home).clockRuns = true →
          (home = x.tid.core ∨ s.ringHit home off x.n = none) →
          ∃ u, exec (.accessAtHome (.store id)) s = .next u ∧ stored s u x.tgt.pa d ∧ u.full = s.full ∧ u.slots = s.slots
            ∧ u.stores = [{ x with phase := .done }]))
    ∧ ((∀ y ∈ s.stores, y.tid.core = T.core → y.tgt.pa / 64 = line → y.phase = .buffered → y.cyc + 1024 ≤ (s.core T.core).cyc) →
      ∃ u, exec (.writeCombiningIdleDrain T.core line) s = .next u ∧ u.mem = s.mem ∧ u.slots = s.slots
        ∧ ∀ y ∈ u.stores, y.tid.core = T.core → y.tgt.pa / 64 = line → y.phase ≠ .buffered)
    ∧ (∀ b, b = s.vbank T.core bank → bank < 16 →
      (b.st = .on → b.last + 1024 ≤ (s.core T.core).cyc → ∃ u, exec (.vbankPowerDown T.core bank) s = .next u
        ∧ (u.vbank T.core bank).st = (if s.bankEmpty T.core bank then .off else .ret) ∧ u.slots = s.slots ∧ u.groups = s.groups ∧ u.mem = s.mem)
      ∧ (b.st = .waking → b.wakeAt ≤ (s.core T.core).cyc → ∃ u, exec (.vbankWakeEnd T.core bank) s = .next u
        ∧ (u.vbank T.core bank).st = .on ∧ u.slots = s.slots ∧ u.groups = s.groups ∧ u.mem = s.mem))
    ∧ ((place id = .hbm ∨ place id = .spad home off ∨ place id = .wstore off) →
        exec (.softError (.mem id)) s = .next { s with ecc := insertSorted (id / 8) s.ecc })
    ∧ (∀ c, (s.ctx c).st = .opened → ∃ u, exec (.softError (.ctxState c)) s = .next u ∧ (u.ctx c).st = .killing ∧ (u.ctx c).reason = 2
        ∧ (u.ctx c).cause = 0x0C)
    ∧ (∀ c, c < 256 → (s.ctx c).st ≠ .free → exec (.softError (.corrected c)) s =
        .next (s.modCtx c fun k => { k with eccCount := k.eccCount + 1 }))
    ∧ (∀ name g i k, s.groups.get? name = some g → i < g.vregs → k < 16 → (name, i, k) ∉ s.eccV →
        exec (.softError (.vreg name i k)) s = .next { s with eccV := s.eccV ++ [(name, i, k)] })
    ∧ (∀ core b e, core < 256 → b < 32 → e < 4096 → (core, b, e) ∉ s.eccAcc →
        exec (.softError (.acc core b e)) s = .next { s with eccAcc := s.eccAcc ++ [(core, b, e)] })

/-- R207, R208, R403, R406, R410, R412 and R413, the events of pages and bandwidth: PAGE_WALK fills the TLBs of the walk's thread or gives it
the failure, MISS_QUEUE_RETRY lets it ask again, SHOOTDOWN_ACK counts a core's answer, HOLD_QUEUE_RETRY sends a refused store again,
MOVE_SUBBLOCK_COPIED copies the next 4 KiB, BWCFG_WRITE waits for the next refill, and BANDWIDTH_REFILL fills the buckets. -/
def Obligations.PageEvents : Prop :=
  ∀ (s : State) (T : Tid) (cluster idx ctx page cls id : Nat) (w : Walk) (v : Word),
    ((s.cluster cluster).walks[idx]? = some w → idx < 32 → w.who = [T] → (s.slot T).st = .stall → (s.thread T).wait = .retry .walk →
      (∀ pte size, s.walk w.ctx w.va = .leaf pte size → ∃ u, exec (.pageWalk cluster idx) s = .next u ∧ (u.slot T).st = .ready
        ∧ (u.thread T).pc = (s.thread T).pc ∧ mkTlbE w.ctx w.va pte size ∈ (u.core T.core).tlb
        ∧ mkTlbE w.ctx w.va pte size ∈ (u.cluster cluster).l2 ∧ (u.cluster cluster).walks = (s.cluster cluster).walks.eraseIdx idx ∧ u.mem = s.mem)
      ∧ (∀ c l, s.walk w.ctx w.va = .fail c l → ∃ u, exec (.pageWalk cluster idx) s = .next u ∧ (u.slot T).st = .ready
        ∧ (u.thread T).walkFault = some (w.va, causeCode c, l) ∧ u.mem = s.mem))
    ∧ (∀ at0, (s.slot T).st = .stall → (s.thread T).wait = .retry (.missFull at0) → at0 ≤ s.now →
      ∃ u, exec (.missQueueRetry T.core T.slot) s = .next u ∧ (u.slot T).st = .ready ∧ (u.thread T).pc = (s.thread T).pc ∧ u.mem = s.mem)
    ∧ (∀ h rest c, s.shoots = h :: rest → c ∈ h.cores → s.mayAck c h = true → (∃ k ∈ h.cores, k ≠ c) →
      exec (.shootdownAck c) s = .next { s with shoots := { h with cores := h.cores.filter fun k => k ≠ c } :: rest })
    ∧ (∀ h rest c, s.shoots = h :: rest → h.cores = [c] → s.mayAck c h = true → h.why = .protect →
      exec (.shootdownAck c) s = .next (({ s with shoots := rest } : State).replyReady h.reply))
    ∧ (∀ x at0, s.stores.find? (fun y => y.id = id) = some x → x.phase = .retry at0 → at0 ≤ s.now → s.txs = [] →
      exec (.holdQueueRetry id) s = .next ((s.setPhase id .sent).storeAtHome id))
    ∧ (∀ m, s.moving = [m] → m.ctx = ctx → m.va / 4096 = page → m.ended = false → m.copying = true → m.copied + 1 < m.size / 4096 →
      s.holdq = [] → ∃ u, exec (.moveSubblockCopied ctx page) s = .next u ∧ u.moving = [{ m with copied := m.copied + 1 }]
        ∧ (MemoryCanonical s → place (m.new + m.copied * 4096) = .hbm → stored s u (m.new + m.copied * 4096) (s.bytes (m.old + m.copied * 4096) 4096))
        ∧ u.slots = s.slots)
    ∧ (cls < 16 → s.dark 0 = false → ∃ u, exec (.bwcfgWrite cls v) s = .next u ∧ (u.bwClass cls).pendingCfg = some (v &&& 0x8000FFFF0000FFFF) ∧ (u.bwClass cls).rate = (s.bwClass cls).rate
        ∧ ∀ k, k ≠ cls → u.bwClass k = s.bwClass k)
    ∧ ((s.refills + 1) * 64 ≤ s.now → s.bwq = [] →
        exec .bandwidthRefill s = .next { s with refills := s.refills + 1, bw := s.bw.mapVals fun _ k => k.refill })
    ∧ (∀ k : BwClass, k.pendingCfg = none → k.unl = false → ∀ c, c < 512 → k.refill.bal.getD c 0 = min (k.depth : Int) (k.bal.getD c 0 + k.rate))

/-- R334, R335, R368, R373, R383, R387 and R396, the events of engines and barriers: COMMAND_START releases a command that nothing holds,
COMMAND_COMPLETE ends one whose work is done, with its event counter, PASS_STOP leaves the tile with the progress and the failing read, and
gives the thread that waits for the pass its REMOP, and the three barrier events end a thread's wait as the barrier's home says. -/
def Obligations.EngineAndBarrierEvents : Prop :=
  ∀ (s : State) (T : Tid) (core id : Nat) (c : Cmd), 
    (s.cmd? core id = some c → s.engRuns core = true →
      (c.started = false → s.mayStart core c = true → (∀ g ∈ c.op.srcSegs, g.tgt.chip = s.chip) →
        exec (.commandStart core id) s = .next (s.modCmd core id fun c => { c with started := true }))
      ∧ (∀ e, c.started = true → c.did = true → s.cmdOut core id = false → c.tid = T → c.dn = .async e → c.orphan = false → c.priv = false →
        c.bar = none → c.fail = none → c.op.tile? = none → c.op.banks = [] → c.op ≠ .marker → s.locate (s.cmdHnd c) = .slot T →
        (s.thread T).priv = false → (s.thread T).wait = .none → (s.thread T).e[e].toNat < 65535 →
        ∃ u, exec (.commandComplete core id) s = .next u ∧ u.cmd? core id = none ∧ (u.thread T).e[e].toNat = (s.thread T).e[e].toNat + 1
          ∧ (∀ r, (u.thread T).xr r = (s.thread T).xr r) ∧ u.mem = s.mem)
      ∧ (∀ t p from_ folded st va d x, c.op = .mma t p from_ → c.started = true → c.did = false → c.orphan = false → c.fail = none →
        s.tileFirst core c = true → s.tileHeld c = false → s.gather core id = (true, s) → c.buf.get? va = some (st, d) → st ≠ .ok →
        folded = foldable c p from_ → s.mustStop core c = true →
        (s.groups.get? c.own).isSome = true → x = s.tile c.own t → let w := (s.thread c.tid).wait
        let stopped := fun (u : State) => u.cmd? core id = none ∧ (u.tile c.own t).part = true ∧ (u.tile c.own t).prog = folded
          ∧ (u.tile c.own t).stop = some (st, BitVec.ofNat 64 va)
        (w = .none → ∃ u, exec (.passStop core id folded st va) s = .next u ∧ stopped u ∧ (u.tile c.own t).dlv = false)
        ∧ (w = .op (.cmd c.tag) → (s.slot c.tid).st.live = true → (s.slot c.tid).gen = c.gen → canTrap (s.thread c.tid) = true →
          ∃ u, exec (.passStop core id folded st va) s = .next u ∧ stopped u ∧ (u.tile c.own t).dlv = true ∧ (u.slot c.tid).st = .ready
            ∧ (u.thread c.tid).priv = true ∧ (u.thread c.tid).pc = (s.thread c.tid).tvec)))
    ∧ (∀ op tgt va xd pd pe rs, (s.slot T).st = .stall → (s.thread T).wait = .op (.bar op tgt va xd pd pe rs) → tgt.chip = s.chip →
      (s.core (homeCore tgt.pa)).clockRuns = true → (s.core T.core).clockRuns = true → let u := s.at_ T
      (s.barShut T tgt.pa = false → exec (.barrierOperation T.core T.slot) s = .next ((u.barDone op tgt va xd (pd.getD 0) (pe.getD 0) rs
        (u.barOp op tgt.pa u.myParty (u.handle T) none)).at_ s.cur))
      ∧ (s.barShut T tgt.pa = true → exec (.barrierOperation T.core T.slot) s = .next ((u.trap .remote va).at_ s.cur)))
    ∧ (∀ tgt ph va rs, (s.thread T).wait = .block (.bwait tgt ph va rs) → (s.core T.core).clockRuns = true →
      ((s.thread T).bwaitDone = some none → (s.slot T).st = .wait → ∃ u, exec (.barrierWake T.core T.slot) s = .next u ∧ (u.slot T).st = .ready
          ∧ (u.thread T).pc = (s.thread T).npc ∧ (∀ r, (u.thread T).xr r = (s.thread T).xr r) ∧ u.mem = s.mem)
      ∧ (∀ e, (s.thread T).bwaitDone = some (some e) → exec (.barrierWake T.core T.slot) s = .next (((s.at_ T).trap e va).at_ s.cur))
      ∧ ((s.thread T).bwaitDone = none → (s.slot T).st = .wait → tgt.chip = s.chip → (s.thread T).askAt ≤ s.now →
        (s.core (homeCore tgt.pa)).clockRuns = true → s.barShut T tgt.pa = false → (∀ b ∈ (s.core (homeCore tgt.pa)).bwt, b.h ≠ s.handle T) →
        ∀ v u', (s.at_ T).barOp (.wait ph) tgt.pa (s.at_ T).myParty (s.handle T) none = .ok v u' → 
          exec (.bwaitTableRetry T.core T.slot) s = .next (((u'.barAcquire rs).commit).at_ s.cur)))

/-! ### Events of puts, messages, spawns and threads -/

/-- R166 to R168, R181, R217 to R222, R247, R252 and R298, the events of a send port's items: a put that reaches its resident group writes the
register and counts its arms down, one to a group in eviction is held, its answer counts or is recorded in sr.putfail, a resend goes out
again; a message enters its mailbox, a refused SEND raises MBOX, and a lapsed reservation passes to the next listed sender; a spawn message makes a thread and its answer is written in the scratchpad; SEMA and TPOST reach another
core. -/
def Obligations.MessageEvents : Prop :=
  ∀ (s : State) (id core : Nat) (i : Item) (T : Tid) (x : Thread), s.item? id = some i → x = s.thread T →
    let answered := fun (u : State) (st : Status) (h : Nat) => ∃ j ∈ u.items, j.id = id ∧ j.st = .answered st h
    (∀ name idx d, i.kind = .vput name idx d →
      (∀ g, (i.st = .flying core ∨ ∃ home ord, i.st = .queued core home ord) → i.tid ≠ none → (s.core core).clockRuns = true →
        s.putsBefore i core name = [] → realGroup name = true → name % 256 ≠ 0 →
        s.groups.get? name = some g → g.core = core → g.st = .running → (s.ctx g.ctx).tag = i.tag →
        (s.ctx g.ctx).st = .opened → idx < g.vregs →
        (g.saving = true → i.st = .flying core →
          exec (.putArrival id) s = .next (({ s with tick := s.tick + 1 } : State).modItem id fun i => { i with st := .queued core false s.tick }))
        ∧ (g.saving = false → 0 < g.armOf idx → (s.vbank core g.bank).st = .on →
          ∃ u, exec (.putArrival id) s = .next u ∧ answered u .ok (s.placeNo core)
          ∧ u.groups.get? name = some { g with v := g.v.set idx d, arm := if g.armOf idx = 1 then g.arm.erase idx else g.arm.set idx (g.armOf idx - 1) }
          ∧ u.mem = s.mem ∧ u.slots = s.slots)
        ∧ (g.saving = false → g.armOf idx = 0 → ∃ u, exec (.putArrival id) s = .next u ∧ answered u .unarmed (s.placeNo core) ∧ u.groups = s.groups ∧ u.mem = s.mem))
      ∧ (∀ c, i.st = .answered .ok c → (s.core i.home).clockRuns = true → exec (.putReply id) s = .next
          ((match i.tid with | some t => (s.dropItem id).refreshName t.core name c | none => s.dropItem id).itemEvent i))
      ∧ (∀ st c, i.st = .answered st c → st ≠ .ok → (s.core i.home).clockRuns = true → s.locate i.hnd = .slot T → x.putfail.getLsbD 63 = false →
        ∃ u, exec (.putReply id) s = .next u ∧ (u.thread T).putfail = putfailNext x.putfail st idx name ∧ u.items = s.items.filter (fun j => j.id ≠ id)
          ∧ (∀ r, (u.thread T).xr r = x.xr r) ∧ u.mem = s.mem)
      ∧ (∀ t0, i.st = .later t0 → t0 ≤ s.now → i.tid ≠ none → s.itemGoal i = .ok core →
        exec (.putResend id) s = .next (s.modItem id fun i => { i with st := .flying core })))
    ∧ (∀ box size prio d, i.kind = .send box size prio d →
      (∀ m, i.st = .flying core → (s.core core).clockRuns = true → box / 2 ^ 6 % 2 ^ 8 = core → i.tid ≠ none → s.tagKilling i.tag = false →
        s.box? core (box % 2 ^ 6) = some m → m.tag = i.tag → m.size = size → m.resv = [] → m.recvs = [] → m.msgs.length < m.depth →
        ∃ u, exec (.messageArrival id) s = .next u ∧ answered u .ok 0 ∧ u.mem = s.mem ∧ u.slots = s.slots
          ∧ u.box? core (box % 2 ^ 6) = some { m with msgs := m.msgs ++ [{ prio := prio, sender := i.hnd, data := d }], waits := m.waits.filter (· ≠ id) })
      ∧ (∀ c, i.st = .answered .ok c → (s.core i.home).clockRuns = true → exec (.sendReply id) s = .next ((s.dropItem id).itemEvent i))
      ∧ (∀ st c, i.st = .answered st c → st ≠ .ok → (s.core i.home).clockRuns = true → s.locate i.hnd = .slot T → (s.slot T).st = .ready →
        ∃ u, exec (.sendReply id) s = .next u ∧ (u.thread T).pend.get? 0x17 = some (mboxAddr st box) ∧ (∀ r, (u.thread T).xr r = x.xr r) ∧ u.mem = s.mem)
      ∧ (∀ t0, i.st = .later t0 → t0 ≤ s.now → i.tid ≠ none → s.itemGoal i = .ok core →
        exec (.senderRetry id) s = .next (s.modItem id fun i => { i with st := .flying core })))
    ∧ (∀ k m w t0, s.box? core k = some m → m.resv = [(w, t0)] → t0 ≤ s.now → m.waits = [] →
      exec (.mailboxReservationLapse core k) s = .next (s.setBox core k { m with resv := [] }))
    ∧ (∀ k m w t0 rest, s.box? core k = some m → m.resv = [(w, t0)] → t0 ≤ s.now → m.waits = id :: rest → m.msgs.length < m.depth → i.tid ≠ none →
      ∃ u, exec (.mailboxReservationLapse core k) s = .next u ∧ u.box? core k = some { m with waits := rest, resv := [(id, s.now + mesh1024)] }
        ∧ (∃ j ∈ u.items, j.id = id ∧ j.st = .later s.now) ∧ u.mem = s.mem ∧ u.slots = s.slots)
    ∧ (∀ chip k ch regs pa, i.kind = .spnr chip k ch regs pa →
      (∀ c j, i.st = .flying core → i.tid ≠ none → (s.core core).clockRuns = true →
        s.tagKilling i.tag = false → (s.core core).chans.get? ch = some c →
        (s.ctx c.ctx).tag = i.tag → c.blocked = false → c.loose = true → s.slotBlock c.ctx core = none → s.pickSlot core = some j →
        ∃ u, exec (.spawnMessage id) s = .next u ∧ let t : Tid := { core := core, slot := j }
          (u.slot t).st = .ready ∧ (u.slot t).gen = nextGen (s.slot t).gen ∧ (u.thread t).pc = c.entry ∧ (u.thread t).prio = c.prio
          ∧ (u.thread t).ctx = c.ctx ∧ (u.thread t).xr 1 = regs.getD 0 0 ∧ (u.thread t).xr 4 = regs.getD 3 0
          ∧ answered u .ok (handleOf s.chip core j (nextGen (s.slot t).gen)))
      ∧ (∀ st h off, i.st = .answered st h → place pa = .spad core off → (s.core core).clockRuns = true →
        exec (.spnrAnswer id) s = .next (((s.dropItem id).storeFor i.ctx pa
          (bytesOf 8 (2 ^ 63 + stCode st * 2 ^ 40 + (if st = .ok then h else 0)))).itemEvent i)))
    ∧ ((s.slot T).st = .stall → (s.core T.core).clockRuns = true →
      (∀ h k n xd pd pe, x.wait = .op (.sema h k n xd pd pe) → (s.core (h / 2 ^ 16 % 2 ^ 8)).clockRuns = true →
        exec (.semaDelivery T.core T.slot) s = .next (((s.at_ T).semaDone h k n xd pd pe).at_ s.cur))
      ∧ (∀ h v xd pd pe, x.wait = .op (.post h v xd pd pe) → (s.core (h / 2 ^ 16 % 2 ^ 8)).clockRuns = true →
        exec (.postDelivery T.core T.slot) s = .next (((s.at_ T).postDone h v xd pd pe).at_ s.cur)))

/-- R131, R171 to R174, R225 and R250, the events that move threads: TASK_QUEUE_RESTORE makes a thread of a continuation record, OUTRIDER_PERIOD
issues the plan of the period and OUTRIDER_COMMAND names the threads that move, or ends a command that finds none, MIGRATION_ARRIVAL puts the thread in a slot of the core
asked, under a new handle, and FORWARDING_ENTRY_FREE ends an entry whose time has come. -/
def Obligations.MovingEvents : Prop :=
  ∀ (s : State) (T : Tid) (core idx : Nat),
    (∀ m xd j, s.moves = [m] → m.tid = T → m.xd = some xd → m.dest ≠ T.core → (s.core m.dest).clockRuns = true →
      (s.core T.core).clockRuns = true → (s.slot T).st = .stall →
      (s.thread T).owed = [] → s.moveQuota (s.thread T).ctx m.dest = true → s.pickSlot m.dest = some j →
      let n : Tid := { core := m.dest, slot := j }
      n.key ≠ T.key → ∃ u, exec (.migrationArrival T.core T.slot) s = .next u ∧ u.moves = [] ∧ (u.slot n).st = .ready
        ∧ (u.slot n).gen = nextGen (s.slot n).gen ∧ (u.thread n).xr xd = BitVec.ofNat 64 (handleOf s.chip m.dest j (nextGen (s.slot n).gen))
        ∧ (∀ r, r ≠ xd → (u.thread n).xr r = (s.thread T).xr r) ∧ (u.thread n).e = (s.thread T).e ∧ (u.thread n).pc = (s.thread T).npc
        ∧ (u.slot T).st = .free ∧ u.mem = s.mem)
    ∧ (∀ name c at0, (s.core core).fwd.get? idx = some (.group name c at0) → at0 ≤ s.now →
      exec (.forwardingEntryFree core idx) s = .next (s.modCore core fun k => { k with fwd := k.fwd.erase idx }))
    ∧ (∀ l, l = outriderPlan ((s.occupancy.map fun e => e.2.1).sum / 256) s.occupancy s.outriderBusy →
      exec .outriderPeriod s = .next { s with outrider := s.outrider ++ l })
    ∧ (∀ dst, s.outrider = [(core, dst, 1)] → s.moves = [] → s.readyLoose core = [T] → s.moveQuota (s.thread T).ctx dst = true →
      exec (.outriderCommand core) s = .next { s with moves := [{ tid := T, dest := dst, xd := none, pd := 0, pe := 0 }] })
    ∧ (∀ dst n, s.outrider = [(core, dst, n)] → s.moves = [] → s.readyLoose core = [] →
      exec (.outriderCommand core) s = .next { s with outrider := [] })
    ∧ (∀ a c rest d s1 j, (s.core core).taskq = (a, c) :: rest → (s.core core).clockRuns = true → s.slotQuota c core 1 = true →
      s.pickSlot core = some j → ((s.acquireAt core .dev).modCore core fun k => { k with taskq := rest }).agentBytes c 2 a.toNat 256 = (.data d, s1) →
      contOk d = true → s1.pickSlot core = some j →
      ∃ t s2, s1.create core (contThread s1 c d) = some (t, s2)
        ∧ ∀ u, s2.agentWrite c a.toNat (contState .ok (s2.handle t)) = (true, u) → exec (.taskQueueRestore core) s = .next u)

/-! ### Events of the Starter, evictions and restores -/

/-- R159, R161, R188, R194 to R200, R209 and R211, the Starter's events: LAUNCH_WINDOW_WRITE appends a record of 64 bytes, TAKE_LAUNCH_RECORD
takes the oldest of the queue whose turn it is as a launch with the next serial (FAILED when it is malformed), GROUP_PLACE makes the next
group of the oldest launch that has a core, with its window, blocks and first thread, and the two timeouts mark a launch that waits. R209,
R223, R225 and R256 to R260, evictions and restores: EVICTION_DECISION puts the first candidate's slots in SAVING, EVICTION_COMMIT takes a
loose thread's record into an image, IMAGE_COMPLETE frees its slot with the departure SAVED, SPILL_TO_SAVE_AREA moves an image, RESTORE and
LOOSE_RESTORE_TIMEOUT bring a thread back under a new handle, READY at its instruction, with its registers. A malformed record as a numbered
FAILED launch (log 64), the one or two events of a restore (log 78) and the place of an image in the lowest gap (log 49) are the model's. -/
def Obligations.PlacementEvents : Prop :=
  (∀ (s : State) (iface off c q k : Nat) (bytes d : List Byte) (rest : List (List Byte)) (lq : LaunchQ) (l : Launch),
    (iface < 64 → off < 0x400000 → off % 0x10000 < 0x8000 → off % 64 = 0 → q = off / 0x10000 % 4 → bytes.length = 64 →
      s.ctxAt iface (off / 0x40000) = some c → (s.ctx c).queues.get? q = some lq → lq.tail - lq.head < lq.depth →
      exec (.launchWindowWrite iface off bytes) s = .next (s.modCtx c fun x =>
        { x with queues := x.queues.set q { lq with tail := lq.tail + 1, recs := lq.recs ++ [bytes] } }))
    ∧ (s.nextCtx = some c → (s.ctx c).nextQueue = some q → (s.ctx c).queues.get? q = some lq → lq.recs = d :: rest →
      ((recOf d).formOk (s.ctx c).quota.blocks = true → (s.shapeImage c (recOf d)).1 ≠ .wait) →
      ∃ u l', exec .takeLaunchRecord s = .next u ∧ u.lastCtx = c ∧ u.nextLaunch = s.nextLaunch + 1
        ∧ (∃ lq', (u.ctx c).queues.get? q = some lq' ∧ lq'.head = lq.head + 1 ∧ lq'.recs = rest ∧ lq'.taken = (s.nextLaunch :: lq.taken).take 8)
        ∧ u.launches.get? s.nextLaunch = some l' ∧ l'.ctx = c ∧ l'.rcd = recOf d
        ∧ ((recOf d).formOk (s.ctx c).quota.blocks = false → l'.st = .failed) ∧ u.slots = s.slots)
    ∧ (∀ core idx bank base, s.launches = [(k, l)] → l.placing = true → s.chooseCore l.ctx (s.coresFor k l) = some core →
      (s.core core).clockRuns = true → s.freeIndex core = some idx → s.findWindow l.ctx core l.rcd.vregs = some (bank, base) →
      let name := groupName s.chip core idx (nextGen (match s.dir.get? (core * 64 + idx) with | some d => d.gen | none => 0))
      ∃ u g l', exec .groupPlace s = .next u ∧ u.groups.get? name = some g ∧ g.core = core ∧ g.ctx = l.ctx ∧ g.launch = k ∧ g.rank = l.names.length
        ∧ g.st = .running ∧ g.vregs = l.rcd.vregs ∧ g.bank = bank ∧ g.base = base ∧ g.pool = (s.freeBlocks core).take l.rcd.blocks ∧ g.v = [] ∧ g.tiles = []
        ∧ u.launches.get? k = some l' ∧ l'.names = l.names ++ [name]
        ∧ (∀ j, s.pickSlot core = some j → 0 < l.rcd.threadCount → let t : Tid := { core := core, slot := j }
          (u.slot t).st = .ready ∧ (u.thread t).pc = l.rcd.entry ∧ (u.thread t).xr 1 = l.rcd.arg ∧ (u.thread t).xr 3 = 0
          ∧ (u.thread t).group = some name ∧ (u.thread t).launch = some k ∧ (u.thread t).prio = l.rcd.prio))
    ∧ (∀ t0, s.launches.get? k = some l → l.placing = true →
      (l.since = some t0 → t0 + 100000 ≤ s.now → exec (.placementFairnessTimeout k) s = .next (s.modLaunch k fun l => { l with fair := true }))
      ∧ (∀ core, l.noCore = some t0 → t0 + 10000 ≤ s.now → s.writesDone l = true → l.pendCore = none → s.coresFor k l = [] →
          s.chooseCore l.ctx ((List.range 256).filter fun x => s.couldTake (l.need k) x) = some core →
          exec (.pendingPlacement k) s = .next (s.modLaunch k fun l => { l with pendCore := some core }))))
  ∧ (∀ (s : State) (core key n : Nat) (i : Image) (T : Tid),
    (∀ w cand, (s.core core).evict = none → (s.core core).clockRuns = true → s.moveCand core = none → s.wants core = [w] →
      firstCand (s.cands core w.1 w.2) = some cand → exec (.evictionDecision core) s = .next (s.decide_ core cand))
    ∧ (∀ at0 bl, T.core < 256 → T.slot < 256 → (s.core core).evict = some (false, T.key, at0) → at0 ≤ (s.core core).cyc → (s.core core).clockRuns = true →
      s.images.get? (imageKey (s.handle T)) = none → s.spillUnits core 256 = some bl →
      ∃ u img, exec (.evictionCommit core) s = .next u ∧ u.images.get? (imageKey (s.handle T)) = some img ∧ img.th = (s.thread T).record
        ∧ img.hnd = s.handle T ∧ img.core = core ∧ img.spill = true ∧ img.complete = false ∧ (u.slot T).st = (s.slot T).st ∧ u.mem = s.mem)
    ∧ (∀ at0, T.core = core → T.core < 256 → T.slot < 256 → (s.core core).evict = some (false, T.key, at0) → s.images.get? (imageKey (s.handle T)) = some i →
      ∃ u, exec (.imageComplete core) s = .next u ∧ u.images.get? (imageKey (s.handle T)) = some { i with complete := true } ∧ (u.slot T).st = .free
        ∧ (u.slot T).dep = some ((s.slot T).gen, .saved, (s.core core).departs) ∧ (u.core core).evict = none ∧ u.mem = s.mem)
    ∧ (s.images.get? key = some i → i.spill = true → i.complete = true → (∀ r, i.th.wait ≠ .block (.owed r)) → s.spillWanted i.core = true →
      s.spillMarked i.core key 256 = false →
      (s.touchSpill i.core key).1 = true → ∀ o, (s.ctx i.th.ctx).saveGap 256 = some o →
      ∃ u, exec (.spillToSaveArea key) s = .next u ∧ u.images.get? key = some { i with spill := false }
        ∧ (u.ctx i.th.ctx).saves = (s.ctx i.th.ctx).saves ++ [(o, 256, key)] ∧ u.mem = s.mem ∧ u.slots = s.slots)
    ∧ (∀ j dst, s.images.get? key = some i → s.imageReady i = true → s.pickSlot dst = some j → s.slotQuota i.th.ctx dst 1 = true → (s.core dst).clockRuns = true →
      s.saveMarked i.th.ctx key = false → (i.spill = true → s.spillMarked i.core key 256 = false) → (s.touchSpill i.core key).1 = true → (i.th.owed = [] ∨ clusterOf dst = clusterOf i.core) →
      let t : Tid := { core := dst, slot := j }
      let back := fun (u : State) => u.images = s.images.erase key ∧ (u.slot t).st = .ready ∧ (u.slot t).gen = nextGen (s.slot t).gen
        ∧ (u.thread t).pc = i.th.pc ∧ (u.thread t).x = i.th.x ∧ (u.thread t).p = i.th.p ∧ (u.thread t).e = i.th.e ∧ (u.thread t).ctx = i.th.ctx
        ∧ (u.thread t).owed = i.th.owed ∧ u.mem = s.mem
      (dst = i.core → ∃ u, exec (.restore false key) s = .next u ∧ back u)
      ∧ (∀ t0, i.since = some t0 → t0 + 1000 ≤ s.now → s.cores.all (fun e => e.2.cmds.isEmpty) = true →
        ((searchOrder i.core).find? fun x => isNarrowCore x == isNarrowCore i.core && !(s.freeSlots x).isEmpty && s.slotQuota i.th.ctx x 1) = some dst →
        ∃ u, exec (.looseRestoreTimeout key) s = .next u ∧ back u))
    ∧ (∀ g, realGroup n = true → s.groups.get? n = some g → s.saveMarked g.ctx n = false →
      (g.st = .spilled → g.moveTo = none → s.groupWakes g = true → s.lacks g.need g.core 0 = none → (s.core g.core).clockRuns = true →
        s.groupMarked n = false → (s.touchSpill g.core n).1 = true → exec (.restore true n) s = .next ((s.touchSpill g.core n).2.restoreGroup n g.core false))
      ∧ (g.st = .evicted → s.groupWakes g = true → ∃ u, exec (.restore true n) s = .next u ∧ u.groups.get? n = some { g with st := .restoring }
          ∧ u.slots = s.slots ∧ u.mem = s.mem)))

/-! ### Requests of the Farrier (R458) -/

/-- R138 to R150, R158, R162, R410, R411, R456 to R458, R480 and R481, requests for contexts, launch queues, pages, weight regions and rings:
each is taken, has its effect and is answered; UNMAP, PROTECT, WR_UNSEAL and WR_FREE answer when every core has acknowledged. The lowest free
numbers and positions (log 31), taking a request in the step that posts it (log 34) and the frames taken (logs 9 and 95) are the model's. -/
def Obligations.ContextRequests : Prop :=
  ∀ (s : State) (f : Nat) (r : Req), 
    let c := r.ctx
    let a := fun (i : Nat) => (r.args.getD i 0).toNat
    (∀ pos ring pa0 s1 pa1 s2 pa2 s3, reqReady s 0x01 f r = true → c = 0 → openOk r = true →
      ∀ n, s.ctxs.lowestFree 256 = some n → s.freePos f = some pos → s.rings.lowestFree 65536 = some ring → s.ctxOfTag (a 0 % 65536) = none →
      s.budgetOk f (quotaOf r) = true → s.takeFrame 4096 n 1 = some (pa0, s1) → (s1.zero pa0 4096).takeBuffer (a 3) 65536 n 3 = some (pa1, s2) →
      s2.takeBuffer (a 4 * 32) 64 256 2 = some (pa2, s3) →
      Answered (.ctxOpen f r) s f r true fun u rep => rep.status = .ok ∧ rep.r0 = BitVec.ofNat 64 n ∧ rep.r1 = BitVec.ofNat 64 (ring * 2 ^ 32 + pos)
        ∧ (u.ctx n).st = .opened ∧ (u.ctx n).tag = a 0 % 65536 ∧ (u.ctx n).iface = f ∧ (u.ctx n).pos = pos ∧ (u.ctx n).tvec = r.args.getD 1 0
        ∧ (u.ctx n).quota = quotaOf r ∧ (u.ctx n).period = a 2 ∧ (u.ctx n).ring = ring
        ∧ ∃ x, u.rings.get? ring = some x ∧ x.ctx = n ∧ x.size = a 4 ∧ x.base = pa2 ∧ x.rtail = 0 ∧ x.rhead = 0 ∧ x.live = true)
    ∧ (ctxReady s 0x02 f r = true → (s.ctx c).queues = [] → s.closeReady c = false →
      Answered (.ctxClose f r) s f r true fun u rep => rep.status = .ok ∧ (u.ctx c).st = .closing ∧ u.slots = s.slots)
    ∧ (ctxReady s 0x03 f r = true → a 0 < 2 ^ 63 → Answered (.ctxKill f r) s f r true fun u rep => rep.status = .ok ∧ (u.ctx c).st = .killing
        ∧ (u.ctx c).reason = 4)
    ∧ (∀ pa, ctxReady s 0x10 f r = true → a 0 < 4 → pow2In (a 1) 64 4096 = true → (s.ctx c).queues.get? (a 0) = none →
      s.framesHeld c + (64 * a 1 + 4095) / 4096 ≤ (s.ctx c).quota.frames → s.pickFrame (64 * a 1) = some pa →
      Answered (.lqCreate f r) s f r true fun u rep => rep.status = .ok ∧ (u.ctx c).queues.get? (a 0) =
        some { paused := false, depth := a 1, base := pa, head := 0, tail := 0, drops := 0, recs := [], taken := [] } ∧ u.slots = s.slots)
    ∧ (∀ l, a 0 < 4 → (s.ctx c).queues.get? (a 0) = some l →
      (ctxReady s 0x11 f r = true → l.paused = false → Granted (.lqPause f r) s f r 0 0 (s.modCtx c fun k => { k with queues := k.queues.set (a 0) { l with paused := true } }))
      ∧ (ctxReady s 0x12 f r = true → l.paused = true → Granted (.lqResume f r) s f r 0 0 (s.modCtx c fun k => { k with queues := k.queues.set (a 0) { l with paused := false } }))
      ∧ (ctxReady s 0x13 f r = true → l.recs = [] → Granted (.lqDelete f r) s f r 0 0 ((s.freeFrame c l.base (64 * l.depth)).modCtx c fun k => { k with queues := k.queues.erase (a 0) })))
    ∧ (∀ pa s1 s2, ctxReady s 0x20 f r = true → mapOk r = true → a 2 = 0 → let sz := a 1 % 16
      let n := szBytes sz
      let e := leafOf s.chip pa sz (a 1)
      s.unmapped c (a 0) n = true → s.framesHeld c + n / 4096 ≤ (s.ctx c).quota.frames → s.takeFrame n c 0 = some (pa, s1) →
      (s1.zero pa n).writeLeaf c (a 0) sz e = some s2 → Answered (.map f r) s f r true fun u rep => rep.status = .ok ∧ rep.r0 = e ∧ u.mem = s2.mem
        ∧ u.frames = s2.frames ∧ u.slots = s.slots)
    ∧ (∀ va n pte, a 0 < 2 ^ 48 → s.pageAt c (a 0) = some (va, n, pte) → pteM pte.toNat = false →
      (ctxReady s 0x21 f r = true → Answered (.unmap f r) s f r false fun u rep => rep.status = .ok
        ∧ (∀ T : Tid, ∃ pg, u.slot T = { s.slot T with th := { s.thread T with pages := pg } })
        ∧ ∃ h, u.shoots = (s.clearLeaf c va (pteSz pte.toNat)).shoots ++ [h] ∧ h.ctx = c ∧ h.va = va ∧ h.size = n ∧ h.why = .unmap ∧ h.cores = List.range 256
        ∧ u.mem = (s.clearLeaf c va (pteSz pte.toNat)).mem)
      ∧ (∀ new s1, ctxReady s 0x22 f r = true → a 1 % 16 = 0 → a 1 < 2 ^ 13 → new = leafOf (pteChip pte.toNat) (pteFrame pte.toNat) (pteSz pte.toNat) (a 1) →
        s.writeLeaf c va (pteSz pte.toNat) new = some s1 → Answered (.protect f r) s f r false fun u rep => rep.status = .ok ∧ rep.r0 = new ∧ u.mem = s1.mem
          ∧ ∃ h, u.shoots = s1.shoots ++ [h] ∧ h.ctx = c ∧ h.va = va ∧ h.size = n ∧ h.why = .protect ∧ h.cores = List.range 256)
      ∧ (∀ fr s1, ctxReady s 0x23 f r = true → a 1 = 0 → s.pickFrame n = some fr → pteChip pte.toNat = s.chip → pteFrame pte.toNat < hbmSize →
        ({ s with frames := s.frames ++ [{ pa := fr, size := n, ctx := c, use := 0 }], tick := s.tick + 1 } : State).writeLeaf c va (pteSz pte.toNat)
          (BitVec.ofNat 64 (pte.toNat + 8)) = some s1 → Answered (.move f r) s f r true fun u rep => rep.status = .ok ∧ rep.r0 = BitVec.ofNat 64 fr
          ∧ u.moving = s1.moving ++ [{ ctx := c, va := va, size := n, old := pteFrame pte.toNat, new := fr, copying := false, copied := 0, ended := false }]
          ∧ u.mem = s1.mem))
    ∧ (∀ b s2, ctxReady s 0x30 f r = true → a 0 < 2 → a 1 = wsUnit → a 2 % wsUnit = 0 → a 2 + a 1 ≤ 2 ^ 48 → s.unmapped c (a 2) (a 1) = true →
      ((s.wsUsed.filter fun u => decide (u.2.2 = c) && decide (wsBase + a 0 * wsDie ≤ u.1) && decide (u.1 < wsBase + a 0 * wsDie + wsDie)).map (·.2.1)).sum
        + a 1 ≤ (s.ctx c).quota.wstore * wsUnit → s.pickRegion (a 0) (a 1) = some b →
      ({ s with regions := s.regions.set b { ctx := c, size := a 1, va := a 2, serving := false, sealing := none }, tick := s.tick + 1 } : State).writeLeaf
        c (a 2) 3 (leafOf s.chip b 3 768) = some s2 →
      Answered (.wrAlloc f r) s f r true fun u rep => rep.status = .ok ∧ rep.r0 = BitVec.ofNat 64 b ∧ u.regions = s2.regions ∧ u.mem = s2.mem)
    ∧ (∀ x, s.regions.get? (a 0) = some x → x.ctx = c →
      (ctxReady s 0x31 f r = true → x.serving = false → x.sealing = none → s.cpywInto (a 0) x.size = false →
        Granted (.wrSeal f r) s f r 0 0 { s with regions := s.regions.set (a 0) { x with serving := true } })
      ∧ (ctxReady s 0x32 f r = true → x.serving = true → s.regionHeld x.ctx (a 0) x.size = false → Answered (.wrUnseal f r) s f r false fun u rep =>
        rep.status = .ok ∧ u.regions = s.regions ∧ ∃ h, u.shoots = s.shoots ++ [h] ∧ h.ctx = c ∧ h.why = .unseal (a 0))
      ∧ (ctxReady s 0x33 f r = true → x.sealing = none → s.leaves c = [] → Answered (.wrFree f r) s f r false fun u rep => rep.status = .ok
        ∧ u.regions = s.regions.erase (a 0) ∧ u.zeroq.get? s.nextZero = some { ctx := c, pa := a 0, size := x.size, frames := 0 }))
    ∧ (∀ x, s.rings.get? (a 0) = some x → c = 0 → x.iface = f →
      (reqReady s 0x60 f r = true → 1 ≤ a 2 → a 2 ≤ 3 → a 1 + a 2 ≤ x.rtail → x.rtail ≤ a 1 + x.size → Answered (.ringRead f r) s f r true fun u rep =>
        rep.status = .ok ∧ rep.data = ((x.recs.drop (a 1)).take (a 2)).flatMap recBytes ∧ u.rings = s.rings ∧ u.mem = s.mem ∧ u.slots = s.slots)
      ∧ (reqReady s 0x61 f r = true → x.live = false → Granted (.ringRelease f r) s f r 0 0
          (({ s with rings := s.rings.erase (a 0) } : State).freeFrame 256 x.base (x.size * 32))))
    ∧ (reqReady s 0x70 f r = true → c = 0 → f = 0 → 1 ≤ a 0 → a 0 ≤ 63 → a 1 ≤ 10 →
      Granted (.budgetSet f r) s f r 0 0 { s with far := { s.far with budgets := s.far.budgets.set (a 0 * 16 + a 1) (a 2) } })

/-- R153, R175 to R178, R225, R427, R457 to R459 and R461 to R465, requests for range tables, the RDMA adapter, gang stops, moves of groups,
attestation, ownership and images: each is taken, has its effect and is answered, and a refused one changes nothing. The lowest free numbers
(log 31), taking a request in the step that posts it (log 34), the times of a check (log 28) and the key and the error code of IMG_WRITE (log
73) are the model's. -/
def Obligations.DeviceRequests : Prop :=
  ∀ (s : State) (f : Nat) (r : Req),
    let c := r.ctx
    let a := fun (i : Nat) => (r.args.getD i 0).toNat
    let F := s.far
    let pf := fun (code : Nat) => reqReady s code f r = true ∧ c = 0 ∧ f = 0
    (∀ n, reqReady s 0x40 f r = true → c = 0 → a 0 < 1024 → a 1 < 16 → a 2 % 4096 = 0 → a 3 % 4096 = 4095 → a 4 < 16 → a 5 < 65536 →
      s.ctxOfTag (a 5) = some n → (s.ctx n).st = .opened → (s.ctx n).iface = f → s.ranges.get? (a 0 * 16 + a 1) = none →
      Granted (.rangeSet f r) s f r 0 0 { s with ranges := s.ranges.set (a 0 * 16 + a 1) { base := r.args.getD 2 0, limit := r.args.getD 3 0, perm := a 4, ctag := a 5 } })
    ∧ (ctxReady s 0x50 f r = true → s.pds = [] → Granted (.pdAlloc f r) s f r 0 0 { s with pds := [(0, c)] })
    ∧ (ctxReady s 0x51 f r = true → a 0 < 4096 → s.pds.get? (a 0) = some c → (∀ e ∈ s.regionsMr, e.2.pd ≠ a 0) → (∀ e ∈ s.qps, e.2.pd ≠ a 0) →
      Granted (.pdFree f r) s f r 0 0 { s with pds := s.pds.erase (a 0) })
    ∧ (ctxReady s 0x52 f r = true → a 2 = a 2 % 2 ^ 12 + a 2 / 2 ^ 16 % 16 * 2 ^ 16 → 0 < a 1 → a 0 + a 1 ≤ 2 ^ 48 → s.pds.get? (a 2 % 2 ^ 12) = some c →
      s.regionsMr = [] → Answered (.mrReg f r) s f r true fun u rep => rep.status = .ok ∧ rep.r0.toNat < 256 ∧ ∃ m, u.regionsMr = [(0, m)] ∧ m.ctx = c
        ∧ m.pd = a 2 % 2 ^ 12 ∧ m.va = a 0 ∧ m.len = a 1 ∧ m.perm = a 2 / 2 ^ 16 % 16 ∧ rep.r0 = BitVec.ofNat 64 m.keyTag)
    ∧ (∀ m, ctxReady s 0x53 f r = true → a 0 < 2 ^ 32 → s.regionsMr.get? (a 0 / 256) = some m → m.ctx = c → m.keyTag = a 0 % 256 →
      Granted (.mrDereg f r) s f r 0 0 { s with regionsMr := s.regionsMr.erase (a 0 / 256) })
    ∧ (ctxReady s 0x54 f r = true → a 0 = a 0 % 2 ^ 12 + a 0 / 2 ^ 16 % 2 * 2 ^ 16 → s.pds.get? (a 0 % 2 ^ 12) = some c → 0 < (s.ctx c).quota.qps → s.qps = [] →
      Granted (.qpCreate f r) s f r (BitVec.ofNat 64 0x10000) 0 { s with qps := [(0, Qp.fresh c (a 0 % 2 ^ 12) (a 0 / 2 ^ 16 % 2))] })
    ∧ (∀ q x, a 0 = 0x10000 + q → q < 0x10000 → s.qps.get? q = some x → x.ctx = c →
      (ctxReady s 0x55 f r = true → modifyOk r = true →
        (x.st = .reset → a 1 = 1 → s.qpsOf c ≤ (s.ctx c).quota.qps → Granted (.qpModify f r) s f r 0 0 (s.setQp q { x with st := .init }))
        ∧ (x.st = .error → a 1 = 0 → Granted (.qpModify f r) s f r 0 0 (s.setQp q (Qp.fresh x.ctx x.pd x.eth)))
        ∧ (x.st = .rts → Answered (.qpModify f r) s f r true fun u rep => rep.status = .denied ∧ u.qps = s.qps))
      ∧ (ctxReady s 0x56 f r = true → x.work = [] → s.qps.wf = true → Answered (.qpDestroy f r) s f r true fun u rep => rep.status = .ok ∧ u.qps.get? q = none ∧ u.slots = s.slots)
      ∧ (ctxReady s 0x57 f r = true → a 1 < 4 → x.st = .init → ((s.ctx c).queues.get? (a 1)).isSome = true →
        Granted (.qpBind f r) s f r 0 0 (s.setQp q { x with bound := some (a 1) })))
    ∧ (∀ k, k < 256 → pf 0x71 → a 0 < 2 ^ 32 → bitN (a 0) (clusterOf k) = true → (s.core k).stop = none → Answered (.gangStop f r) s f r true fun u rep =>
        rep.status = .ok ∧ (∃ x, (u.core k).stop = some x ∧ (u.core k).stopRec = some x ∧ x.cyc = (s.core k).cyc ∧ x.time = s.now) ∧ u.slots = s.slots)
    ∧ (∀ k, k < 256 → pf 0x72 → a 0 < 2 ^ 32 → bitN (a 0) (clusterOf k) = true → Answered (.gangRelease f r) s f r true fun u rep =>
        rep.status = .ok ∧ (u.core k).stop = none ∧ (u.core k).stopRec = (s.core k).stopRec ∧ u.slots = s.slots)
    ∧ (pf 0x73 → a 0 < 256 → Answered (.stopRead f r) s f r true fun u rep => rep.status = .ok ∧ rep.data = stopBytes (s.core (a 0)).stopRec ∧ u.cores = s.cores)
    ∧ (∀ g l, ctxReady s 0x74 f r = true → a 0 < 2 ^ 32 → a 1 < 256 → s.groups.get? (a 0) = some g → g.ctx = c → g.st = .running →
      s.launches.get? g.launch = some l → kindOk l.rcd.ckind (a 1) = true → Granted (.groupMove f r) s f r 0 0 (s.setGroup (a 0) { g with moveTo := some (a 1) }))
    ∧ (reqReady s 0x80 f r = true → c = 0 → bufOk 4096 r = true → Answered (.quote f r) s f r true fun u rep => rep.status = .ok ∧ rep.r0 = 3933
        ∧ u.far.meas = F.meas ∧ u.mem = s.mem ∧ ∃ sig, u.far.dmaOut = ((List.range 4).flatMap fun i => bytesOf 8 (a i)) ++ ((List.range 8).flatMap fun i => slice (F.meas.getD i []) 0 64) ++ bytesOf 8 F.counter
          ++ bytesOf 4 F.svn ++ zeros 4 ++ slice Config.deviceIdentity 0 64 ++ sig)
    ∧ (pf 0x81 → 4 ≤ a 0 → a 0 ≤ 7 → Granted (.extend f r) s f r 0 0 { s with far := F.extend (a 0) ((List.range 8).flatMap fun i => bytesOf 8 (a (i + 1))) })
    ∧ (∀ b key, r.buf = some b → bufOk 3437 r = true → (slice b 72 56).all (fun v => v = 0) = true → s.anyOpen = false →
      slice b 0 64 = slice Config.deviceIdentity 0 64 → getLe b 64 8 = F.counter → Config.mldsaVerify key (slice (Config.shake256 (slice b 0 128)) 0 64) (slice b 128 3309) = true →
      (pf 0x82 → F.ownerKey = some key → Granted (.ownRelease f r) s f r 0 0 { s with far := { F with ownerKey := none, counter := F.counter + 1 } })
      ∧ (pf 0x83 → key = Config.makerKey → Granted (.ownRecover f r) s f r 0 0 { s with far := { F with ownerKey := none, counter := F.counter + 1 } }))
    ∧ (∀ b, pf 0x84 → r.buf = some b → bufOk 1952 r = true → F.st = .unowned → F.ownerKey = none →
      Granted (.ownInstall f r) s f r 0 0 { s with far := { F with ownerKey := some (slice b 0 1952) } })
    ∧ (∀ k, k = (s.reqBox f).head → pf 0x85 → a 0 < 2 → a 0 ≠ F.select → Answered (.imgWrite f r) s f r false fun u rep => rep.status = .ok
        ∧ u.far.lck = true ∧ u.far.check = some (.write (a 0) f k, s.now + Config.checkNs s.tick) ∧ u.far.flash0 = F.flash0 ∧ u.far.flash1 = F.flash1)
    ∧ (∀ img slot k at0, img = slice F.window 0 (8192 + getLe F.window 8 8) → F.check = some (.write slot f k, at0) → at0 ≤ s.now → slot < 2 →
      checkImage F.bootKey F.minSvn F.window = 0 → s.settleCheck.far.flash slot = img ∧ s.settleCheck.far.flash (1 - slot) = F.flash (1 - slot)
        ∧ s.settleCheck.far.lck = false ∧ s.settleCheck.far.err = 0)
    ∧ (∀ code g, (code, g) ∈ [(0x40, Instr.rangeSet f r), (0x50, .pdAlloc f r), (0x51, .pdFree f r), (0x52, .mrReg f r), (0x53, .mrDereg f r), (0x54, .qpCreate f r),
        (0x55, .qpModify f r), (0x56, .qpDestroy f r), (0x57, .qpBind f r), (0x71, .gangStop f r), (0x72, .gangRelease f r), (0x73, .stopRead f r),
        (0x74, .groupMove f r), (0x80, .quote f r), (0x81, .extend f r), (0x82, .ownRelease f r), (0x83, .ownRecover f r), (0x84, .ownInstall f r),
        (0x85, .imgWrite f r), (0x86, .imgSelect f r)] → r.code = code → ∀ u, exec g s = .next u →
      (∀ rep, (u.reqBox f).replies.get? ((s.reqBox f).head % 32) = some rep → (s.reqBox f).replies.get? ((s.reqBox f).head % 32) = none → (s.reqBox f).waiting = [] →
        rep.status ≠ .ok → u.slots = s.slots ∧ u.ctxs = s.ctxs ∧ u.mem = s.mem ∧ u.frames = s.frames ∧ u.ranges = s.ranges ∧ u.pds = s.pds ∧ u.regionsMr = s.regionsMr
          ∧ u.qps = s.qps ∧ u.cores = s.cores ∧ u.groups = s.groups ∧ u.far.meas = F.meas ∧ u.far.ownerKey = F.ownerKey ∧ u.far.counter = F.counter
          ∧ u.far.select = F.select ∧ u.far.flash0 = F.flash0 ∧ u.far.flash1 = F.flash1 ∧ u.far.check = F.check))
    ∧ (pf 0x86 → a 0 < 2 → Granted (.imgSelect f r) s f r 0 0 { s with far := { F with select := a 0 } })

/-! ### Events of the host's pages, of kills and of the module -/

/-- R148, R152 and R175 to R178, writes of a register page and the RDMA adapter: KICK starts the watchdog's period again, RHEAD makes room for
waiting records, a work request joins a queue pair, but no receive request a bound one, a packet that its key allows is performed and
acknowledged and one that it does not gets a NAK and leaves the queue pair in ERROR, as a fatal error does, a congestion notification counts,
a SEND on a bound queue becomes launch records, and a request on the wire is sent again until its retries run out. The exchange of RDMA packets
is that of the family of RDMA adapters, which the spec names and does not lay out (log 27). -/
def Obligations.AdapterEvents : Prop :=
  ∀ (s : State) (f pos c q pa : Nat) (x : Qp) (v : Word) (d : List Byte) (p : RdmaPkt),
    let up := (x.st = .rtr ∨ x.st = .rts) ∧ (s.eth x.eth).st = .up
    let ringOnly := fun (c : Nat) (u : State) => MemoryCanonical s → ∀ a, (∀ r, s.rings.get? (s.ctx c).ring = some r →
      0 < r.size ∧ (a < r.base ∨ r.base + 32 * r.size ≤ a)) → u.byte a = s.byte a
    let x' := if p.ecn then { x with cnps := x.cnps + 1 } else x
    let only := fun (u : State) => u = { s with qps := u.qps }
    (s.ctxAt f pos = some c → s.dark f = false →
      (exec (.kickWrite f pos) s = .next (s.modCtx c fun k => { k with wdStart := s.now }))
      ∧ (∀ r, s.rings.get? (s.ctx c).ring = some r →
        (r.rhead ≤ v.toNat → v.toNat ≤ r.rtail → ∃ u r', exec (.rheadWrite f pos v) s = .next u ∧ u.rings.get? (s.ctx c).ring = some r'
          ∧ r'.rhead = v.toNat ∧ r'.recs ++ r'.waiting = r.recs ++ r.waiting
          ∧ r'.rtail = r.rtail + Nat.min r.waiting.length (r.size - (r.rtail - v.toNat)) ∧ ringOnly c u
          ∧ u = { s with rings := u.rings, mem := u.mem, ecc := u.ecc, far := { s.far with irqs := u.far.irqs } })
        ∧ (v.toNat < r.rhead ∨ r.rtail < v.toNat → exec (.rheadWrite f pos v) s = .next s))
      ∧ (s.qps.get? q = some x → x.ctx = c → x.st ≠ .reset → x.st ≠ .error → exec (.rdmaWorkRequest f pos q d) s = .next
          (if Config.isReceive d then (if x.bound.isSome then s else s.setQp q { x with recvs := x.recvs ++ [d] })
           else s.setQp q { x with work := x.work ++ [d] })))
    ∧ (s.qps.get? p.qp = some x → x.st = .init ∨ x.st = .rtr ∨ x.st = .rts →
      (p.op = .fatal → x.work = [] → x.recvs = [] → ∃ u, exec (.rdmaPacketReceived p) s = .next u ∧ u.qps.get? p.qp = some { x with st := .error, rsp := [] } ∧ only u)
      ∧ (p.udp = 4791 → (s.eth x.eth).st = .up →
        (p.op = .cnp → ∃ u, exec (.rdmaPacketReceived p) s = .next u ∧ u.qps.get? p.qp = some { x' with slowed := x.slowed + 1 } ∧ only u)
        ∧ (p.op = .nakInvalid ∨ p.op = .nakAccess → x.work = [] → x.recvs = [] → ∃ u, exec (.rdmaPacketReceived p) s = .next u
          ∧ u.qps.get? p.qp = some { x' with st := .error, rsp := [] } ∧ only u)))
    ∧ (s.qps.get? p.qp = some x → up → p.udp = 4791 → x.rsp = [] →
      let there := fun (perm : Perm) => ∃ t, s.xlateFor x.ctx p.va perm = .ok t ∧ t.chip = s.chip ∧ t.pa = pa ∧ place pa = .hbm ∧ s.moving = []
        ∧ ∀ k, t.bwc = some k → (s.bwClass k).unl = true
      (p.op = .write → p.imm = none → x.own = false → 0 < p.data.length → p.va % 4096 + p.data.length ≤ 4096 → s.keyOk x p.key p.va p.data.length 2 = true →
        there .write → MemoryCanonical s →
          ∃ u, exec (.rdmaPacketReceived p) s = .next u ∧ (∀ a, u.byte a = if pa ≤ a ∧ a < pa + p.data.length then p.data.getD (a - pa) 0 else s.byte a)
            ∧ u.qps.get? p.qp = some { x' with answer := 1, out := [] } ∧ u.slots = s.slots)
      ∧ (p.op = .read → x.own = false → 0 < p.len → p.va % 4096 + p.len ≤ 4096 → s.keyOk x p.key p.va p.len 1 = true → there .read → s.eccHit pa p.len = false →
          ∃ u, exec (.rdmaPacketReceived p) s = .next u ∧ u.qps.get? p.qp = some { x' with answer := 1, out := s.bytes pa p.len } ∧ u.mem = s.mem ∧ u.slots = s.slots)
      ∧ (p.op = .read → s.keyOk x p.key p.va p.len 1 = false → x.work = [] → x.recvs = [] → ∃ u, exec (.rdmaPacketReceived p) s = .next u
          ∧ u.qps.get? p.qp = some { x' with st := .error, answer := 4 } ∧ only u)
      ∧ (p.op = .other → x.work = [] → x.recvs = [] → ∃ u, exec (.rdmaPacketReceived p) s = .next u ∧ u.qps.get? p.qp = some { x' with st := .error, answer := 3 } ∧ only u)
      ∧ (p.op = .send → x.bound = none → x.recvs = [] → ∃ u, exec (.rdmaPacketReceived p) s = .next u ∧ u.qps.get? p.qp = some { x' with answer := 2 } ∧ only u)
      ∧ (p.op = .ack → x.st = .rts → p.data = [] → ∃ u, exec (.rdmaPacketReceived p) s = .next u
          ∧ u.qps.get? p.qp = some { x' with work := x.work.drop 1, tries := 0 } ∧ only u))
    ∧ (s.qps.get? q = some x → up → ∀ k l, x.bound = some k →
      (0 < d.length → d.length % 64 = 0 → d.length ≤ 4096 → (s.ctx x.ctx).queues.get? k = some l → (s.ctx x.ctx).st = .opened →
        l.depth - (l.tail - l.head) < d.length / 64 → exec (.boundReceiveSend q d) s = .next (s.setQp q { x with answer := 2 }))
      ∧ (d.length % 64 ≠ 0 ∨ 4096 < d.length → x.work = [] → x.recvs = [] → ∃ u, exec (.boundReceiveSend q d) s = .next u
          ∧ u.qps.get? q = some { x with st := .error, rsp := [], answer := 3 } ∧ only u)
      ∧ (∀ n, 0 < n → n ≤ 64 → d.length = 64 * n → (s.ctx x.ctx).queues.get? k = some l → n ≤ l.depth - (l.tail - l.head) →
        ∃ u l', exec (.boundReceiveSend q d) s = .next u ∧ (u.ctx x.ctx).queues.get? k = some l' ∧ l'.tail = l.tail + n
          ∧ l'.recs.length = l.recs.length + n ∧ (u.qps.get? q).map (·.answer) = some 1))
    ∧ (s.qps.get? q = some x → x.st = .rts → x.work ≠ [] →
      (x.tries < x.retries → exec (.rocev2Retransmission q) s = .next (s.setQp q { x with tries := x.tries + 1 }))
      ∧ (x.retries ≤ x.tries → ∃ u, exec (.rocev2Retransmission q) s = .next u ∧ u.qps.get? q = some { x with st := .error, work := [], recvs := [], rsp := [] }
          ∧ u.slots = s.slots ∧ ringOnly x.ctx u))

/-- R142 to R146, R148, R150, R152 and R154, the end of a context: a watchdog whose period has run out kills it with reason 3, the end of the
discard and the reports of a purge are counted, the confirmed purge writes the summary record to its ring in HBM4E and starts to zero, a buffer is zeroed, and
the number is free when all is and no record waits for room, the change written ahead in the journal; a reset of the interface or the loss of
the PCIe link kills its contexts with reason 5. A kill that takes the context's threads at once (log 71) and a number that waits for its records
(log 93) are the model's choices. R463 and R464, MODULE_RESET: everything is as after reset but the flash with its select byte, the owner key slot, the transfer counter and the fused
minimum SVN, and the boot ROM runs the selected image, or the other one, or waits with the error. Reference time runs on (log 6). -/
def Obligations.KillEvents : Prop :=
  (∀ (s : State) (c n f : Nat),
    let k := s.ctx c
    let killed := fun (u : State) (reason : Nat) => (u.ctx c).st = .killing ∧ (u.ctx c).reason = reason ∧ (u.ctx c).units = purgeUnits
      ∧ (u.ctx c).routers = List.range 256 ∧ (u.ctx c).faults = 1 ∧ (∀ T : Tid, (u.slot T).st.live = true → (u.thread T).ctx ≠ c)
      ∧ ∀ d, d ≠ c → (u.ctx d).st = (s.ctx d).st
    (k.st = .opened → k.period ≠ 0 → k.wdStart + k.period * 1000 ≤ s.now → k.wdHold = none → s.heldCtx c = false →
      (s.savingCtx c = false → ∃ u, exec (.watchdogExpiry c) s = .next u ∧ killed u 3)
      ∧ (s.savingCtx c = true → exec (.watchdogExpiry c) s = .next (s.modCtx c fun k => { k with wdLate := true })))
    ∧ (k.st = .killing → k.killAt + 3277 ≤ s.now → exec (.killDiscardEnd c n) s = .next (s.modCtx c fun k => { k with routers := k.routers.filter (· ≠ n) }))
    ∧ (k.st = .killing → exec (.purgeDoneReport c n) s = .next (s.modCtx c fun k => { k with units := k.units.filter (· ≠ n) }))
    ∧ (∀ r x, x = ({ item := k.faults, kind := 5, status := .ok, cause := summaryCause k.reason k.cause, reason := k.reason, ctx := c, tag := k.tag, addr := k.faddr, time := s.now } : Rec) →
      k.st = .killing → k.units = [] → k.routers = [] → k.partners = [] → s.rings.get? k.ring = some r → r.waiting = [] → r.rtail - r.rhead < r.size →
      k.kackTo = [] → ∃ u, exec (.purgeConfirmed c) s = .next u ∧ (u.ctx c).st = .zeroing ∧ u.slots = s.slots
        ∧ (MemoryCanonical s → (∀ e ∈ s.spads, e.2 ≠ c) → r.base + 32 * r.size ≤ hbmSize → stored s u (r.base + r.recs.length % r.size * 32) (recBytes x))
        ∧ u.rings.get? k.ring = some { r with rtail := r.rtail + 1, recs := r.recs ++ [x] })
    ∧ (∀ z, s.zeroq.get? n = some z → s.bufferBusy z = false → MemoryCanonical s → ∃ u, exec (.bufferZeroed n) s = .next u
        ∧ (∀ a, z.pa ≤ a → a < z.pa + z.size → u.byte a = 0) ∧ (∀ a, a < z.pa ∨ z.pa + z.size ≤ a → u.byte a = s.byte a)
        ∧ u.zeroq = s.zeroq.erase n ∧ u.slots = s.slots)
    ∧ (∀ r, k.st = .zeroing → (∀ e ∈ s.zeroq, e.2.ctx ≠ c) → s.rings.get? k.ring = some r → r.waiting = [] → s.writesLeft c = false →
      exec (.zeroingDone c) s = .next { s.zeroSpads c with ctxs := s.ctxs.erase c, rings := s.rings.set k.ring { r with live := false } })
    ∧ (f < 64 → k.iface = f → s.ctxs = [(c, k)] → k.st = .opened →
      (∃ u, exec (.functionLevelReset f) s = .next u ∧ killed u 5 ∧ u.far.boxes = s.far.boxes.erase f ∧ u.far.order = s.far.order.filter (· ≠ f))
      ∧ (∃ u, exec .pcieLinkDown s = .next u ∧ killed u 5)))
  ∧ (∀ s : State, ∃ F, exec .moduleReset s = .next { State.reset with now := s.now, agenda := s.agenda, hostw := s.hostw, tick := s.tick + 1, far := F }
    ∧ F.flash0 = s.far.flash0 ∧ F.flash1 = s.far.flash1 ∧ F.select = s.far.select ∧ F.ownerKey = s.far.ownerKey ∧ F.counter = s.far.counter
    ∧ F.minSvn = s.far.minSvn ∧ F.boxes = [] ∧ F.order = []
    ∧ (let a := s.far.select
       let b := 1 - s.far.select
       let err := fun (k : Nat) => if Config.flashBad (s.tick * 2 + k) then 7 else checkImage s.far.ownerKey s.far.minSvn (s.far.flash k)
       (err a = 0 → F.svn = imageSvn (s.far.flash a)) ∧ (err a ≠ 0 → err b = 0 → F.svn = imageSvn (s.far.flash b))
       ∧ (err a = 0 ∨ err b = 0 → F.st = (if s.far.ownerKey.isSome then .run else .unowned) ∧ F.err = 0)
       ∧ (err a ≠ 0 → err b ≠ 0 → F.st = .bootfail ∧ F.err = err a)))

/-! ### Events of the Farrier's mailboxes, of its control core and of boot -/

/-- R450 to R457 and R460 to R464, the events of the Farrier: RQTAIL posts the requests that the host has written and RPHEAD returns room, each
ignored out of its range; the Farrier takes the oldest request with room for its reply, serves it, here IMG_SELECT, and refuses a code of no request with FAULT; a
heartbeat restarts the period and ends a recovery; a missed one resets the control core, RECOVERING, or FAILED on the second within 1 s;
IMGCTL.GO runs an accepted image from the window and a refused one leaves its error code. Which request a reset cut short is free (log 35);
that GO is acted on throughout UNOWNED, and how long a check takes, are the model's readings (log 28). -/
def Obligations.FarrierEvents : Prop :=
  ∀ (s : State) (f : Nat) (v : Word) (reqs : List Req) (img : List Byte),
    let b := s.reqBox f
    let F := s.far
    (f < 64 → (f = 0 → F.st ≠ .bootfail) →
      (b.tail ≤ v.toNat → v.toNat ≤ b.head + 32 → reqs.length = v.toNat - b.tail → ∃ u, exec (.rqtailWrite f v reqs) s = .next u
        ∧ (u.reqBox f).tail = v.toNat ∧ (u.reqBox f).head = b.head
        ∧ (b.head ≤ b.tail → ∀ i, i < reqs.length → (u.reqBox f).slots.get? ((b.tail + i) % 32) = reqs[i]?)
        ∧ u.far.order = F.order ++ List.replicate reqs.length f ∧ (∀ g, g ≠ f → u.reqBox g = s.reqBox g)
        ∧ u = { s with far := { F with boxes := u.far.boxes, order := u.far.order } })
      ∧ (v.toNat < b.tail ∨ b.head + 32 < v.toNat → exec (.rqtailWrite f v reqs) s = .next s)
      ∧ (b.rphead ≤ v.toNat → v.toNat ≤ b.rptail → exec (.rpheadWrite f v) s = .next (s.modReqBox f fun b => { b with rphead := v.toNat }))
      ∧ (v.toNat < b.rphead ∨ b.rptail < v.toNat → exec (.rpheadWrite f v) s = .next s))
    ∧ (∀ r, F.takes = true → (∃ l, F.order = f :: l) → b.waiting = [] → b.rptail - b.rphead < 32 →
      b.slots.get? (b.head % 32) = some r →
      let taken := fun (st : Status) (sel : Nat) => ∃ (u : State) (rep : Reply), exec (.farrierTakeRequest f) s = .next u
        ∧ u.far.order = F.order.drop 1 ∧ (u.reqBox f).head = b.head + 1
        ∧ (u.reqBox f).rptail = b.rptail + 1 ∧ (u.reqBox f).replies.get? (b.head % 32) = some rep ∧ rep.code = r.code ∧ rep.reqId = r.reqId
        ∧ rep.status = st ∧ u.far.select = sel ∧ u.slots = s.slots ∧ u.mem = s.mem ∧ u.ctxs = s.ctxs ∧ u.frames = s.frames
      (serveOf r.code = none → taken .fault F.select)
      ∧ (r.code = 0x86 → r.clean = true → r.ctx = 0 → f = 0 → (r.args.getD 0 0).toNat < 2 →
          (F.journalTx f r.reqId (pieceChanges s.pieces ({ s with far := { F with select := (r.args.getD 0 0).toNat } } : State).pieces)).isSome = true →
          taken .ok (r.args.getD 0 0).toNat))
    ∧ (F.lastBeat + 1000000 ≤ s.now → s.now < F.lastBeat + 10000000 →
      (F.st = .run ∨ F.st = .unowned → exec .heartbeat s = .next { s with far := { F with lastBeat := s.now } })
      ∧ (F.st = .recovering → exec .heartbeat s = .next { s with far := { F with lastBeat := s.now, st := if F.bootKey.isSome then .run else .unowned } }))
    ∧ (F.lastBeat + 10000000 ≤ s.now → (F.st = .run ∨ F.st = .unowned ∨ F.st = .recovering) → ∃ u, exec .heartbeatTimeout s = .next u
        ∧ u.far.rst = Nat.min 255 (F.rst + 1) ∧ u.far.lastBeat = s.now ∧ u.slots = s.slots
        ∧ (F.journal = [] → F.order = [] → u.mem = s.mem ∧ u.ctxs = s.ctxs)
        ∧ (∀ t, F.lastReset = some t → s.now ≤ t + 1000000000 → u.far.st = .failed ∧ u.far.irqs = F.irqs + 1 ∧ u.mem = s.mem ∧ u.ctxs = s.ctxs)
        ∧ ((∀ t, F.lastReset = some t → t + 1000000000 < s.now) → u.far.st = .recovering))
    ∧ (∀ (x y z : JRec) (k : Nat) (o n : JVal), x.kind = .begin_ → x.image = none → y.kind = .update → y.image = some (k, o, n) → z.kind = .commit →
      z.image = none → y.tx = x.tx → z.tx = x.tx → recoveredValues [x, y] = [(k, o)] ∧ recoveredValues [x, y, z] = [(k, n)])
    ∧ ((F.st = .bootfail ∨ F.st = .unowned) →
      (F.lck = false → F.check = none → img.length ≤ 0x800000 → exec (.imgctlGo img) s = .next
        { s with far := { F with window := img, lck := true, check := some (.go, s.now + Config.checkNs s.tick) }, tick := s.tick + 1 })
      ∧ (F.lck = true → F.check ≠ none → exec (.imgctlGo img) s = .next s)
      ∧ (∀ at0, F.check = some (.go, at0) → at0 ≤ s.now → let e := checkImage F.ownerKey F.minSvn F.window
        let u := s.settleCheck
        u.far.lck = false ∧ u.far.check = none ∧ u.far.err = e ∧ u = { s with far := u.far }
        ∧ (e = 0 → u.far.st = (if F.ownerKey.isSome then .run else .unowned) ∧ u.far.src = true ∧ u.far.svn = imageSvn F.window)
        ∧ (e ≠ 0 → u.far.st = F.st ∧ u.far.meas = F.meas)))

/-! ### Events of the links -/

/-- R419 and R429 to R435, the events of a Huivo port: the pod register is written while every port is DOWN and no context is open; EN, RST and
WIDEN move the port; training, its timeout, that of a retraining, signal and lost lanes change its state and width, and the lane-map exchange
says what the other end has to know; a block in sequence is accepted and acknowledged, any other asks for a resend; without a correct trailer
for 10 µs the port retrains. -/
def Obligations.LinkEvents : Prop :=
  ∀ (s : State) (p lane : Nat) (v : Word) (m : Lanes) (b : LinkBlock) (why : LaneLoss), p < 6 →
    let l := s.link p
    let at_ := fun (i : Instr) (post : Link → Prop) => ∃ u, exec i s = .next u ∧ post (u.link p) ∧ (∀ q, q ≠ p → u.link q = s.link q) ∧ u.slots = s.slots
      ∧ u.mem = s.mem
    let down := fun (x : Link) => x.st = .down ∧ x.queue = [] ∧ x.replay = [] ∧ x.txw = 0 ∧ x.rxw = 0 ∧ x.stateAt = s.now
    let trained := fun (x : Link) => x.txMask = m.tx ∧ x.rxMask = m.rx ∧ x.txw = widthOf m.tx ∧ x.rxw = widthOf m.rx
      ∧ x.st = (if m.tx = 255 ∧ m.rx = 255 then .active else .narrow) ∧ x.upSince = s.now
    let late := fun (ns : Nat) => l.stateAt + ns ≤ s.now →
      (l.fails + 1 < 8 → at_ (.trainingTimeout p) fun x => down x ∧ x.fails = l.fails + 1)
      ∧ (l.fails = 7 → ∃ u, exec (.trainingTimeout p) s = .next u ∧ (u.link p).st = .failed ∧ u.far.irqs = s.far.irqs + 1)
    let without := fun (x : BitVec 8) => x &&& ~~~(BitVec.ofNat 8 (2 ^ lane))
    let seen := why = .signal ∨ (why = .corrected ∧ 65536 < l.corrected lane s.now) ∨ (why = .uncorrectable ∧ 4 ≤ l.badRun.getD lane 0)
    ((∀ q, q < 6 → (s.link q).st = .down) → s.ctxs = [] → s.dark 0 = false → exec (.hvpodWrite v) s = .next { s with hvpod := v &&& 0x77F03FF })
    ∧ (l.st = .down → l.peer = true → s.dark 0 = false → at_ (.hvctlEn p true) fun x => x.st = .train ∧ x.en = true ∧ x.stateAt = s.now)
    ∧ (l.up = true → s.dark 0 = false → at_ (.hvctlEn p false) fun x => down x ∧ x.en = false)
    ∧ (l.st = .failed → s.dark 0 = false → at_ (.hvctlRst p) fun x => x.st = .down ∧ x.fails = 0)
    ∧ (l.st = .narrow → s.dark 0 = false → at_ (.hvctlWiden p) fun x => x.st = .retrain ∧ x.replay = l.replay ∧ x.txSeq = l.txSeq ∧ x.rxNext = l.rxNext)
    ∧ (m.tx ≠ 0 → m.rx ≠ 0 → (l.st = .train → at_ (.trainingEnd p m) fun x => trained x ∧ x.rxNext = 0 ∧ x.acked = 0)
        ∧ (l.st = .retrain → s.now ≤ l.stateAt + 500000 → at_ (.trainingEnd p m) fun x => trained x ∧ x.rxNext = l.rxNext ∧ x.acked = l.acked
            ∧ x.txHeld = true ∧ x.lmap = some (false, laneMap m.rx) ∧ x.sent = [.lmap (laneMap m.rx) m.rx (some l.rxNext)]))
    ∧ (l.st = .train → late 100000000) ∧ (l.st = .retrain → late 500000)
    ∧ (l.up = true → at_ (.peerSignalLost p) fun x => down x ∧ x.peer = false)
    ∧ (l.st = .down → l.en = true → at_ (.peerSignalDetected p) fun x => x.st = .train ∧ x.peer = true)
    ∧ (∀ left, l.up = true → lane < 8 →
        (l.txMask.getLsbD lane = true → left = without l.txMask →
          (left ≠ 0 → at_ (.laneLost p true ⟨lane, .signal⟩) fun x => x.st = .narrow ∧ x.txMask = left ∧ x.txw = widthOf left ∧ x.rxw = l.rxw
            ∧ x.txHeld = true ∧ x.lmap = some (true, laneMap left) ∧ x.sent = [.lmap (laneMap left) left none])
          ∧ (left = 0 → at_ (.laneLost p true ⟨lane, .signal⟩) fun x => x.st = .retrain))
        ∧ (l.rxMask.getLsbD lane = true → left = without l.rxMask → left ≠ 0 → seen →
          at_ (.laneLost p false ⟨lane, why⟩) fun x => x.st = .narrow ∧ x.rxMask = left ∧ x.rxw = widthOf left ∧ x.txw = l.txw
            ∧ x.lmap = some (false, laneMap left) ∧ x.sent = [.lmap (laneMap left) left (some l.rxNext)]))
    ∧ (l.up = true →
        (at_ (.lmap p m.tx m.rx none) fun x => x.st = widthState l.txw (lanesIn m.tx) ∧ x.rxMask = m.rx ∧ x.rxw = lanesIn m.tx ∧ x.txw = l.txw
          ∧ x.sent = [.lack m.tx])
        ∧ ∀ n, at_ (.lmap p m.tx m.rx (some n)) fun x => x.st = widthState (lanesIn m.tx) l.rxw ∧ x.txMask = m.rx ∧ x.txw = lanesIn m.tx ∧ x.rxw = l.rxw
          ∧ x.txHeld = false ∧ x.sent.head? = some (.lack m.tx))
    ∧ (∀ tx, l.lmap = some (tx, m.tx) → at_ (.lack p m.tx) fun x => x.lmap = none ∧ x.txw = l.txw ∧ x.rxw = l.rxw ∧ (tx = true → x.txHeld = false))
    ∧ (l.up = true → l.fits = true → b.good = true → b.lost = 0 → b.flits = List.replicate 8 .null → b.nak = false → b.cr = 0 →
        (b.seq % 4096 = l.rxNext → at_ (.linkBlock p b) fun x => x.rxNext = (l.rxNext + 8) % 4096 ∧ x.nakSent = false ∧ x.lastTrailer = s.now)
        ∧ (b.seq % 4096 ≠ l.rxNext → at_ (.linkBlock p b) fun x => x.rxNext = l.rxNext ∧ x.nakSent = true ∧ x.lastTrailer = s.now))
    ∧ (l.up = true → b.good = false → at_ (.linkBlock p b) fun x => x.rxNext = l.rxNext ∧ x.nakSent = true ∧ x.lastTrailer = l.lastTrailer)
    ∧ (l.up = true → l.lastTrailer + 10000 ≤ s.now → at_ (.trailerTimeout p) fun x => x.st = .retrain ∧ x.replay = l.replay)

/-! ### Events of packets -/

/-- R116 and R425 to R427, the requests of other chips: AT, FE and BAR whose checks allow them are performed at their home, in their order, and
answered OK, RD and WR word by word and then answered; one that a check refuses is answered with its status and changes nothing else; MSG and
SPN go to the core they name, PUT to the core that holds its group or to the name's home agent, on another chip too. Where AUX and ADDR hold the
operands of PUT, MSG and SPN, and the form of BAR's answer, are the model's choice (log 13). -/
def Obligations.RequestPackets : Prop :=
  ∀ (s m : State) (p : Packet) (i pa : Nat) (e : Transit),
    let ctx := (s.ctxOfTag p.tag).getD 256
    let mine := fun (k : PKind) => s.arrived p k = some i ∧ s.packetCheck p = none ∧ s.transit[i]? = some e
    let ok := fun (k : PKind) => mine k ∧ s.gate 256 (.far p.src p.seq) ctx { chip := s.chip, pa := p.addr, bwc := some p.cls, loc := false }
          p.bytes (Packet.writes p) = .go pa m
    let at_ := p.addr + e.got.length
    let n := Nat.min (8 - at_ % 8) (p.bytes - e.got.length)
    let word_ := fun (k : PKind) => mine k ∧ p.sub = .plain
      ∧ s.gateFor 256 (.far p.src p.seq) ctx { chip := s.chip, pa := at_, bwc := if e.got = [] then some p.cls else none, loc := false } n p.bytes
          (Packet.writes p) = .go pa m
    let done := fun (u : State) (aux : Nat) (d : List Byte) =>
      (Host.Outcome.next ((u.takePacket i).post (Packet.answer p .rsp .ok aux d)) : Host.Outcome State Fault Refusal)
    let step_ := fun (u : State) (got : List Byte) (d : List Byte) => if got.length < p.bytes then
        (Host.Outcome.next { u with transit := u.transit.modify i fun e => { e with got := got } } : Host.Outcome State Fault Refusal) else done u 0 d
    let item := fun (k : ItemKind) (n c : Nat) => ({ id := n, kind := k, tid := none, gen := 0, ctx := ctx, tag := p.tag, hnd := p.hnd, priv := false, ev := none, st := .flying c, pkt := some p } : Item)
    let lands := fun (x : Instr) (k : ItemKind) (c : Nat) => (∀ j ∈ s.items, j.pkt = none) →
      exec x s = .next { s.takePacket i with items := s.items ++ [item k s.nextItem c], nextItem := s.nextItem + 1 }
    let put := (.vput p.aux p.addr (BitVec.ofNat 1024 (valOf p.data)) : ItemKind)
    let home := p.aux / 2 ^ 22 % 2 ^ 10
    (word_ .rd → m.eccHit pa n = false → exec (.rd p) s = step_ m (e.got ++ m.bytes pa n) (e.got ++ m.bytes pa n))
    ∧ (∀ d, d = (p.data.drop e.got.length).take n → word_ .wr → d.length = n → exec (.wr p) s = step_ (m.storeFor ctx pa d) (e.got ++ d) [])
    ∧ (∀ op n want o old m', ok .at_ → p.sub = .atom op n want o → m.doAtom op pa n (getLe p.data 0 8) (getLe p.data 8 8) = (some old, m') →
        exec (.at_ p) s = done (m'.claim ctx pa n) 0 (if want then bytesOf n old else []))
    ∧ (ok .fe → (p.sub = .stf → exec (.fe p) s = done ((m.storeFor ctx pa p.data).fill pa) 0 [])
        ∧ (p.sub = .empt → exec (.fe p) s = done (m.setFull pa false) 0 [])
        ∧ (p.sub = .feq → exec (.fe p) s = done m 0 [BitVec.ofNat 8 (b2n (m.isFull pa))])
        ∧ (∀ clear, p.sub = .lde clear → m.isFull pa = true → m.eccHit pa 8 = false →
            exec (.fe p) s = done (if clear then m.setFull pa false else m) 0 (m.bytes pa 8))
        ∧ (∀ clear, p.sub = .lde clear → m.isFull pa = false →
            exec (.fe p) s = .next (({ m with ldeq := m.ldeq ++ [{ pa := pa, clear := clear, who := .far p }] } : State).takePacket i)))
    ∧ (∀ op g v m', ok .bar → p.sub = .bar op g →
        m.barOp op pa { tag := p.tag, chip := p.src, core := fld p.hnd 16 8, group := if g = 0 then none else some g } p.hnd (some p) = .ok v m' →
        exec (.bar p) s = done m' 0 (bytesOf 8 v))
    ∧ (∀ st, s.packetCheck p = some st →
        let no := (Host.Outcome.next ((s.takePacket i).post (Packet.answer p .rsp st 0 [])) : Host.Outcome State Fault Refusal)
        (s.arrived p .rd = some i → exec (.rd p) s = no) ∧ (s.arrived p .wr = some i → exec (.wr p) s = no)
        ∧ (s.arrived p .at_ = some i → exec (.at_ p) s = no) ∧ (s.arrived p .fe = some i → exec (.fe p) s = no)
        ∧ (s.arrived p .bar = some i → exec (.bar p) s = no))
    ∧ (s.arrived p .put = some i → (∀ g, s.liveGroup p.aux = some g → g.onCore = true → lands (.put p) put g.core)
        ∧ (s.liveGroup p.aux = none → (home = s.chip → lands (.put p) put (p.aux / 2 ^ 14 % 2 ^ 8))
          ∧ (home ≠ s.chip → s.inPod home = true → exec (.put p) s = .next ((s.takePacket i).post { p with dst := home }))))
    ∧ (s.arrived p .msg = some i → lands (.msg p) (.send (p.aux % 2 ^ 24) p.data.length (p.aux / 2 ^ 24 % 2 ^ 2) p.data) (p.aux / 2 ^ 6 % 2 ^ 8))
    ∧ (s.arrived p .spn = some i → lands (.spn p) (.spnr s.chip (p.aux / 2 ^ 8 % 2 ^ 8) (p.aux % 2 ^ 8)
        ((List.range 4).map fun k => word (getLe p.data (8 * k) 8)) 0) (p.aux / 2 ^ 8 % 2 ^ 8))

/-- R420, R425, R428 and R434, the way of packets and their answers: a packet for another chip joins the queue of its route's port, or is
answered LINKDOWN by this chip where that port is down or the chip is not in the pod; KILL kills the context with reason 6 when a range-table
entry of its source has the tag and KACK settles a partner; RSP completes the operation it answers, RTY starts its timer again and has the
access sent later, and an operation whose timer has run out ends with LINKDOWN, but not a message that its mailbox has listed. An answer waits
while the clock of the core it goes to stands. The codes of a message's RTY and a listed message without a timer are the model's choices (log
13), as are a packet that keeps its escape channel at the chips after a dateline (log 106) and the times at which a refused access goes again
(logs 58 and 66). -/
def Obligations.AnswerPackets : Prop :=
  ∀ (s : State) (p : Packet) (i port c : Nat) (t : Tx) (e : Transit),
    let gone := s.takePacket i
    let awake := ∀ k, s.txCore t = some k → (s.core k).clockRuns = true
    let found := s.tx? p.seq = some t ∧ t.seq = p.seq ∧ awake
    let rest := s.txs.filter fun e => e.seq ≠ p.seq
    let linkdown := (Host.Outcome.next (gone.post { Packet.answer p .rsp .linkdown 0 [] with src := s.chip }) : Host.Outcome State Fault Refusal)
    (s.transit[i]? = some e → e.pkt = p → p.dst ≠ s.chip → s.behindPacket i p = false →
      (s.inPod p.dst = true → s.route p.dst = some port →
        ((s.link port).up = true → exec (.packetForward i) s = .next (gone.modLink port fun l =>
          ({ l.begin_ with queue := l.queue ++ [({ p with esc := decide (s.vcOf e port = 3) }, s.vcOf e port, PKind.cls p.kind)] } : Link).pump false))
        ∧ ((s.link port).st = .down ∨ (s.link port).st = .failed → PKind.asks p.kind = true → exec (.packetForward i) s = linkdown))
      ∧ (s.inPod p.dst = false → PKind.asks p.kind = true → exec (.packetForward i) s = linkdown))
    ∧ (s.arrived p .kill = some i →
      (∀ r, s.ranges.get? (p.src * 16) = some r → r.perm / 8 % 2 = 1 → r.ctag = p.tag → s.ctxOfTag p.tag = some c → (s.ctx c).st = .opened →
        (∃ u, exec (.killPacket p) s = .next u ∧ (u.ctx c).st = .killing ∧ (u.ctx c).reason = 6 ∧ (u.ctx c).kackTo = (s.ctx c).kackTo ++ [p]))
      ∧ (s.ranges = [] → ∃ u, exec (.killPacket p) s = .next u ∧ u.ctxs = s.ctxs ∧ u.transit = s.transit.eraseIdx i ∧ u.slots = s.slots))
    ∧ (s.arrived p .kack = some i → found → t.what = .kill c p.src →
        exec (.kack p) s = .next ({ gone with txs := rest }.modCtx c fun k => { k with partners := k.partners.filter (· ≠ p.src) }))
    ∧ (s.arrived p .rsp = some i → found → t.pkt.tag = p.tag →
      (∀ id k n ch x rs pa, t.what = .item id → (s.items.find? fun j => j.id = id) = some k → (k.kind = .vput n ch x ∨ k.kind = .send n ch pa rs) →
        ∃ u, exec (.rsp p) s = .next u ∧ (∃ j ∈ u.items, j.id = id ∧ j.st = .answered p.status p.aux) ∧ u.txs = rest ∧ u.mem = s.mem ∧ u.slots = s.slots)
      ∧ (∀ id x off, t.what = .store id → s.stores.find? (fun y => y.id = id) = some x → place x.tgt.pa = .spad c off →
        (p.status = .ok → exec (.rsp p) s = .next ({ gone with txs := rest }.setPhase id .done))
        ∧ (p.status ≠ .ok → exec (.rsp p) s = .next ({ gone with txs := rest }.setPhase id (.refused p.status)))))
    ∧ (s.arrived p .rsp = some i → s.tx? p.seq = none → exec (.rsp p) s = .next gone)
    ∧ (s.arrived p .rty = some i → found → ∀ u, u = ({ gone with txs := s.txs.map fun e => if e.seq = p.seq then { e with due := s.now + 2000000 } else e } : State) →
      (∀ id, t.what = .store id → exec (.rty p) s = .next (u.setPhase id (.retry (s.now + 205))))
      ∧ (∀ id, t.what = .item id → t.pkt.kind = .put → exec (.rty p) s = .next (u.modItem id fun j => { j with st := .later (s.now + mesh1024) }))
      ∧ (∀ id, t.what = .item id → t.pkt.kind = .msg → p.aux = rtyListed → exec (.rty p) s = .next (u.modItem id fun j => { j with st := .listed }))
      ∧ (∀ T k, t.what = .load T k → exec (.rty p) s = .next { u with fullq := s.fullq ++ [(.tx p.seq, s.now + 205)] })
      ∧ (∀ h, t.what = .bar h → exec (.rty p) s = .next (u.askLater h)))
    ∧ (∀ q, s.tx? q = some t → t.seq = q → awake → t.due ≤ s.now →
      (∀ id x, t.what = .store id → s.stores.find? (fun y => y.id = id) = some x → exec (.packetTimerExpiry q) s =
          .next ({ s with txs := s.txs.filter fun e => e.seq ≠ q }.setPhase id (.refused .linkdown)))
      ∧ (∀ id j, t.what = .item id → s.item? id = some j → j.st = .listed → exec (.packetTimerExpiry q) s = .next s)
      ∧ (∀ ctx chip, t.what = .kill ctx chip → ∃ u, exec (.packetTimerExpiry q) s = .next u ∧ chip ∉ (u.ctx ctx).partners
          ∧ u.txs = s.txs.filter (fun e => e.seq ≠ q)))

/-! ### Events of the Ethernet ports and of power -/

/-- R437, the nine events of an Ethernet port: each moves it to the state of its row, notes the time, and a fault that lasts 100 ms interrupts
the host driver; a fault at a port that is not UP changes nothing. -/
def Obligations.EthernetEvents : Prop :=
  ∀ (s : State) (q : Nat) (aui fast : Bool), q < 2 →
    let x := s.eth q
    let moves := fun (i : Instr) (post : Eth → Prop) => ∃ u, exec i s = .next u ∧ post (u.eth q) ∧ (u.eth q).since = s.now ∧ u.eth (1 - q) = s.eth (1 - q)
      ∧ u = { s with eths := u.eths }
    (x.st = .down → moves (.ethernetEnable q aui) fun y => y.st = (if aui then .train else .neg) ∧ y.aui = aui ∧ y.retry = false)
    ∧ (moves (.ethernetDisable q) fun y => y.st = .down ∧ y.retry = false ∧ y.speed = 0)
    ∧ (x.st = .neg → moves (.ethernetAgreement q) fun y => y.st = .train)
    ∧ (x.st = .train → moves (.ethernetTrained q fast) fun y => y.st = .up ∧ y.speed = (if fast then 2 else 1))
    ∧ (x.st = .neg ∨ x.st = .train → x.since + 500000000 ≤ s.now → moves (.ethernetNegTimeout q) fun y => y.st = .down ∧ y.retry = true)
    ∧ (x.st = .down → x.retry = true → x.since + 1000000000 ≤ s.now → moves (.ethernetRetry q) fun y => y.st = (if x.aui then .train else .neg))
    ∧ (x.st = .up → moves (.ethernetFault q) fun y => y.st = .fault)
    ∧ (x.st = .fault → s.now < x.since + 100000000 → moves (.ethernetFaultClear q) fun y => y.st = .up)
    ∧ (x.st = .fault → x.since + 100000000 ≤ s.now → ∃ u, exec (.ethernetFaultTimeout q) s = .next u ∧ (u.eth q).st = .down ∧ u.far.irqs = s.far.irqs + 1
        ∧ u.slots = s.slots)
    ∧ (x.st ≠ .up → exec (.ethernetFault q) s = .next s)

/-- R439 to R449, the events of power: a division of a die's budget is made and reaches the cores, which keep at least their floor; CURBDIE is
written; CPWR asks for a frequency or a wake and the ramp ends at it; a droop pauses the clock and then halves it; a lost phase derates the
die; and a core goes idle, to retention or gated, is woken by something to do, ramps when its cluster grants it, and is ON again. One phase for
each PHASE_LOSS (log 76) and a power register that a gated core keeps (log 37) are the model's readings. -/
def Obligations.PowerEvents : Prop :=
  ∀ (s : State) (c d mv : Nat) (v : Word), c < 256 → d < 2 →
    let k := s.core c
    let x := s.die d
    let set := fun (i : Instr) (k' : Core) => exec i s = .next (s.setCore c k')
    let goes := fun (i : Instr) (st : Pow) => ∃ u, exec i s = .next u ∧ (u.core c).pow = st ∧ (∀ j, j ≠ c → u.core j = s.core j) ∧ u.slots = s.slots
      ∧ u.mem = s.mem
    (x.divs * 10000 ≤ s.now → ∃ u, exec (.curbDivision d) s = .next u ∧ (u.die d).ovr = (s.division d).2 ∧ (u.die d).divs = s.now / 10000 + 1
        ∧ (u.die d).shares = x.shares ++ [(s.now / 10000 * 10000 + 1000, (s.division d).1)] ∧ u.cores = s.cores)
    ∧ (∀ t g l, x.shares = (t, g) :: l → t ≤ s.now → ∃ u, exec (.fdutyUpdate d) s = .next u ∧ (u.die d).shares = l ∧ u.slots = s.slots
        ∧ ((∀ e ∈ g, e.1 = c → e.2 = mv) → (∃ e ∈ g, e.1 = c) → (u.core c).fduty = Nat.max mv (s.floor c)))
    ∧ (s.dark 0 = false → exec (.curbdieWrite d v) s = .next (s.modDie d fun x => { x with bud := Nat.min 2048 (v.toNat % 4096) }))
    ∧ (x.pw ≠ 0 → exec (.phaseLoss d) s = .next (s.modDie d fun x => { x with pw := x.pw - 1, der := true, unsched := some (s.now + 1000) }).irq)
    ∧ (s.dark 0 = false → k.freqRamp = false → bitN v.toNat 3 = false → ∀ f, f = freqStored (v.toNat / 2 ^ 32 % 2 ^ 8) →
        set (.cpwrFreqWrite c v) { k with freqNew := if f = k.freq then none else some f, reti := v.toNat / 2 ^ 16 % 2 ^ 8, gati := v.toNat / 2 ^ 8 % 2 ^ 8 })
    ∧ (∀ f, k.freqRamp = true → k.freqNew = some f → set (.frequencyRampEnd c) { k with freq := f, freqNew := none, freqRamp := false })
    ∧ (k.pow = .idle → goes (.cpwrWake c) .on ∧ (s.coreBusy c = true → goes (.coreWakeEvent c) .on))
    ∧ (k.pow = .retention ∨ k.pow = .gated → (∃ u, exec (.cpwrWake c) s = .next u ∧ (u.core c).wakePend = true ∧ (u.core c).pow = k.pow)
        ∧ (s.coreBusy c = true → ∃ u, exec (.coreWakeEvent c) s = .next u ∧ (u.core c).wakePend = true ∧ (u.core c).pow = k.pow))
    ∧ (k.clockRuns = true → k.dthr ≠ 0 → k.dthr < mv →
        set (.droopTrip c mv) { k with paused := true, pauseEnd := s.now + cyclesNs 6 k.clock, halve := k.cyc + 63 })
    ∧ (k.paused = true → k.pauseEnd ≤ s.now → set (.droopPauseEnd c) { k with paused := false })
    ∧ (k.halve < k.cyc → set (.droopHalvingEnd c) { k with halve := 0 })
    ∧ (k.clockRuns = true → s.coreBusy c = false → k.busyAt + 64 ≤ k.cyc → goes (.coreIdle c) .idle)
    ∧ (k.pow = .idle → k.reti ≠ 0 → k.idleSince + k.reti * 10000 ≤ s.now → goes (.coreRetention c) .retention)
    ∧ (k.pow = .idle → k.gati ≠ 0 → k.idleSince + k.gati * 10000 ≤ s.now → s.coreEmpty c = true → goes (.coreGated c) .gated)
    ∧ ((∀ j, j < 256 → clusterOf j = clusterOf c → (s.core j).ramping = false ∧ (j ≠ c → (s.core j).wakePend = false)) → k.wakePend = true → k.entered + 20000 ≤ s.now →
        (k.pow = .retention ∨ k.pow = .gated) → set (.inrushGrant (clusterOf c)) { k with ramping := true, rampAt := s.now })
    ∧ (k.ramping = true → k.rampAt + 500 ≤ s.now →
        (k.pow = .retention → goes (.rampEnd c) .on ∧ ∃ u, exec (.rampEnd c) s = .next u ∧ (u.core c).ramping = false ∧ (u.core c).boxes = k.boxes)
        ∧ (k.pow = .gated → ∃ u, exec (.rampEnd c) s = .next u ∧ (u.core c).pow = .on ∧ (u.core c).ramping = false ∧ (u.core c).boxes = []
            ∧ (u.core c).freq = k.freq ∧ ∀ a, a < spadSize → u.byte (localPa c a) = 0))
end

