-- ==== Sys2Proof/Laws/Mem.lean ====
section
/-! SUPPORT. Laws of memory: a read after a write, and that every memory operation keeps the canonical form. -/

namespace Sys2Proof.Machine

/-- Every listed address is above `a`. -/
def Memory.Above (m : List Host.Cell) (a : Nat) : Prop := ∀ c ∈ m, a < c.1

theorem Memory.wf_cons (c : Host.Cell) (m : List Host.Cell) :
    Memory.wf (c :: m) = true ↔ c.2 ≠ memDefault ∧ Memory.Above m c.1 ∧ Memory.wf m = true := by
  induction m generalizing c with
  | nil => simp [Memory.wf, Memory.Above]
  | cons d m ih =>
    simp only [Memory.wf, Bool.and_eq_true, decide_eq_true_eq]
    constructor
    · rintro ⟨⟨h, l⟩, w⟩
      have hd := (ih d).1 w
      refine ⟨h, ?_, w⟩
      intro x hx
      rcases List.mem_cons.1 hx with rfl | hx
      · exact l
      · exact Nat.lt_trans l (hd.2.1 x hx)
    · rintro ⟨h, l, w⟩
      exact ⟨⟨h, l d (List.mem_cons_self ..)⟩, w⟩

theorem Memory.get_above {m : List Host.Cell} {a b : Nat} (h : Memory.Above m a) (hb : b ≤ a) : Memory.get m b = memDefault := by
  cases m with
  | nil => rfl
  | cons c m =>
    have := h c (List.mem_cons_self ..)
    simp only [Memory.get]
    rw [if_neg (by omega), if_pos (by omega)]

theorem Memory.get_put {m : List Host.Cell} (w : Memory.wf m = true) (a : Nat) (v : Byte) (b : Nat) :
    Memory.get (Memory.put m a v) b = if b = a then v else Memory.get m b := by
  induction m with
  | nil =>
    simp only [Memory.put]
    split
    · next h => subst h; split <;> rfl
    · simp only [Memory.get]
      by_cases h : b = a
      · simp [h]
      · rw [if_neg (Ne.symm h), if_neg h]; split <;> rfl
  | cons c m ih =>
    obtain ⟨j, x⟩ := c
    have hc := (Memory.wf_cons (j, x) m).1 w
    have above : ∀ {i : Nat}, i ≤ j → Memory.get m i = memDefault := fun h => Memory.get_above hc.2.1 h
    by_cases e : b = a
    · subst e
      rw [if_pos rfl]
      simp only [Memory.put]
      split
      · next lt =>
        split
        · next hv => subst hv; simp only [Memory.get]; rw [if_neg (by omega), if_pos lt]
        · simp [Memory.get]
      · split
        · next ge eq =>
          subst eq
          split
          · next hv => subst hv; exact above (Nat.le_refl _)
          · simp [Memory.get]
        · next ge ne =>
          have l : ¬ b < j := ge
          simp only [Memory.get]
          rw [if_neg ne, if_neg l, ih hc.2.2, if_pos rfl]
    · rw [if_neg e]
      simp only [Memory.put]
      split
      · next lt =>
        split
        · rfl
        · rw [Memory.get, if_neg (fun h => e h.symm)]
          split
          · next h => exact (Memory.get_above (m := (j, x) :: m) (a := a) (b := b) (by
              intro y hy
              rcases List.mem_cons.1 hy with rfl | hy
              · exact lt
              · exact Nat.lt_trans lt (hc.2.1 y hy)) (by omega)).symm
          · rfl
      · split
        · next ge eq =>
          subst eq
          split
          · rw [Memory.get, if_neg (fun h => e h.symm)]
            split
            · next h => exact above (by omega)
            · rfl
          · have ne : ¬ j = b := fun h => e h.symm
            simp only [Memory.get, if_neg ne]
        · next ge ne =>
          simp only [Memory.get]
          rw [ih hc.2.2, if_neg e]

theorem Memory.above_put {m : List Host.Cell} {a j : Nat} (h : Memory.Above m j) (l : j < a) (v : Byte) :
    Memory.Above (Memory.put m a v) j := by
  induction m with
  | nil => intro c hc; simp only [Memory.put] at hc; split at hc <;> simp at hc; subst hc; exact l
  | cons d m ih =>
    obtain ⟨i, x⟩ := d
    have hd := h (i, x) (List.mem_cons_self ..)
    have hm : Memory.Above m j := fun c hc => h c (List.mem_cons_of_mem _ hc)
    intro c hc
    simp only [Memory.put] at hc
    split at hc
    · split at hc
      · exact h c hc
      · rcases List.mem_cons.1 hc with rfl | hc
        · exact l
        · exact h c hc
    · split at hc
      · split at hc
        · exact hm c hc
        · rcases List.mem_cons.1 hc with rfl | hc
          · exact l
          · exact hm c hc
      · rcases List.mem_cons.1 hc with rfl | hc
        · exact hd
        · exact ih hm c hc

theorem Memory.wf_put {m : List Host.Cell} (w : Memory.wf m = true) (a : Nat) (v : Byte) : Memory.wf (Memory.put m a v) = true := by
  induction m with
  | nil => simp only [Memory.put]; split
           · rfl
           · next h => simp [Memory.wf, h]
  | cons c m ih =>
    obtain ⟨j, x⟩ := c
    have hc := (Memory.wf_cons (j, x) m).1 w
    simp only [Memory.put]
    split
    · next lt =>
      split
      · exact w
      · next hv =>
        refine (Memory.wf_cons _ _).2 ⟨hv, ?_, w⟩
        intro y hy
        rcases List.mem_cons.1 hy with rfl | hy
        · exact lt
        · exact Nat.lt_trans lt (hc.2.1 y hy)
    · split
      · next eq =>
        subst eq
        split
        · exact hc.2.2
        · next hv => exact (Memory.wf_cons _ _).2 ⟨hv, hc.2.1, hc.2.2⟩
      · next ge ne => exact (Memory.wf_cons _ _).2 ⟨hc.1, Memory.above_put hc.2.1 (show j < a by omega) v, ih hc.2.2⟩

theorem Memory.wf_puts {m : List Host.Cell} (w : Memory.wf m = true) (a : Nat) (d : List Byte) :
    Memory.wf (Memory.puts m a d) = true := by
  induction d generalizing m a with
  | nil => exact w
  | cons b d ih => exact ih (Memory.wf_put w a b) (a + 1)

theorem Memory.wf_filter {m : List Host.Cell} (w : Memory.wf m = true) (p : Host.Cell → Bool) : Memory.wf (m.filter p) = true := by
  induction m with
  | nil => rfl
  | cons c m ih =>
    have hc := (Memory.wf_cons c m).1 w
    simp only [List.filter]
    split
    · exact (Memory.wf_cons _ _).2 ⟨hc.1, fun y hy => hc.2.1 y (List.mem_filter.1 hy).1, ih hc.2.2⟩
    · exact ih hc.2.2

theorem Memory.wf_clear {m : List Host.Cell} (w : Memory.wf m = true) (a n : Nat) : Memory.wf (Memory.clear m a n) = true :=
  Memory.wf_filter w _

/-- A byte outside [a, a + d.length) reads after a store of `d` at `a` as before; a byte inside reads as stored. -/
theorem Memory.get_puts {m : List Host.Cell} (w : Memory.wf m = true) (a : Nat) (d : List Byte) (b : Nat) :
    Memory.get (Memory.puts m a d) b = if a ≤ b ∧ b < a + d.length then d.getD (b - a) 0 else Memory.get m b := by
  induction d generalizing m a with
  | nil => simp only [Memory.puts, List.length_nil]; rw [if_neg (by omega)]
  | cons v d ih =>
    rw [Memory.puts, ih (Memory.wf_put w a v), Memory.get_put w]
    by_cases h : b = a
    · subst h; simp
    · by_cases h1 : a + 1 ≤ b ∧ b < a + 1 + d.length
      · rw [if_pos h1, if_pos (by simp; omega)]
        have : b - a = (b - (a + 1)) + 1 := by omega
        rw [this]; simp
      · rw [if_neg h1, if_neg h, if_neg (by simp; omega)]

/-- The bytes stored are the bytes read back. -/
theorem Memory.bytes_puts {m : List Host.Cell} (w : Memory.wf m = true) (a : Nat) (d : List Byte) :
    Memory.bytes (Memory.puts m a d) a d.length = d := by
  have key : ∀ (d' : List Byte) (a : Nat) (m : List Host.Cell),
      (∀ i, i < d'.length → Memory.get m (a + i) = d'.getD i 0) → Memory.bytes m a d'.length = d' := by
    intro d'
    induction d' with
    | nil => intro a m _; rfl
    | cons v d' ih =>
      intro a m h
      rw [List.length_cons, Memory.bytes]
      have h0 : Memory.get m a = v := by simpa using h 0 (by simp)
      rw [h0, ih (a + 1) m]
      intro i hi
      have := h (i + 1) (by simpa using hi)
      simpa [Nat.add_assoc, Nat.add_comm 1 i] using this
  apply key
  intro i hi
  rw [Memory.get_puts w, if_pos ⟨by omega, by omega⟩]
  rw [Nat.add_sub_cancel_left]

/-- A byte of a cleared range reads 0, any other as before. -/
theorem Memory.get_clear {m : List Host.Cell} (w : Memory.wf m = true) (a n b : Nat) :
    Memory.get (Memory.clear m a n) b = if a ≤ b ∧ b < a + n then memDefault else Memory.get m b := by
  unfold Memory.clear
  induction m with
  | nil => simp [Memory.get]
  | cons c m ih =>
    obtain ⟨j, x⟩ := c
    have hc := (Memory.wf_cons (j, x) m).1 w
    simp only [List.filter]
    by_cases hj : a ≤ j ∧ j < a + n
    · simp only [hj.1, hj.2, decide_true, Bool.and_self, Bool.not_true]
      rw [ih hc.2.2]
      by_cases hb : a ≤ b ∧ b < a + n
      · rw [if_pos hb, if_pos hb]
      · rw [if_neg hb, if_neg hb, Memory.get]
        have : ¬ j = b := by rintro rfl; exact hb hj
        rw [if_neg this]
        split
        · next l => exact Memory.get_above hc.2.1 (by omega)
        · rfl
    · have : (!(decide (a ≤ j) && decide (j < a + n))) = true := by
        simp only [Bool.not_eq_true', Bool.and_eq_false_iff, decide_eq_false_iff_not]; omega
      simp only [this]
      rw [Memory.get, Memory.get]
      by_cases e : j = b
      · subst e; simp [hj]
      · rw [if_neg e, if_neg e]
        by_cases l : b < j
        · rw [if_pos l, if_pos l]; split <;> rfl
        · rw [if_neg l, if_neg l, ih hc.2.2]

theorem State.store_mem_wf {s : State} (w : Memory.wf s.mem = true) (a : Nat) (d : List Byte) : Memory.wf (s.store a d).mem = true := by
  unfold State.store
  split
  · exact w
  · exact Memory.wf_puts w a d

theorem State.zero_mem_wf {s : State} (w : Memory.wf s.mem = true) (a n : Nat) : Memory.wf (s.zero a n).mem = true :=
  Memory.wf_clear w a n

/-- What a store does to one byte (R103). -/
theorem State.byte_store {s : State} (w : Memory.wf s.mem = true) (a : Nat) (d : List Byte) (b : Nat) :
    (s.store a d).byte b =
      if inShapeHole a then s.byte b else if a ≤ b ∧ b < a + d.length then d.getD (b - a) 0 else s.byte b := by
  unfold State.store State.byte
  split
  · rfl
  · exact Memory.get_puts w a d b

/-- What a change of owner does to one byte (R154). -/
theorem State.byte_zero {s : State} (w : Memory.wf s.mem = true) (a n b : Nat) :
    (s.zero a n).byte b = if a ≤ b ∧ b < a + n then 0 else s.byte b := Memory.get_clear w a n b

theorem State.reset_mem_wf : Memory.wf State.reset.mem = true := rfl

end Sys2Proof.Machine
end

