-- ==== Sys2Proof/Laws/Tab.lean ====
section
/-! SUPPORT. Laws of sparse tables: reading after writing, and that every operation keeps the keys strictly rising. -/

namespace Sys2Proof.Machine

variable {α : Type}

@[simp] theorem Tab.get?_nil (k : Nat) : Tab.get? ([] : Tab α) k = none := rfl

@[simp] theorem Tab.get?_set_self (t : Tab α) (k : Nat) (a : α) : (t.set k a).get? k = some a := by
  induction t with
  | nil => simp [Tab.set, Tab.get?]
  | cons e t ih =>
    obtain ⟨j, b⟩ := e
    simp only [Tab.set]
    split
    · simp [Tab.get?]
    · split
      · simp [Tab.get?]
      · simp [Tab.get?, *]

theorem Tab.get?_set_ne (t : Tab α) {k k' : Nat} (a : α) (h : k ≠ k') : (t.set k a).get? k' = t.get? k' := by
  induction t with
  | nil => simp [Tab.set, Tab.get?, h]
  | cons e t ih =>
    obtain ⟨j, b⟩ := e
    simp only [Tab.set]
    split
    · simp [Tab.get?, h]
    · split
      · next hj => subst hj; simp [Tab.get?, h]
      · simp [Tab.get?, ih]

@[simp] theorem Tab.getD_set_self (t : Tab α) (k : Nat) (a d : α) : (t.set k a).getD k d = a := by simp [Tab.getD]

theorem Tab.getD_set_ne (t : Tab α) {k k' : Nat} (a d : α) (h : k ≠ k') : (t.set k a).getD k' d = t.getD k' d := by
  simp [Tab.getD, Tab.get?_set_ne t a h]

/-- The later of two writes at a key stays. -/
theorem Tab.set_set (t : Tab α) (k : Nat) (a b : α) : (t.set k a).set k b = t.set k b := by
  induction t with
  | nil => simp [Tab.set]
  | cons e t ih =>
    obtain ⟨j, c⟩ := e
    simp only [Tab.set]
    split
    · simp [Tab.set]
    · split
      · simp [Tab.set]
      · next h1 h2 => simp [Tab.set, h1, h2, ih]

/-- Every key of the table is above `k`. -/
def Tab.Above (t : Tab α) (k : Nat) : Prop := ∀ e ∈ t, k < e.1

theorem Tab.wf_cons (e : Nat × α) (t : Tab α) : Tab.wf (e :: t) = true ↔ Tab.Above t e.1 ∧ Tab.wf t = true := by
  induction t generalizing e with
  | nil => simp [Tab.wf, Tab.Above]
  | cons f t ih =>
    simp only [Tab.wf, Bool.and_eq_true, decide_eq_true_eq]
    constructor
    · rintro ⟨h, w⟩
      have := (ih f).1 w
      refine ⟨?_, w⟩
      intro x hx
      rcases List.mem_cons.1 hx with rfl | hx
      · exact h
      · exact Nat.lt_trans h (this.1 x hx)
    · rintro ⟨h, w⟩
      exact ⟨h f (List.mem_cons_self ..), w⟩

theorem Tab.above_set {t : Tab α} {j k : Nat} {a : α} (h : Tab.Above t j) (hk : j < k) : Tab.Above (t.set k a) j := by
  induction t with
  | nil => intro e he; simp [Tab.set] at he; subst he; exact hk
  | cons f t ih =>
    obtain ⟨i, b⟩ := f
    have hi := h (i, b) (List.mem_cons_self ..)
    have ht : Tab.Above t j := fun e he => h e (List.mem_cons_of_mem _ he)
    simp only [Tab.set]
    split
    · intro e he
      rcases List.mem_cons.1 he with rfl | he
      · exact hk
      · exact h e he
    · split
      · intro e he
        rcases List.mem_cons.1 he with rfl | he
        · exact hk
        · exact ht e he
      · intro e he
        rcases List.mem_cons.1 he with rfl | he
        · exact hi
        · exact ih ht e he

theorem Tab.wf_set {t : Tab α} (h : Tab.wf t = true) (k : Nat) (a : α) : Tab.wf (t.set k a) = true := by
  induction t with
  | nil => rfl
  | cons f t ih =>
    obtain ⟨i, b⟩ := f
    have hf := (Tab.wf_cons (i, b) t).1 h
    simp only [Tab.set]
    split
    · next hlt =>
      refine (Tab.wf_cons _ _).2 ⟨?_, h⟩
      intro e he
      rcases List.mem_cons.1 he with rfl | he
      · exact hlt
      · exact Nat.lt_trans hlt (hf.1 e he)
    · split
      · next hij => subst hij; exact (Tab.wf_cons _ _).2 hf
      · next h1 h2 => exact (Tab.wf_cons _ _).2 ⟨Tab.above_set hf.1 (by omega), ih hf.2⟩

theorem Tab.wf_erase {t : Tab α} (h : Tab.wf t = true) (k : Nat) : Tab.wf (t.erase k) = true := by
  induction t with
  | nil => rfl
  | cons f t ih =>
    obtain ⟨i, b⟩ := f
    have hf := (Tab.wf_cons (i, b) t).1 h
    simp only [Tab.erase]
    split
    · exact hf.2
    · refine (Tab.wf_cons _ _).2 ⟨?_, ih hf.2⟩
      intro e he
      have sub : ∀ (t : Tab α) e, e ∈ t.erase k → e ∈ t := by
        intro t
        induction t with
        | nil => intro e he; exact he
        | cons g t ih =>
          intro e he
          simp only [Tab.erase] at he
          split at he
          · exact List.mem_cons_of_mem _ he
          · rcases List.mem_cons.1 he with rfl | he
            · exact List.mem_cons_self ..
            · exact List.mem_cons_of_mem _ (ih e he)
      exact hf.1 e (sub t e he)

end Sys2Proof.Machine
end

