-- ==== Sys2Proof/Laws/State.lean ====
section
/-! SUPPORT. One lemma per field and update of State and Thread, and what a read gives after each update. -/

namespace Sys2Proof.Machine

section setSlot
variable (s : State) (t : Tid) (x : Slot)
@[simp] theorem State.setSlot_now : (s.setSlot t x).now = s.now := rfl
@[simp] theorem State.setSlot_mem : (s.setSlot t x).mem = s.mem := rfl
@[simp] theorem State.setSlot_full : (s.setSlot t x).full = s.full := rfl
@[simp] theorem State.setSlot_ecc : (s.setSlot t x).ecc = s.ecc := rfl
@[simp] theorem State.setSlot_spads : (s.setSlot t x).spads = s.spads := rfl
@[simp] theorem State.setSlot_eccAcc : (s.setSlot t x).eccAcc = s.eccAcc := rfl
@[simp] theorem State.setSlot_eccV : (s.setSlot t x).eccV = s.eccV := rfl
@[simp] theorem State.setSlot_cores : (s.setSlot t x).cores = s.cores := rfl
@[simp] theorem State.setSlot_clusters : (s.setSlot t x).clusters = s.clusters := rfl
@[simp] theorem State.setSlot_groups : (s.setSlot t x).groups = s.groups := rfl
@[simp] theorem State.setSlot_dir : (s.setSlot t x).dir = s.dir := rfl
@[simp] theorem State.setSlot_stores : (s.setSlot t x).stores = s.stores := rfl
@[simp] theorem State.setSlot_nextStore : (s.setSlot t x).nextStore = s.nextStore := rfl
@[simp] theorem State.setSlot_ldeq : (s.setSlot t x).ldeq = s.ldeq := rfl
@[simp] theorem State.setSlot_items : (s.setSlot t x).items = s.items := rfl
@[simp] theorem State.setSlot_nextItem : (s.setSlot t x).nextItem = s.nextItem := rfl
@[simp] theorem State.setSlot_images : (s.setSlot t x).images = s.images := rfl
@[simp] theorem State.setSlot_moves : (s.setSlot t x).moves = s.moves := rfl
@[simp] theorem State.setSlot_outrider : (s.setSlot t x).outrider = s.outrider := rfl
@[simp] theorem State.setSlot_ctxs : (s.setSlot t x).ctxs = s.ctxs := rfl
@[simp] theorem State.setSlot_rings : (s.setSlot t x).rings = s.rings := rfl
@[simp] theorem State.setSlot_nextRing : (s.setSlot t x).nextRing = s.nextRing := rfl
@[simp] theorem State.setSlot_launches : (s.setSlot t x).launches = s.launches := rfl
@[simp] theorem State.setSlot_nextLaunch : (s.setSlot t x).nextLaunch = s.nextLaunch := rfl
@[simp] theorem State.setSlot_lastCtx : (s.setSlot t x).lastCtx = s.lastCtx := rfl
@[simp] theorem State.setSlot_regions : (s.setSlot t x).regions = s.regions := rfl
@[simp] theorem State.setSlot_frames : (s.setSlot t x).frames = s.frames := rfl
@[simp] theorem State.setSlot_zeroq : (s.setSlot t x).zeroq = s.zeroq := rfl
@[simp] theorem State.setSlot_nextZero : (s.setSlot t x).nextZero = s.nextZero := rfl
@[simp] theorem State.setSlot_shoots : (s.setSlot t x).shoots = s.shoots := rfl
@[simp] theorem State.setSlot_moving : (s.setSlot t x).moving = s.moving := rfl
@[simp] theorem State.setSlot_holdq : (s.setSlot t x).holdq = s.holdq := rfl
@[simp] theorem State.setSlot_fullq : (s.setSlot t x).fullq = s.fullq := rfl
@[simp] theorem State.setSlot_bw : (s.setSlot t x).bw = s.bw := rfl
@[simp] theorem State.setSlot_refills : (s.setSlot t x).refills = s.refills := rfl
@[simp] theorem State.setSlot_bwq : (s.setSlot t x).bwq = s.bwq := rfl
@[simp] theorem State.setSlot_nextBw : (s.setSlot t x).nextBw = s.nextBw := rfl
@[simp] theorem State.setSlot_hvpod : (s.setSlot t x).hvpod = s.hvpod := rfl
@[simp] theorem State.setSlot_links : (s.setSlot t x).links = s.links := rfl
@[simp] theorem State.setSlot_ranges : (s.setSlot t x).ranges = s.ranges := rfl
@[simp] theorem State.setSlot_txs : (s.setSlot t x).txs = s.txs := rfl
@[simp] theorem State.setSlot_nextSeq : (s.setSlot t x).nextSeq = s.nextSeq := rfl
@[simp] theorem State.setSlot_transit : (s.setSlot t x).transit = s.transit := rfl
@[simp] theorem State.setSlot_eths : (s.setSlot t x).eths = s.eths := rfl
@[simp] theorem State.setSlot_pds : (s.setSlot t x).pds = s.pds := rfl
@[simp] theorem State.setSlot_regionsMr : (s.setSlot t x).regionsMr = s.regionsMr := rfl
@[simp] theorem State.setSlot_qps : (s.setSlot t x).qps = s.qps := rfl
@[simp] theorem State.setSlot_dies : (s.setSlot t x).dies = s.dies := rfl
@[simp] theorem State.setSlot_far : (s.setSlot t x).far = s.far := rfl
@[simp] theorem State.setSlot_cur : (s.setSlot t x).cur = s.cur := rfl
@[simp] theorem State.setSlot_issueq : (s.setSlot t x).issueq = s.issueq := rfl
@[simp] theorem State.setSlot_agenda : (s.setSlot t x).agenda = s.agenda := rfl
@[simp] theorem State.setSlot_hostw : (s.setSlot t x).hostw = s.hostw := rfl
@[simp] theorem State.setSlot_turn : (s.setSlot t x).turn = s.turn := rfl
@[simp] theorem State.setSlot_tick : (s.setSlot t x).tick = s.tick := rfl
end setSlot

section setThread
variable (s : State) (t : Tid) (x : Thread)
@[simp] theorem State.setThread_now : (s.setThread t x).now = s.now := rfl
@[simp] theorem State.setThread_mem : (s.setThread t x).mem = s.mem := rfl
@[simp] theorem State.setThread_full : (s.setThread t x).full = s.full := rfl
@[simp] theorem State.setThread_ecc : (s.setThread t x).ecc = s.ecc := rfl
@[simp] theorem State.setThread_spads : (s.setThread t x).spads = s.spads := rfl
@[simp] theorem State.setThread_eccAcc : (s.setThread t x).eccAcc = s.eccAcc := rfl
@[simp] theorem State.setThread_eccV : (s.setThread t x).eccV = s.eccV := rfl
@[simp] theorem State.setThread_cores : (s.setThread t x).cores = s.cores := rfl
@[simp] theorem State.setThread_clusters : (s.setThread t x).clusters = s.clusters := rfl
@[simp] theorem State.setThread_groups : (s.setThread t x).groups = s.groups := rfl
@[simp] theorem State.setThread_dir : (s.setThread t x).dir = s.dir := rfl
@[simp] theorem State.setThread_stores : (s.setThread t x).stores = s.stores := rfl
@[simp] theorem State.setThread_nextStore : (s.setThread t x).nextStore = s.nextStore := rfl
@[simp] theorem State.setThread_ldeq : (s.setThread t x).ldeq = s.ldeq := rfl
@[simp] theorem State.setThread_items : (s.setThread t x).items = s.items := rfl
@[simp] theorem State.setThread_nextItem : (s.setThread t x).nextItem = s.nextItem := rfl
@[simp] theorem State.setThread_images : (s.setThread t x).images = s.images := rfl
@[simp] theorem State.setThread_moves : (s.setThread t x).moves = s.moves := rfl
@[simp] theorem State.setThread_outrider : (s.setThread t x).outrider = s.outrider := rfl
@[simp] theorem State.setThread_ctxs : (s.setThread t x).ctxs = s.ctxs := rfl
@[simp] theorem State.setThread_rings : (s.setThread t x).rings = s.rings := rfl
@[simp] theorem State.setThread_nextRing : (s.setThread t x).nextRing = s.nextRing := rfl
@[simp] theorem State.setThread_launches : (s.setThread t x).launches = s.launches := rfl
@[simp] theorem State.setThread_nextLaunch : (s.setThread t x).nextLaunch = s.nextLaunch := rfl
@[simp] theorem State.setThread_lastCtx : (s.setThread t x).lastCtx = s.lastCtx := rfl
@[simp] theorem State.setThread_regions : (s.setThread t x).regions = s.regions := rfl
@[simp] theorem State.setThread_frames : (s.setThread t x).frames = s.frames := rfl
@[simp] theorem State.setThread_zeroq : (s.setThread t x).zeroq = s.zeroq := rfl
@[simp] theorem State.setThread_nextZero : (s.setThread t x).nextZero = s.nextZero := rfl
@[simp] theorem State.setThread_shoots : (s.setThread t x).shoots = s.shoots := rfl
@[simp] theorem State.setThread_moving : (s.setThread t x).moving = s.moving := rfl
@[simp] theorem State.setThread_holdq : (s.setThread t x).holdq = s.holdq := rfl
@[simp] theorem State.setThread_fullq : (s.setThread t x).fullq = s.fullq := rfl
@[simp] theorem State.setThread_bw : (s.setThread t x).bw = s.bw := rfl
@[simp] theorem State.setThread_refills : (s.setThread t x).refills = s.refills := rfl
@[simp] theorem State.setThread_bwq : (s.setThread t x).bwq = s.bwq := rfl
@[simp] theorem State.setThread_nextBw : (s.setThread t x).nextBw = s.nextBw := rfl
@[simp] theorem State.setThread_hvpod : (s.setThread t x).hvpod = s.hvpod := rfl
@[simp] theorem State.setThread_links : (s.setThread t x).links = s.links := rfl
@[simp] theorem State.setThread_ranges : (s.setThread t x).ranges = s.ranges := rfl
@[simp] theorem State.setThread_txs : (s.setThread t x).txs = s.txs := rfl
@[simp] theorem State.setThread_nextSeq : (s.setThread t x).nextSeq = s.nextSeq := rfl
@[simp] theorem State.setThread_transit : (s.setThread t x).transit = s.transit := rfl
@[simp] theorem State.setThread_eths : (s.setThread t x).eths = s.eths := rfl
@[simp] theorem State.setThread_pds : (s.setThread t x).pds = s.pds := rfl
@[simp] theorem State.setThread_regionsMr : (s.setThread t x).regionsMr = s.regionsMr := rfl
@[simp] theorem State.setThread_qps : (s.setThread t x).qps = s.qps := rfl
@[simp] theorem State.setThread_dies : (s.setThread t x).dies = s.dies := rfl
@[simp] theorem State.setThread_far : (s.setThread t x).far = s.far := rfl
@[simp] theorem State.setThread_cur : (s.setThread t x).cur = s.cur := rfl
@[simp] theorem State.setThread_issueq : (s.setThread t x).issueq = s.issueq := rfl
@[simp] theorem State.setThread_agenda : (s.setThread t x).agenda = s.agenda := rfl
@[simp] theorem State.setThread_hostw : (s.setThread t x).hostw = s.hostw := rfl
@[simp] theorem State.setThread_turn : (s.setThread t x).turn = s.turn := rfl
@[simp] theorem State.setThread_tick : (s.setThread t x).tick = s.tick := rfl
end setThread

section setMe
variable (s : State) (x : Thread)
@[simp] theorem State.setMe_now : (s.setMe x).now = s.now := rfl
@[simp] theorem State.setMe_mem : (s.setMe x).mem = s.mem := rfl
@[simp] theorem State.setMe_full : (s.setMe x).full = s.full := rfl
@[simp] theorem State.setMe_ecc : (s.setMe x).ecc = s.ecc := rfl
@[simp] theorem State.setMe_spads : (s.setMe x).spads = s.spads := rfl
@[simp] theorem State.setMe_eccAcc : (s.setMe x).eccAcc = s.eccAcc := rfl
@[simp] theorem State.setMe_eccV : (s.setMe x).eccV = s.eccV := rfl
@[simp] theorem State.setMe_cores : (s.setMe x).cores = s.cores := rfl
@[simp] theorem State.setMe_clusters : (s.setMe x).clusters = s.clusters := rfl
@[simp] theorem State.setMe_groups : (s.setMe x).groups = s.groups := rfl
@[simp] theorem State.setMe_dir : (s.setMe x).dir = s.dir := rfl
@[simp] theorem State.setMe_stores : (s.setMe x).stores = s.stores := rfl
@[simp] theorem State.setMe_nextStore : (s.setMe x).nextStore = s.nextStore := rfl
@[simp] theorem State.setMe_ldeq : (s.setMe x).ldeq = s.ldeq := rfl
@[simp] theorem State.setMe_items : (s.setMe x).items = s.items := rfl
@[simp] theorem State.setMe_nextItem : (s.setMe x).nextItem = s.nextItem := rfl
@[simp] theorem State.setMe_images : (s.setMe x).images = s.images := rfl
@[simp] theorem State.setMe_moves : (s.setMe x).moves = s.moves := rfl
@[simp] theorem State.setMe_outrider : (s.setMe x).outrider = s.outrider := rfl
@[simp] theorem State.setMe_ctxs : (s.setMe x).ctxs = s.ctxs := rfl
@[simp] theorem State.setMe_rings : (s.setMe x).rings = s.rings := rfl
@[simp] theorem State.setMe_nextRing : (s.setMe x).nextRing = s.nextRing := rfl
@[simp] theorem State.setMe_launches : (s.setMe x).launches = s.launches := rfl
@[simp] theorem State.setMe_nextLaunch : (s.setMe x).nextLaunch = s.nextLaunch := rfl
@[simp] theorem State.setMe_lastCtx : (s.setMe x).lastCtx = s.lastCtx := rfl
@[simp] theorem State.setMe_regions : (s.setMe x).regions = s.regions := rfl
@[simp] theorem State.setMe_frames : (s.setMe x).frames = s.frames := rfl
@[simp] theorem State.setMe_zeroq : (s.setMe x).zeroq = s.zeroq := rfl
@[simp] theorem State.setMe_nextZero : (s.setMe x).nextZero = s.nextZero := rfl
@[simp] theorem State.setMe_shoots : (s.setMe x).shoots = s.shoots := rfl
@[simp] theorem State.setMe_moving : (s.setMe x).moving = s.moving := rfl
@[simp] theorem State.setMe_holdq : (s.setMe x).holdq = s.holdq := rfl
@[simp] theorem State.setMe_fullq : (s.setMe x).fullq = s.fullq := rfl
@[simp] theorem State.setMe_bw : (s.setMe x).bw = s.bw := rfl
@[simp] theorem State.setMe_refills : (s.setMe x).refills = s.refills := rfl
@[simp] theorem State.setMe_bwq : (s.setMe x).bwq = s.bwq := rfl
@[simp] theorem State.setMe_nextBw : (s.setMe x).nextBw = s.nextBw := rfl
@[simp] theorem State.setMe_hvpod : (s.setMe x).hvpod = s.hvpod := rfl
@[simp] theorem State.setMe_links : (s.setMe x).links = s.links := rfl
@[simp] theorem State.setMe_ranges : (s.setMe x).ranges = s.ranges := rfl
@[simp] theorem State.setMe_txs : (s.setMe x).txs = s.txs := rfl
@[simp] theorem State.setMe_nextSeq : (s.setMe x).nextSeq = s.nextSeq := rfl
@[simp] theorem State.setMe_transit : (s.setMe x).transit = s.transit := rfl
@[simp] theorem State.setMe_eths : (s.setMe x).eths = s.eths := rfl
@[simp] theorem State.setMe_pds : (s.setMe x).pds = s.pds := rfl
@[simp] theorem State.setMe_regionsMr : (s.setMe x).regionsMr = s.regionsMr := rfl
@[simp] theorem State.setMe_qps : (s.setMe x).qps = s.qps := rfl
@[simp] theorem State.setMe_dies : (s.setMe x).dies = s.dies := rfl
@[simp] theorem State.setMe_far : (s.setMe x).far = s.far := rfl
@[simp] theorem State.setMe_cur : (s.setMe x).cur = s.cur := rfl
@[simp] theorem State.setMe_issueq : (s.setMe x).issueq = s.issueq := rfl
@[simp] theorem State.setMe_agenda : (s.setMe x).agenda = s.agenda := rfl
@[simp] theorem State.setMe_hostw : (s.setMe x).hostw = s.hostw := rfl
@[simp] theorem State.setMe_turn : (s.setMe x).turn = s.turn := rfl
@[simp] theorem State.setMe_tick : (s.setMe x).tick = s.tick := rfl
end setMe

section modMe
variable (s : State) (f : Thread → Thread)
@[simp] theorem State.modMe_now : (s.modMe f).now = s.now := rfl
@[simp] theorem State.modMe_mem : (s.modMe f).mem = s.mem := rfl
@[simp] theorem State.modMe_full : (s.modMe f).full = s.full := rfl
@[simp] theorem State.modMe_ecc : (s.modMe f).ecc = s.ecc := rfl
@[simp] theorem State.modMe_spads : (s.modMe f).spads = s.spads := rfl
@[simp] theorem State.modMe_eccAcc : (s.modMe f).eccAcc = s.eccAcc := rfl
@[simp] theorem State.modMe_eccV : (s.modMe f).eccV = s.eccV := rfl
@[simp] theorem State.modMe_cores : (s.modMe f).cores = s.cores := rfl
@[simp] theorem State.modMe_clusters : (s.modMe f).clusters = s.clusters := rfl
@[simp] theorem State.modMe_groups : (s.modMe f).groups = s.groups := rfl
@[simp] theorem State.modMe_dir : (s.modMe f).dir = s.dir := rfl
@[simp] theorem State.modMe_stores : (s.modMe f).stores = s.stores := rfl
@[simp] theorem State.modMe_nextStore : (s.modMe f).nextStore = s.nextStore := rfl
@[simp] theorem State.modMe_ldeq : (s.modMe f).ldeq = s.ldeq := rfl
@[simp] theorem State.modMe_items : (s.modMe f).items = s.items := rfl
@[simp] theorem State.modMe_nextItem : (s.modMe f).nextItem = s.nextItem := rfl
@[simp] theorem State.modMe_images : (s.modMe f).images = s.images := rfl
@[simp] theorem State.modMe_moves : (s.modMe f).moves = s.moves := rfl
@[simp] theorem State.modMe_outrider : (s.modMe f).outrider = s.outrider := rfl
@[simp] theorem State.modMe_ctxs : (s.modMe f).ctxs = s.ctxs := rfl
@[simp] theorem State.modMe_rings : (s.modMe f).rings = s.rings := rfl
@[simp] theorem State.modMe_nextRing : (s.modMe f).nextRing = s.nextRing := rfl
@[simp] theorem State.modMe_launches : (s.modMe f).launches = s.launches := rfl
@[simp] theorem State.modMe_nextLaunch : (s.modMe f).nextLaunch = s.nextLaunch := rfl
@[simp] theorem State.modMe_lastCtx : (s.modMe f).lastCtx = s.lastCtx := rfl
@[simp] theorem State.modMe_regions : (s.modMe f).regions = s.regions := rfl
@[simp] theorem State.modMe_frames : (s.modMe f).frames = s.frames := rfl
@[simp] theorem State.modMe_zeroq : (s.modMe f).zeroq = s.zeroq := rfl
@[simp] theorem State.modMe_nextZero : (s.modMe f).nextZero = s.nextZero := rfl
@[simp] theorem State.modMe_shoots : (s.modMe f).shoots = s.shoots := rfl
@[simp] theorem State.modMe_moving : (s.modMe f).moving = s.moving := rfl
@[simp] theorem State.modMe_holdq : (s.modMe f).holdq = s.holdq := rfl
@[simp] theorem State.modMe_fullq : (s.modMe f).fullq = s.fullq := rfl
@[simp] theorem State.modMe_bw : (s.modMe f).bw = s.bw := rfl
@[simp] theorem State.modMe_refills : (s.modMe f).refills = s.refills := rfl
@[simp] theorem State.modMe_bwq : (s.modMe f).bwq = s.bwq := rfl
@[simp] theorem State.modMe_nextBw : (s.modMe f).nextBw = s.nextBw := rfl
@[simp] theorem State.modMe_hvpod : (s.modMe f).hvpod = s.hvpod := rfl
@[simp] theorem State.modMe_links : (s.modMe f).links = s.links := rfl
@[simp] theorem State.modMe_ranges : (s.modMe f).ranges = s.ranges := rfl
@[simp] theorem State.modMe_txs : (s.modMe f).txs = s.txs := rfl
@[simp] theorem State.modMe_nextSeq : (s.modMe f).nextSeq = s.nextSeq := rfl
@[simp] theorem State.modMe_transit : (s.modMe f).transit = s.transit := rfl
@[simp] theorem State.modMe_eths : (s.modMe f).eths = s.eths := rfl
@[simp] theorem State.modMe_pds : (s.modMe f).pds = s.pds := rfl
@[simp] theorem State.modMe_regionsMr : (s.modMe f).regionsMr = s.regionsMr := rfl
@[simp] theorem State.modMe_qps : (s.modMe f).qps = s.qps := rfl
@[simp] theorem State.modMe_dies : (s.modMe f).dies = s.dies := rfl
@[simp] theorem State.modMe_far : (s.modMe f).far = s.far := rfl
@[simp] theorem State.modMe_cur : (s.modMe f).cur = s.cur := rfl
@[simp] theorem State.modMe_issueq : (s.modMe f).issueq = s.issueq := rfl
@[simp] theorem State.modMe_agenda : (s.modMe f).agenda = s.agenda := rfl
@[simp] theorem State.modMe_hostw : (s.modMe f).hostw = s.hostw := rfl
@[simp] theorem State.modMe_turn : (s.modMe f).turn = s.turn := rfl
@[simp] theorem State.modMe_tick : (s.modMe f).tick = s.tick := rfl
end modMe

section modSlot
variable (s : State) (t : Tid) (f : Slot → Slot)
@[simp] theorem State.modSlot_now : (s.modSlot t f).now = s.now := rfl
@[simp] theorem State.modSlot_mem : (s.modSlot t f).mem = s.mem := rfl
@[simp] theorem State.modSlot_full : (s.modSlot t f).full = s.full := rfl
@[simp] theorem State.modSlot_ecc : (s.modSlot t f).ecc = s.ecc := rfl
@[simp] theorem State.modSlot_spads : (s.modSlot t f).spads = s.spads := rfl
@[simp] theorem State.modSlot_eccAcc : (s.modSlot t f).eccAcc = s.eccAcc := rfl
@[simp] theorem State.modSlot_eccV : (s.modSlot t f).eccV = s.eccV := rfl
@[simp] theorem State.modSlot_cores : (s.modSlot t f).cores = s.cores := rfl
@[simp] theorem State.modSlot_clusters : (s.modSlot t f).clusters = s.clusters := rfl
@[simp] theorem State.modSlot_groups : (s.modSlot t f).groups = s.groups := rfl
@[simp] theorem State.modSlot_dir : (s.modSlot t f).dir = s.dir := rfl
@[simp] theorem State.modSlot_stores : (s.modSlot t f).stores = s.stores := rfl
@[simp] theorem State.modSlot_nextStore : (s.modSlot t f).nextStore = s.nextStore := rfl
@[simp] theorem State.modSlot_ldeq : (s.modSlot t f).ldeq = s.ldeq := rfl
@[simp] theorem State.modSlot_items : (s.modSlot t f).items = s.items := rfl
@[simp] theorem State.modSlot_nextItem : (s.modSlot t f).nextItem = s.nextItem := rfl
@[simp] theorem State.modSlot_images : (s.modSlot t f).images = s.images := rfl
@[simp] theorem State.modSlot_moves : (s.modSlot t f).moves = s.moves := rfl
@[simp] theorem State.modSlot_outrider : (s.modSlot t f).outrider = s.outrider := rfl
@[simp] theorem State.modSlot_ctxs : (s.modSlot t f).ctxs = s.ctxs := rfl
@[simp] theorem State.modSlot_rings : (s.modSlot t f).rings = s.rings := rfl
@[simp] theorem State.modSlot_nextRing : (s.modSlot t f).nextRing = s.nextRing := rfl
@[simp] theorem State.modSlot_launches : (s.modSlot t f).launches = s.launches := rfl
@[simp] theorem State.modSlot_nextLaunch : (s.modSlot t f).nextLaunch = s.nextLaunch := rfl
@[simp] theorem State.modSlot_lastCtx : (s.modSlot t f).lastCtx = s.lastCtx := rfl
@[simp] theorem State.modSlot_regions : (s.modSlot t f).regions = s.regions := rfl
@[simp] theorem State.modSlot_frames : (s.modSlot t f).frames = s.frames := rfl
@[simp] theorem State.modSlot_zeroq : (s.modSlot t f).zeroq = s.zeroq := rfl
@[simp] theorem State.modSlot_nextZero : (s.modSlot t f).nextZero = s.nextZero := rfl
@[simp] theorem State.modSlot_shoots : (s.modSlot t f).shoots = s.shoots := rfl
@[simp] theorem State.modSlot_moving : (s.modSlot t f).moving = s.moving := rfl
@[simp] theorem State.modSlot_holdq : (s.modSlot t f).holdq = s.holdq := rfl
@[simp] theorem State.modSlot_fullq : (s.modSlot t f).fullq = s.fullq := rfl
@[simp] theorem State.modSlot_bw : (s.modSlot t f).bw = s.bw := rfl
@[simp] theorem State.modSlot_refills : (s.modSlot t f).refills = s.refills := rfl
@[simp] theorem State.modSlot_bwq : (s.modSlot t f).bwq = s.bwq := rfl
@[simp] theorem State.modSlot_nextBw : (s.modSlot t f).nextBw = s.nextBw := rfl
@[simp] theorem State.modSlot_hvpod : (s.modSlot t f).hvpod = s.hvpod := rfl
@[simp] theorem State.modSlot_links : (s.modSlot t f).links = s.links := rfl
@[simp] theorem State.modSlot_ranges : (s.modSlot t f).ranges = s.ranges := rfl
@[simp] theorem State.modSlot_txs : (s.modSlot t f).txs = s.txs := rfl
@[simp] theorem State.modSlot_nextSeq : (s.modSlot t f).nextSeq = s.nextSeq := rfl
@[simp] theorem State.modSlot_transit : (s.modSlot t f).transit = s.transit := rfl
@[simp] theorem State.modSlot_eths : (s.modSlot t f).eths = s.eths := rfl
@[simp] theorem State.modSlot_pds : (s.modSlot t f).pds = s.pds := rfl
@[simp] theorem State.modSlot_regionsMr : (s.modSlot t f).regionsMr = s.regionsMr := rfl
@[simp] theorem State.modSlot_qps : (s.modSlot t f).qps = s.qps := rfl
@[simp] theorem State.modSlot_dies : (s.modSlot t f).dies = s.dies := rfl
@[simp] theorem State.modSlot_far : (s.modSlot t f).far = s.far := rfl
@[simp] theorem State.modSlot_cur : (s.modSlot t f).cur = s.cur := rfl
@[simp] theorem State.modSlot_issueq : (s.modSlot t f).issueq = s.issueq := rfl
@[simp] theorem State.modSlot_agenda : (s.modSlot t f).agenda = s.agenda := rfl
@[simp] theorem State.modSlot_hostw : (s.modSlot t f).hostw = s.hostw := rfl
@[simp] theorem State.modSlot_turn : (s.modSlot t f).turn = s.turn := rfl
@[simp] theorem State.modSlot_tick : (s.modSlot t f).tick = s.tick := rfl
end modSlot

section at_
variable (s : State) (t : Tid)
@[simp] theorem State.atTid_now : (s.at_ t).now = s.now := rfl
@[simp] theorem State.atTid_mem : (s.at_ t).mem = s.mem := rfl
@[simp] theorem State.atTid_full : (s.at_ t).full = s.full := rfl
@[simp] theorem State.atTid_ecc : (s.at_ t).ecc = s.ecc := rfl
@[simp] theorem State.atTid_spads : (s.at_ t).spads = s.spads := rfl
@[simp] theorem State.atTid_eccAcc : (s.at_ t).eccAcc = s.eccAcc := rfl
@[simp] theorem State.atTid_eccV : (s.at_ t).eccV = s.eccV := rfl
@[simp] theorem State.atTid_slots : (s.at_ t).slots = s.slots := rfl
@[simp] theorem State.atTid_cores : (s.at_ t).cores = s.cores := rfl
@[simp] theorem State.atTid_clusters : (s.at_ t).clusters = s.clusters := rfl
@[simp] theorem State.atTid_groups : (s.at_ t).groups = s.groups := rfl
@[simp] theorem State.atTid_dir : (s.at_ t).dir = s.dir := rfl
@[simp] theorem State.atTid_stores : (s.at_ t).stores = s.stores := rfl
@[simp] theorem State.atTid_nextStore : (s.at_ t).nextStore = s.nextStore := rfl
@[simp] theorem State.atTid_ldeq : (s.at_ t).ldeq = s.ldeq := rfl
@[simp] theorem State.atTid_items : (s.at_ t).items = s.items := rfl
@[simp] theorem State.atTid_nextItem : (s.at_ t).nextItem = s.nextItem := rfl
@[simp] theorem State.atTid_images : (s.at_ t).images = s.images := rfl
@[simp] theorem State.atTid_moves : (s.at_ t).moves = s.moves := rfl
@[simp] theorem State.atTid_outrider : (s.at_ t).outrider = s.outrider := rfl
@[simp] theorem State.atTid_ctxs : (s.at_ t).ctxs = s.ctxs := rfl
@[simp] theorem State.atTid_rings : (s.at_ t).rings = s.rings := rfl
@[simp] theorem State.atTid_nextRing : (s.at_ t).nextRing = s.nextRing := rfl
@[simp] theorem State.atTid_launches : (s.at_ t).launches = s.launches := rfl
@[simp] theorem State.atTid_nextLaunch : (s.at_ t).nextLaunch = s.nextLaunch := rfl
@[simp] theorem State.atTid_lastCtx : (s.at_ t).lastCtx = s.lastCtx := rfl
@[simp] theorem State.atTid_regions : (s.at_ t).regions = s.regions := rfl
@[simp] theorem State.atTid_frames : (s.at_ t).frames = s.frames := rfl
@[simp] theorem State.atTid_zeroq : (s.at_ t).zeroq = s.zeroq := rfl
@[simp] theorem State.atTid_nextZero : (s.at_ t).nextZero = s.nextZero := rfl
@[simp] theorem State.atTid_shoots : (s.at_ t).shoots = s.shoots := rfl
@[simp] theorem State.atTid_moving : (s.at_ t).moving = s.moving := rfl
@[simp] theorem State.atTid_holdq : (s.at_ t).holdq = s.holdq := rfl
@[simp] theorem State.atTid_fullq : (s.at_ t).fullq = s.fullq := rfl
@[simp] theorem State.atTid_bw : (s.at_ t).bw = s.bw := rfl
@[simp] theorem State.atTid_refills : (s.at_ t).refills = s.refills := rfl
@[simp] theorem State.atTid_bwq : (s.at_ t).bwq = s.bwq := rfl
@[simp] theorem State.atTid_nextBw : (s.at_ t).nextBw = s.nextBw := rfl
@[simp] theorem State.atTid_hvpod : (s.at_ t).hvpod = s.hvpod := rfl
@[simp] theorem State.atTid_links : (s.at_ t).links = s.links := rfl
@[simp] theorem State.atTid_ranges : (s.at_ t).ranges = s.ranges := rfl
@[simp] theorem State.atTid_txs : (s.at_ t).txs = s.txs := rfl
@[simp] theorem State.atTid_nextSeq : (s.at_ t).nextSeq = s.nextSeq := rfl
@[simp] theorem State.atTid_transit : (s.at_ t).transit = s.transit := rfl
@[simp] theorem State.atTid_eths : (s.at_ t).eths = s.eths := rfl
@[simp] theorem State.atTid_pds : (s.at_ t).pds = s.pds := rfl
@[simp] theorem State.atTid_regionsMr : (s.at_ t).regionsMr = s.regionsMr := rfl
@[simp] theorem State.atTid_qps : (s.at_ t).qps = s.qps := rfl
@[simp] theorem State.atTid_dies : (s.at_ t).dies = s.dies := rfl
@[simp] theorem State.atTid_far : (s.at_ t).far = s.far := rfl
@[simp] theorem State.atTid_issueq : (s.at_ t).issueq = s.issueq := rfl
@[simp] theorem State.atTid_agenda : (s.at_ t).agenda = s.agenda := rfl
@[simp] theorem State.atTid_hostw : (s.at_ t).hostw = s.hostw := rfl
@[simp] theorem State.atTid_turn : (s.at_ t).turn = s.turn := rfl
@[simp] theorem State.atTid_tick : (s.at_ t).tick = s.tick := rfl
end at_

section setCore
variable (s : State) (c : Nat) (k : Core)
@[simp] theorem State.setCore_now : (s.setCore c k).now = s.now := rfl
@[simp] theorem State.setCore_mem : (s.setCore c k).mem = s.mem := rfl
@[simp] theorem State.setCore_full : (s.setCore c k).full = s.full := rfl
@[simp] theorem State.setCore_ecc : (s.setCore c k).ecc = s.ecc := rfl
@[simp] theorem State.setCore_spads : (s.setCore c k).spads = s.spads := rfl
@[simp] theorem State.setCore_eccAcc : (s.setCore c k).eccAcc = s.eccAcc := rfl
@[simp] theorem State.setCore_eccV : (s.setCore c k).eccV = s.eccV := rfl
@[simp] theorem State.setCore_slots : (s.setCore c k).slots = s.slots := rfl
@[simp] theorem State.setCore_clusters : (s.setCore c k).clusters = s.clusters := rfl
@[simp] theorem State.setCore_groups : (s.setCore c k).groups = s.groups := rfl
@[simp] theorem State.setCore_dir : (s.setCore c k).dir = s.dir := rfl
@[simp] theorem State.setCore_stores : (s.setCore c k).stores = s.stores := rfl
@[simp] theorem State.setCore_nextStore : (s.setCore c k).nextStore = s.nextStore := rfl
@[simp] theorem State.setCore_ldeq : (s.setCore c k).ldeq = s.ldeq := rfl
@[simp] theorem State.setCore_items : (s.setCore c k).items = s.items := rfl
@[simp] theorem State.setCore_nextItem : (s.setCore c k).nextItem = s.nextItem := rfl
@[simp] theorem State.setCore_images : (s.setCore c k).images = s.images := rfl
@[simp] theorem State.setCore_moves : (s.setCore c k).moves = s.moves := rfl
@[simp] theorem State.setCore_outrider : (s.setCore c k).outrider = s.outrider := rfl
@[simp] theorem State.setCore_ctxs : (s.setCore c k).ctxs = s.ctxs := rfl
@[simp] theorem State.setCore_rings : (s.setCore c k).rings = s.rings := rfl
@[simp] theorem State.setCore_nextRing : (s.setCore c k).nextRing = s.nextRing := rfl
@[simp] theorem State.setCore_launches : (s.setCore c k).launches = s.launches := rfl
@[simp] theorem State.setCore_nextLaunch : (s.setCore c k).nextLaunch = s.nextLaunch := rfl
@[simp] theorem State.setCore_lastCtx : (s.setCore c k).lastCtx = s.lastCtx := rfl
@[simp] theorem State.setCore_regions : (s.setCore c k).regions = s.regions := rfl
@[simp] theorem State.setCore_frames : (s.setCore c k).frames = s.frames := rfl
@[simp] theorem State.setCore_zeroq : (s.setCore c k).zeroq = s.zeroq := rfl
@[simp] theorem State.setCore_nextZero : (s.setCore c k).nextZero = s.nextZero := rfl
@[simp] theorem State.setCore_shoots : (s.setCore c k).shoots = s.shoots := rfl
@[simp] theorem State.setCore_moving : (s.setCore c k).moving = s.moving := rfl
@[simp] theorem State.setCore_holdq : (s.setCore c k).holdq = s.holdq := rfl
@[simp] theorem State.setCore_fullq : (s.setCore c k).fullq = s.fullq := rfl
@[simp] theorem State.setCore_bw : (s.setCore c k).bw = s.bw := rfl
@[simp] theorem State.setCore_refills : (s.setCore c k).refills = s.refills := rfl
@[simp] theorem State.setCore_bwq : (s.setCore c k).bwq = s.bwq := rfl
@[simp] theorem State.setCore_nextBw : (s.setCore c k).nextBw = s.nextBw := rfl
@[simp] theorem State.setCore_hvpod : (s.setCore c k).hvpod = s.hvpod := rfl
@[simp] theorem State.setCore_links : (s.setCore c k).links = s.links := rfl
@[simp] theorem State.setCore_ranges : (s.setCore c k).ranges = s.ranges := rfl
@[simp] theorem State.setCore_txs : (s.setCore c k).txs = s.txs := rfl
@[simp] theorem State.setCore_nextSeq : (s.setCore c k).nextSeq = s.nextSeq := rfl
@[simp] theorem State.setCore_transit : (s.setCore c k).transit = s.transit := rfl
@[simp] theorem State.setCore_eths : (s.setCore c k).eths = s.eths := rfl
@[simp] theorem State.setCore_pds : (s.setCore c k).pds = s.pds := rfl
@[simp] theorem State.setCore_regionsMr : (s.setCore c k).regionsMr = s.regionsMr := rfl
@[simp] theorem State.setCore_qps : (s.setCore c k).qps = s.qps := rfl
@[simp] theorem State.setCore_dies : (s.setCore c k).dies = s.dies := rfl
@[simp] theorem State.setCore_far : (s.setCore c k).far = s.far := rfl
@[simp] theorem State.setCore_cur : (s.setCore c k).cur = s.cur := rfl
@[simp] theorem State.setCore_issueq : (s.setCore c k).issueq = s.issueq := rfl
@[simp] theorem State.setCore_agenda : (s.setCore c k).agenda = s.agenda := rfl
@[simp] theorem State.setCore_hostw : (s.setCore c k).hostw = s.hostw := rfl
@[simp] theorem State.setCore_turn : (s.setCore c k).turn = s.turn := rfl
@[simp] theorem State.setCore_tick : (s.setCore c k).tick = s.tick := rfl
end setCore

section modCore
variable (s : State) (c : Nat) (f : Core → Core)
@[simp] theorem State.modCore_now : (s.modCore c f).now = s.now := rfl
@[simp] theorem State.modCore_mem : (s.modCore c f).mem = s.mem := rfl
@[simp] theorem State.modCore_full : (s.modCore c f).full = s.full := rfl
@[simp] theorem State.modCore_ecc : (s.modCore c f).ecc = s.ecc := rfl
@[simp] theorem State.modCore_spads : (s.modCore c f).spads = s.spads := rfl
@[simp] theorem State.modCore_eccAcc : (s.modCore c f).eccAcc = s.eccAcc := rfl
@[simp] theorem State.modCore_eccV : (s.modCore c f).eccV = s.eccV := rfl
@[simp] theorem State.modCore_slots : (s.modCore c f).slots = s.slots := rfl
@[simp] theorem State.modCore_clusters : (s.modCore c f).clusters = s.clusters := rfl
@[simp] theorem State.modCore_groups : (s.modCore c f).groups = s.groups := rfl
@[simp] theorem State.modCore_dir : (s.modCore c f).dir = s.dir := rfl
@[simp] theorem State.modCore_stores : (s.modCore c f).stores = s.stores := rfl
@[simp] theorem State.modCore_nextStore : (s.modCore c f).nextStore = s.nextStore := rfl
@[simp] theorem State.modCore_ldeq : (s.modCore c f).ldeq = s.ldeq := rfl
@[simp] theorem State.modCore_items : (s.modCore c f).items = s.items := rfl
@[simp] theorem State.modCore_nextItem : (s.modCore c f).nextItem = s.nextItem := rfl
@[simp] theorem State.modCore_images : (s.modCore c f).images = s.images := rfl
@[simp] theorem State.modCore_moves : (s.modCore c f).moves = s.moves := rfl
@[simp] theorem State.modCore_outrider : (s.modCore c f).outrider = s.outrider := rfl
@[simp] theorem State.modCore_ctxs : (s.modCore c f).ctxs = s.ctxs := rfl
@[simp] theorem State.modCore_rings : (s.modCore c f).rings = s.rings := rfl
@[simp] theorem State.modCore_nextRing : (s.modCore c f).nextRing = s.nextRing := rfl
@[simp] theorem State.modCore_launches : (s.modCore c f).launches = s.launches := rfl
@[simp] theorem State.modCore_nextLaunch : (s.modCore c f).nextLaunch = s.nextLaunch := rfl
@[simp] theorem State.modCore_lastCtx : (s.modCore c f).lastCtx = s.lastCtx := rfl
@[simp] theorem State.modCore_regions : (s.modCore c f).regions = s.regions := rfl
@[simp] theorem State.modCore_frames : (s.modCore c f).frames = s.frames := rfl
@[simp] theorem State.modCore_zeroq : (s.modCore c f).zeroq = s.zeroq := rfl
@[simp] theorem State.modCore_nextZero : (s.modCore c f).nextZero = s.nextZero := rfl
@[simp] theorem State.modCore_shoots : (s.modCore c f).shoots = s.shoots := rfl
@[simp] theorem State.modCore_moving : (s.modCore c f).moving = s.moving := rfl
@[simp] theorem State.modCore_holdq : (s.modCore c f).holdq = s.holdq := rfl
@[simp] theorem State.modCore_fullq : (s.modCore c f).fullq = s.fullq := rfl
@[simp] theorem State.modCore_bw : (s.modCore c f).bw = s.bw := rfl
@[simp] theorem State.modCore_refills : (s.modCore c f).refills = s.refills := rfl
@[simp] theorem State.modCore_bwq : (s.modCore c f).bwq = s.bwq := rfl
@[simp] theorem State.modCore_nextBw : (s.modCore c f).nextBw = s.nextBw := rfl
@[simp] theorem State.modCore_hvpod : (s.modCore c f).hvpod = s.hvpod := rfl
@[simp] theorem State.modCore_links : (s.modCore c f).links = s.links := rfl
@[simp] theorem State.modCore_ranges : (s.modCore c f).ranges = s.ranges := rfl
@[simp] theorem State.modCore_txs : (s.modCore c f).txs = s.txs := rfl
@[simp] theorem State.modCore_nextSeq : (s.modCore c f).nextSeq = s.nextSeq := rfl
@[simp] theorem State.modCore_transit : (s.modCore c f).transit = s.transit := rfl
@[simp] theorem State.modCore_eths : (s.modCore c f).eths = s.eths := rfl
@[simp] theorem State.modCore_pds : (s.modCore c f).pds = s.pds := rfl
@[simp] theorem State.modCore_regionsMr : (s.modCore c f).regionsMr = s.regionsMr := rfl
@[simp] theorem State.modCore_qps : (s.modCore c f).qps = s.qps := rfl
@[simp] theorem State.modCore_dies : (s.modCore c f).dies = s.dies := rfl
@[simp] theorem State.modCore_far : (s.modCore c f).far = s.far := rfl
@[simp] theorem State.modCore_cur : (s.modCore c f).cur = s.cur := rfl
@[simp] theorem State.modCore_issueq : (s.modCore c f).issueq = s.issueq := rfl
@[simp] theorem State.modCore_agenda : (s.modCore c f).agenda = s.agenda := rfl
@[simp] theorem State.modCore_hostw : (s.modCore c f).hostw = s.hostw := rfl
@[simp] theorem State.modCore_turn : (s.modCore c f).turn = s.turn := rfl
@[simp] theorem State.modCore_tick : (s.modCore c f).tick = s.tick := rfl
end modCore

section modMyCore
variable (s : State) (f : Core → Core)
@[simp] theorem State.modMyCore_now : (s.modMyCore f).now = s.now := rfl
@[simp] theorem State.modMyCore_mem : (s.modMyCore f).mem = s.mem := rfl
@[simp] theorem State.modMyCore_full : (s.modMyCore f).full = s.full := rfl
@[simp] theorem State.modMyCore_ecc : (s.modMyCore f).ecc = s.ecc := rfl
@[simp] theorem State.modMyCore_spads : (s.modMyCore f).spads = s.spads := rfl
@[simp] theorem State.modMyCore_eccAcc : (s.modMyCore f).eccAcc = s.eccAcc := rfl
@[simp] theorem State.modMyCore_eccV : (s.modMyCore f).eccV = s.eccV := rfl
@[simp] theorem State.modMyCore_slots : (s.modMyCore f).slots = s.slots := rfl
@[simp] theorem State.modMyCore_clusters : (s.modMyCore f).clusters = s.clusters := rfl
@[simp] theorem State.modMyCore_groups : (s.modMyCore f).groups = s.groups := rfl
@[simp] theorem State.modMyCore_dir : (s.modMyCore f).dir = s.dir := rfl
@[simp] theorem State.modMyCore_stores : (s.modMyCore f).stores = s.stores := rfl
@[simp] theorem State.modMyCore_nextStore : (s.modMyCore f).nextStore = s.nextStore := rfl
@[simp] theorem State.modMyCore_ldeq : (s.modMyCore f).ldeq = s.ldeq := rfl
@[simp] theorem State.modMyCore_items : (s.modMyCore f).items = s.items := rfl
@[simp] theorem State.modMyCore_nextItem : (s.modMyCore f).nextItem = s.nextItem := rfl
@[simp] theorem State.modMyCore_images : (s.modMyCore f).images = s.images := rfl
@[simp] theorem State.modMyCore_moves : (s.modMyCore f).moves = s.moves := rfl
@[simp] theorem State.modMyCore_outrider : (s.modMyCore f).outrider = s.outrider := rfl
@[simp] theorem State.modMyCore_ctxs : (s.modMyCore f).ctxs = s.ctxs := rfl
@[simp] theorem State.modMyCore_rings : (s.modMyCore f).rings = s.rings := rfl
@[simp] theorem State.modMyCore_nextRing : (s.modMyCore f).nextRing = s.nextRing := rfl
@[simp] theorem State.modMyCore_launches : (s.modMyCore f).launches = s.launches := rfl
@[simp] theorem State.modMyCore_nextLaunch : (s.modMyCore f).nextLaunch = s.nextLaunch := rfl
@[simp] theorem State.modMyCore_lastCtx : (s.modMyCore f).lastCtx = s.lastCtx := rfl
@[simp] theorem State.modMyCore_regions : (s.modMyCore f).regions = s.regions := rfl
@[simp] theorem State.modMyCore_frames : (s.modMyCore f).frames = s.frames := rfl
@[simp] theorem State.modMyCore_zeroq : (s.modMyCore f).zeroq = s.zeroq := rfl
@[simp] theorem State.modMyCore_nextZero : (s.modMyCore f).nextZero = s.nextZero := rfl
@[simp] theorem State.modMyCore_shoots : (s.modMyCore f).shoots = s.shoots := rfl
@[simp] theorem State.modMyCore_moving : (s.modMyCore f).moving = s.moving := rfl
@[simp] theorem State.modMyCore_holdq : (s.modMyCore f).holdq = s.holdq := rfl
@[simp] theorem State.modMyCore_fullq : (s.modMyCore f).fullq = s.fullq := rfl
@[simp] theorem State.modMyCore_bw : (s.modMyCore f).bw = s.bw := rfl
@[simp] theorem State.modMyCore_refills : (s.modMyCore f).refills = s.refills := rfl
@[simp] theorem State.modMyCore_bwq : (s.modMyCore f).bwq = s.bwq := rfl
@[simp] theorem State.modMyCore_nextBw : (s.modMyCore f).nextBw = s.nextBw := rfl
@[simp] theorem State.modMyCore_hvpod : (s.modMyCore f).hvpod = s.hvpod := rfl
@[simp] theorem State.modMyCore_links : (s.modMyCore f).links = s.links := rfl
@[simp] theorem State.modMyCore_ranges : (s.modMyCore f).ranges = s.ranges := rfl
@[simp] theorem State.modMyCore_txs : (s.modMyCore f).txs = s.txs := rfl
@[simp] theorem State.modMyCore_nextSeq : (s.modMyCore f).nextSeq = s.nextSeq := rfl
@[simp] theorem State.modMyCore_transit : (s.modMyCore f).transit = s.transit := rfl
@[simp] theorem State.modMyCore_eths : (s.modMyCore f).eths = s.eths := rfl
@[simp] theorem State.modMyCore_pds : (s.modMyCore f).pds = s.pds := rfl
@[simp] theorem State.modMyCore_regionsMr : (s.modMyCore f).regionsMr = s.regionsMr := rfl
@[simp] theorem State.modMyCore_qps : (s.modMyCore f).qps = s.qps := rfl
@[simp] theorem State.modMyCore_dies : (s.modMyCore f).dies = s.dies := rfl
@[simp] theorem State.modMyCore_far : (s.modMyCore f).far = s.far := rfl
@[simp] theorem State.modMyCore_cur : (s.modMyCore f).cur = s.cur := rfl
@[simp] theorem State.modMyCore_issueq : (s.modMyCore f).issueq = s.issueq := rfl
@[simp] theorem State.modMyCore_agenda : (s.modMyCore f).agenda = s.agenda := rfl
@[simp] theorem State.modMyCore_hostw : (s.modMyCore f).hostw = s.hostw := rfl
@[simp] theorem State.modMyCore_turn : (s.modMyCore f).turn = s.turn := rfl
@[simp] theorem State.modMyCore_tick : (s.modMyCore f).tick = s.tick := rfl
end modMyCore

section setGroup
variable (s : State) (n : Nat) (g : Group)
@[simp] theorem State.setGroup_now : (s.setGroup n g).now = s.now := rfl
@[simp] theorem State.setGroup_mem : (s.setGroup n g).mem = s.mem := rfl
@[simp] theorem State.setGroup_full : (s.setGroup n g).full = s.full := rfl
@[simp] theorem State.setGroup_ecc : (s.setGroup n g).ecc = s.ecc := rfl
@[simp] theorem State.setGroup_spads : (s.setGroup n g).spads = s.spads := rfl
@[simp] theorem State.setGroup_eccAcc : (s.setGroup n g).eccAcc = s.eccAcc := rfl
@[simp] theorem State.setGroup_eccV : (s.setGroup n g).eccV = s.eccV := rfl
@[simp] theorem State.setGroup_slots : (s.setGroup n g).slots = s.slots := rfl
@[simp] theorem State.setGroup_cores : (s.setGroup n g).cores = s.cores := rfl
@[simp] theorem State.setGroup_clusters : (s.setGroup n g).clusters = s.clusters := rfl
@[simp] theorem State.setGroup_dir : (s.setGroup n g).dir = s.dir := rfl
@[simp] theorem State.setGroup_stores : (s.setGroup n g).stores = s.stores := rfl
@[simp] theorem State.setGroup_nextStore : (s.setGroup n g).nextStore = s.nextStore := rfl
@[simp] theorem State.setGroup_ldeq : (s.setGroup n g).ldeq = s.ldeq := rfl
@[simp] theorem State.setGroup_items : (s.setGroup n g).items = s.items := rfl
@[simp] theorem State.setGroup_nextItem : (s.setGroup n g).nextItem = s.nextItem := rfl
@[simp] theorem State.setGroup_images : (s.setGroup n g).images = s.images := rfl
@[simp] theorem State.setGroup_moves : (s.setGroup n g).moves = s.moves := rfl
@[simp] theorem State.setGroup_outrider : (s.setGroup n g).outrider = s.outrider := rfl
@[simp] theorem State.setGroup_ctxs : (s.setGroup n g).ctxs = s.ctxs := rfl
@[simp] theorem State.setGroup_rings : (s.setGroup n g).rings = s.rings := rfl
@[simp] theorem State.setGroup_nextRing : (s.setGroup n g).nextRing = s.nextRing := rfl
@[simp] theorem State.setGroup_launches : (s.setGroup n g).launches = s.launches := rfl
@[simp] theorem State.setGroup_nextLaunch : (s.setGroup n g).nextLaunch = s.nextLaunch := rfl
@[simp] theorem State.setGroup_lastCtx : (s.setGroup n g).lastCtx = s.lastCtx := rfl
@[simp] theorem State.setGroup_regions : (s.setGroup n g).regions = s.regions := rfl
@[simp] theorem State.setGroup_frames : (s.setGroup n g).frames = s.frames := rfl
@[simp] theorem State.setGroup_zeroq : (s.setGroup n g).zeroq = s.zeroq := rfl
@[simp] theorem State.setGroup_nextZero : (s.setGroup n g).nextZero = s.nextZero := rfl
@[simp] theorem State.setGroup_shoots : (s.setGroup n g).shoots = s.shoots := rfl
@[simp] theorem State.setGroup_moving : (s.setGroup n g).moving = s.moving := rfl
@[simp] theorem State.setGroup_holdq : (s.setGroup n g).holdq = s.holdq := rfl
@[simp] theorem State.setGroup_fullq : (s.setGroup n g).fullq = s.fullq := rfl
@[simp] theorem State.setGroup_bw : (s.setGroup n g).bw = s.bw := rfl
@[simp] theorem State.setGroup_refills : (s.setGroup n g).refills = s.refills := rfl
@[simp] theorem State.setGroup_bwq : (s.setGroup n g).bwq = s.bwq := rfl
@[simp] theorem State.setGroup_nextBw : (s.setGroup n g).nextBw = s.nextBw := rfl
@[simp] theorem State.setGroup_hvpod : (s.setGroup n g).hvpod = s.hvpod := rfl
@[simp] theorem State.setGroup_links : (s.setGroup n g).links = s.links := rfl
@[simp] theorem State.setGroup_ranges : (s.setGroup n g).ranges = s.ranges := rfl
@[simp] theorem State.setGroup_txs : (s.setGroup n g).txs = s.txs := rfl
@[simp] theorem State.setGroup_nextSeq : (s.setGroup n g).nextSeq = s.nextSeq := rfl
@[simp] theorem State.setGroup_transit : (s.setGroup n g).transit = s.transit := rfl
@[simp] theorem State.setGroup_eths : (s.setGroup n g).eths = s.eths := rfl
@[simp] theorem State.setGroup_pds : (s.setGroup n g).pds = s.pds := rfl
@[simp] theorem State.setGroup_regionsMr : (s.setGroup n g).regionsMr = s.regionsMr := rfl
@[simp] theorem State.setGroup_qps : (s.setGroup n g).qps = s.qps := rfl
@[simp] theorem State.setGroup_dies : (s.setGroup n g).dies = s.dies := rfl
@[simp] theorem State.setGroup_far : (s.setGroup n g).far = s.far := rfl
@[simp] theorem State.setGroup_cur : (s.setGroup n g).cur = s.cur := rfl
@[simp] theorem State.setGroup_issueq : (s.setGroup n g).issueq = s.issueq := rfl
@[simp] theorem State.setGroup_agenda : (s.setGroup n g).agenda = s.agenda := rfl
@[simp] theorem State.setGroup_hostw : (s.setGroup n g).hostw = s.hostw := rfl
@[simp] theorem State.setGroup_turn : (s.setGroup n g).turn = s.turn := rfl
@[simp] theorem State.setGroup_tick : (s.setGroup n g).tick = s.tick := rfl
end setGroup

section modGroup
variable (s : State) (n : Nat) (f : Group → Group)
@[simp] theorem State.modGroup_now : (s.modGroup n f).now = s.now := rfl
@[simp] theorem State.modGroup_mem : (s.modGroup n f).mem = s.mem := rfl
@[simp] theorem State.modGroup_full : (s.modGroup n f).full = s.full := rfl
@[simp] theorem State.modGroup_ecc : (s.modGroup n f).ecc = s.ecc := rfl
@[simp] theorem State.modGroup_spads : (s.modGroup n f).spads = s.spads := rfl
@[simp] theorem State.modGroup_eccAcc : (s.modGroup n f).eccAcc = s.eccAcc := rfl
@[simp] theorem State.modGroup_eccV : (s.modGroup n f).eccV = s.eccV := rfl
@[simp] theorem State.modGroup_slots : (s.modGroup n f).slots = s.slots := rfl
@[simp] theorem State.modGroup_cores : (s.modGroup n f).cores = s.cores := rfl
@[simp] theorem State.modGroup_clusters : (s.modGroup n f).clusters = s.clusters := rfl
@[simp] theorem State.modGroup_dir : (s.modGroup n f).dir = s.dir := rfl
@[simp] theorem State.modGroup_stores : (s.modGroup n f).stores = s.stores := rfl
@[simp] theorem State.modGroup_nextStore : (s.modGroup n f).nextStore = s.nextStore := rfl
@[simp] theorem State.modGroup_ldeq : (s.modGroup n f).ldeq = s.ldeq := rfl
@[simp] theorem State.modGroup_items : (s.modGroup n f).items = s.items := rfl
@[simp] theorem State.modGroup_nextItem : (s.modGroup n f).nextItem = s.nextItem := rfl
@[simp] theorem State.modGroup_images : (s.modGroup n f).images = s.images := rfl
@[simp] theorem State.modGroup_moves : (s.modGroup n f).moves = s.moves := rfl
@[simp] theorem State.modGroup_outrider : (s.modGroup n f).outrider = s.outrider := rfl
@[simp] theorem State.modGroup_ctxs : (s.modGroup n f).ctxs = s.ctxs := rfl
@[simp] theorem State.modGroup_rings : (s.modGroup n f).rings = s.rings := rfl
@[simp] theorem State.modGroup_nextRing : (s.modGroup n f).nextRing = s.nextRing := rfl
@[simp] theorem State.modGroup_launches : (s.modGroup n f).launches = s.launches := rfl
@[simp] theorem State.modGroup_nextLaunch : (s.modGroup n f).nextLaunch = s.nextLaunch := rfl
@[simp] theorem State.modGroup_lastCtx : (s.modGroup n f).lastCtx = s.lastCtx := rfl
@[simp] theorem State.modGroup_regions : (s.modGroup n f).regions = s.regions := rfl
@[simp] theorem State.modGroup_frames : (s.modGroup n f).frames = s.frames := rfl
@[simp] theorem State.modGroup_zeroq : (s.modGroup n f).zeroq = s.zeroq := rfl
@[simp] theorem State.modGroup_nextZero : (s.modGroup n f).nextZero = s.nextZero := rfl
@[simp] theorem State.modGroup_shoots : (s.modGroup n f).shoots = s.shoots := rfl
@[simp] theorem State.modGroup_moving : (s.modGroup n f).moving = s.moving := rfl
@[simp] theorem State.modGroup_holdq : (s.modGroup n f).holdq = s.holdq := rfl
@[simp] theorem State.modGroup_fullq : (s.modGroup n f).fullq = s.fullq := rfl
@[simp] theorem State.modGroup_bw : (s.modGroup n f).bw = s.bw := rfl
@[simp] theorem State.modGroup_refills : (s.modGroup n f).refills = s.refills := rfl
@[simp] theorem State.modGroup_bwq : (s.modGroup n f).bwq = s.bwq := rfl
@[simp] theorem State.modGroup_nextBw : (s.modGroup n f).nextBw = s.nextBw := rfl
@[simp] theorem State.modGroup_hvpod : (s.modGroup n f).hvpod = s.hvpod := rfl
@[simp] theorem State.modGroup_links : (s.modGroup n f).links = s.links := rfl
@[simp] theorem State.modGroup_ranges : (s.modGroup n f).ranges = s.ranges := rfl
@[simp] theorem State.modGroup_txs : (s.modGroup n f).txs = s.txs := rfl
@[simp] theorem State.modGroup_nextSeq : (s.modGroup n f).nextSeq = s.nextSeq := rfl
@[simp] theorem State.modGroup_transit : (s.modGroup n f).transit = s.transit := rfl
@[simp] theorem State.modGroup_eths : (s.modGroup n f).eths = s.eths := rfl
@[simp] theorem State.modGroup_pds : (s.modGroup n f).pds = s.pds := rfl
@[simp] theorem State.modGroup_regionsMr : (s.modGroup n f).regionsMr = s.regionsMr := rfl
@[simp] theorem State.modGroup_qps : (s.modGroup n f).qps = s.qps := rfl
@[simp] theorem State.modGroup_dies : (s.modGroup n f).dies = s.dies := rfl
@[simp] theorem State.modGroup_far : (s.modGroup n f).far = s.far := rfl
@[simp] theorem State.modGroup_cur : (s.modGroup n f).cur = s.cur := rfl
@[simp] theorem State.modGroup_issueq : (s.modGroup n f).issueq = s.issueq := rfl
@[simp] theorem State.modGroup_agenda : (s.modGroup n f).agenda = s.agenda := rfl
@[simp] theorem State.modGroup_hostw : (s.modGroup n f).hostw = s.hostw := rfl
@[simp] theorem State.modGroup_turn : (s.modGroup n f).turn = s.turn := rfl
@[simp] theorem State.modGroup_tick : (s.modGroup n f).tick = s.tick := rfl
end modGroup

section modCtx
variable (s : State) (c : Nat) (f : Context → Context)
@[simp] theorem State.modCtx_now : (s.modCtx c f).now = s.now := rfl
@[simp] theorem State.modCtx_mem : (s.modCtx c f).mem = s.mem := rfl
@[simp] theorem State.modCtx_full : (s.modCtx c f).full = s.full := rfl
@[simp] theorem State.modCtx_ecc : (s.modCtx c f).ecc = s.ecc := rfl
@[simp] theorem State.modCtx_spads : (s.modCtx c f).spads = s.spads := rfl
@[simp] theorem State.modCtx_eccAcc : (s.modCtx c f).eccAcc = s.eccAcc := rfl
@[simp] theorem State.modCtx_eccV : (s.modCtx c f).eccV = s.eccV := rfl
@[simp] theorem State.modCtx_slots : (s.modCtx c f).slots = s.slots := rfl
@[simp] theorem State.modCtx_cores : (s.modCtx c f).cores = s.cores := rfl
@[simp] theorem State.modCtx_clusters : (s.modCtx c f).clusters = s.clusters := rfl
@[simp] theorem State.modCtx_groups : (s.modCtx c f).groups = s.groups := rfl
@[simp] theorem State.modCtx_dir : (s.modCtx c f).dir = s.dir := rfl
@[simp] theorem State.modCtx_stores : (s.modCtx c f).stores = s.stores := rfl
@[simp] theorem State.modCtx_nextStore : (s.modCtx c f).nextStore = s.nextStore := rfl
@[simp] theorem State.modCtx_ldeq : (s.modCtx c f).ldeq = s.ldeq := rfl
@[simp] theorem State.modCtx_items : (s.modCtx c f).items = s.items := rfl
@[simp] theorem State.modCtx_nextItem : (s.modCtx c f).nextItem = s.nextItem := rfl
@[simp] theorem State.modCtx_images : (s.modCtx c f).images = s.images := rfl
@[simp] theorem State.modCtx_moves : (s.modCtx c f).moves = s.moves := rfl
@[simp] theorem State.modCtx_outrider : (s.modCtx c f).outrider = s.outrider := rfl
@[simp] theorem State.modCtx_rings : (s.modCtx c f).rings = s.rings := rfl
@[simp] theorem State.modCtx_nextRing : (s.modCtx c f).nextRing = s.nextRing := rfl
@[simp] theorem State.modCtx_launches : (s.modCtx c f).launches = s.launches := rfl
@[simp] theorem State.modCtx_nextLaunch : (s.modCtx c f).nextLaunch = s.nextLaunch := rfl
@[simp] theorem State.modCtx_lastCtx : (s.modCtx c f).lastCtx = s.lastCtx := rfl
@[simp] theorem State.modCtx_regions : (s.modCtx c f).regions = s.regions := rfl
@[simp] theorem State.modCtx_frames : (s.modCtx c f).frames = s.frames := rfl
@[simp] theorem State.modCtx_zeroq : (s.modCtx c f).zeroq = s.zeroq := rfl
@[simp] theorem State.modCtx_nextZero : (s.modCtx c f).nextZero = s.nextZero := rfl
@[simp] theorem State.modCtx_shoots : (s.modCtx c f).shoots = s.shoots := rfl
@[simp] theorem State.modCtx_moving : (s.modCtx c f).moving = s.moving := rfl
@[simp] theorem State.modCtx_holdq : (s.modCtx c f).holdq = s.holdq := rfl
@[simp] theorem State.modCtx_fullq : (s.modCtx c f).fullq = s.fullq := rfl
@[simp] theorem State.modCtx_bw : (s.modCtx c f).bw = s.bw := rfl
@[simp] theorem State.modCtx_refills : (s.modCtx c f).refills = s.refills := rfl
@[simp] theorem State.modCtx_bwq : (s.modCtx c f).bwq = s.bwq := rfl
@[simp] theorem State.modCtx_nextBw : (s.modCtx c f).nextBw = s.nextBw := rfl
@[simp] theorem State.modCtx_hvpod : (s.modCtx c f).hvpod = s.hvpod := rfl
@[simp] theorem State.modCtx_links : (s.modCtx c f).links = s.links := rfl
@[simp] theorem State.modCtx_ranges : (s.modCtx c f).ranges = s.ranges := rfl
@[simp] theorem State.modCtx_txs : (s.modCtx c f).txs = s.txs := rfl
@[simp] theorem State.modCtx_nextSeq : (s.modCtx c f).nextSeq = s.nextSeq := rfl
@[simp] theorem State.modCtx_transit : (s.modCtx c f).transit = s.transit := rfl
@[simp] theorem State.modCtx_eths : (s.modCtx c f).eths = s.eths := rfl
@[simp] theorem State.modCtx_pds : (s.modCtx c f).pds = s.pds := rfl
@[simp] theorem State.modCtx_regionsMr : (s.modCtx c f).regionsMr = s.regionsMr := rfl
@[simp] theorem State.modCtx_qps : (s.modCtx c f).qps = s.qps := rfl
@[simp] theorem State.modCtx_dies : (s.modCtx c f).dies = s.dies := rfl
@[simp] theorem State.modCtx_far : (s.modCtx c f).far = s.far := rfl
@[simp] theorem State.modCtx_cur : (s.modCtx c f).cur = s.cur := rfl
@[simp] theorem State.modCtx_issueq : (s.modCtx c f).issueq = s.issueq := rfl
@[simp] theorem State.modCtx_agenda : (s.modCtx c f).agenda = s.agenda := rfl
@[simp] theorem State.modCtx_hostw : (s.modCtx c f).hostw = s.hostw := rfl
@[simp] theorem State.modCtx_turn : (s.modCtx c f).turn = s.turn := rfl
@[simp] theorem State.modCtx_tick : (s.modCtx c f).tick = s.tick := rfl
end modCtx

section modCluster
variable (s : State) (k : Nat) (f : Cluster → Cluster)
@[simp] theorem State.modCluster_now : (s.modCluster k f).now = s.now := rfl
@[simp] theorem State.modCluster_mem : (s.modCluster k f).mem = s.mem := rfl
@[simp] theorem State.modCluster_full : (s.modCluster k f).full = s.full := rfl
@[simp] theorem State.modCluster_ecc : (s.modCluster k f).ecc = s.ecc := rfl
@[simp] theorem State.modCluster_spads : (s.modCluster k f).spads = s.spads := rfl
@[simp] theorem State.modCluster_eccAcc : (s.modCluster k f).eccAcc = s.eccAcc := rfl
@[simp] theorem State.modCluster_eccV : (s.modCluster k f).eccV = s.eccV := rfl
@[simp] theorem State.modCluster_slots : (s.modCluster k f).slots = s.slots := rfl
@[simp] theorem State.modCluster_cores : (s.modCluster k f).cores = s.cores := rfl
@[simp] theorem State.modCluster_groups : (s.modCluster k f).groups = s.groups := rfl
@[simp] theorem State.modCluster_dir : (s.modCluster k f).dir = s.dir := rfl
@[simp] theorem State.modCluster_stores : (s.modCluster k f).stores = s.stores := rfl
@[simp] theorem State.modCluster_nextStore : (s.modCluster k f).nextStore = s.nextStore := rfl
@[simp] theorem State.modCluster_ldeq : (s.modCluster k f).ldeq = s.ldeq := rfl
@[simp] theorem State.modCluster_items : (s.modCluster k f).items = s.items := rfl
@[simp] theorem State.modCluster_nextItem : (s.modCluster k f).nextItem = s.nextItem := rfl
@[simp] theorem State.modCluster_images : (s.modCluster k f).images = s.images := rfl
@[simp] theorem State.modCluster_moves : (s.modCluster k f).moves = s.moves := rfl
@[simp] theorem State.modCluster_outrider : (s.modCluster k f).outrider = s.outrider := rfl
@[simp] theorem State.modCluster_ctxs : (s.modCluster k f).ctxs = s.ctxs := rfl
@[simp] theorem State.modCluster_rings : (s.modCluster k f).rings = s.rings := rfl
@[simp] theorem State.modCluster_nextRing : (s.modCluster k f).nextRing = s.nextRing := rfl
@[simp] theorem State.modCluster_launches : (s.modCluster k f).launches = s.launches := rfl
@[simp] theorem State.modCluster_nextLaunch : (s.modCluster k f).nextLaunch = s.nextLaunch := rfl
@[simp] theorem State.modCluster_lastCtx : (s.modCluster k f).lastCtx = s.lastCtx := rfl
@[simp] theorem State.modCluster_regions : (s.modCluster k f).regions = s.regions := rfl
@[simp] theorem State.modCluster_frames : (s.modCluster k f).frames = s.frames := rfl
@[simp] theorem State.modCluster_zeroq : (s.modCluster k f).zeroq = s.zeroq := rfl
@[simp] theorem State.modCluster_nextZero : (s.modCluster k f).nextZero = s.nextZero := rfl
@[simp] theorem State.modCluster_shoots : (s.modCluster k f).shoots = s.shoots := rfl
@[simp] theorem State.modCluster_moving : (s.modCluster k f).moving = s.moving := rfl
@[simp] theorem State.modCluster_holdq : (s.modCluster k f).holdq = s.holdq := rfl
@[simp] theorem State.modCluster_fullq : (s.modCluster k f).fullq = s.fullq := rfl
@[simp] theorem State.modCluster_bw : (s.modCluster k f).bw = s.bw := rfl
@[simp] theorem State.modCluster_refills : (s.modCluster k f).refills = s.refills := rfl
@[simp] theorem State.modCluster_bwq : (s.modCluster k f).bwq = s.bwq := rfl
@[simp] theorem State.modCluster_nextBw : (s.modCluster k f).nextBw = s.nextBw := rfl
@[simp] theorem State.modCluster_hvpod : (s.modCluster k f).hvpod = s.hvpod := rfl
@[simp] theorem State.modCluster_links : (s.modCluster k f).links = s.links := rfl
@[simp] theorem State.modCluster_ranges : (s.modCluster k f).ranges = s.ranges := rfl
@[simp] theorem State.modCluster_txs : (s.modCluster k f).txs = s.txs := rfl
@[simp] theorem State.modCluster_nextSeq : (s.modCluster k f).nextSeq = s.nextSeq := rfl
@[simp] theorem State.modCluster_transit : (s.modCluster k f).transit = s.transit := rfl
@[simp] theorem State.modCluster_eths : (s.modCluster k f).eths = s.eths := rfl
@[simp] theorem State.modCluster_pds : (s.modCluster k f).pds = s.pds := rfl
@[simp] theorem State.modCluster_regionsMr : (s.modCluster k f).regionsMr = s.regionsMr := rfl
@[simp] theorem State.modCluster_qps : (s.modCluster k f).qps = s.qps := rfl
@[simp] theorem State.modCluster_dies : (s.modCluster k f).dies = s.dies := rfl
@[simp] theorem State.modCluster_far : (s.modCluster k f).far = s.far := rfl
@[simp] theorem State.modCluster_cur : (s.modCluster k f).cur = s.cur := rfl
@[simp] theorem State.modCluster_issueq : (s.modCluster k f).issueq = s.issueq := rfl
@[simp] theorem State.modCluster_agenda : (s.modCluster k f).agenda = s.agenda := rfl
@[simp] theorem State.modCluster_hostw : (s.modCluster k f).hostw = s.hostw := rfl
@[simp] theorem State.modCluster_turn : (s.modCluster k f).turn = s.turn := rfl
@[simp] theorem State.modCluster_tick : (s.modCluster k f).tick = s.tick := rfl
end modCluster

@[simp] theorem State.atTid_cur (s : State) (t : Tid) : (s.at_ t).cur = t := rfl
@[simp] theorem State.atTid_atTid (s : State) (t u : Tid) : (s.at_ t).at_ u = s.at_ u := rfl
@[simp] theorem State.atTid_self (s : State) : s.at_ s.cur = s := rfl

/-! ### Reads after updates -/

@[simp] theorem State.slot_setSlot_self (s : State) (t : Tid) (x : Slot) : (s.setSlot t x).slot t = x := by
  simp [State.slot, State.setSlot]

theorem State.slot_setSlot_ne (s : State) {t u : Tid} (x : Slot) (h : t.key ≠ u.key) : (s.setSlot t x).slot u = s.slot u := by
  simp [State.slot, State.setSlot, Tab.getD_set_ne _ _ _ h]

@[simp] theorem State.thread_setThread_self (s : State) (t : Tid) (x : Thread) : (s.setThread t x).thread t = x := by
  simp [State.thread, State.setThread]

theorem State.thread_setThread_ne (s : State) {t u : Tid} (x : Thread) (h : t.key ≠ u.key) :
    (s.setThread t x).thread u = s.thread u := by
  simp [State.thread, State.setThread, State.slot_setSlot_ne s _ h]

@[simp] theorem State.me_setMe (s : State) (x : Thread) : (s.setMe x).me = x := by simp [State.me, State.setMe]
@[simp] theorem State.me_modMe (s : State) (f : Thread → Thread) : (s.modMe f).me = f s.me := by simp [State.modMe]
@[simp] theorem State.me_setSlot_cur (s : State) (x : Slot) : (s.setSlot s.cur x).me = x.th := by simp [State.me, State.thread]
@[simp] theorem State.st_modMe (s : State) (f : Thread → Thread) : ((s.modMe f).slot s.cur).st = (s.slot s.cur).st := by
  simp [State.modMe, State.setMe, State.setThread]

@[simp] theorem State.core_setCore_self (s : State) (c : Nat) (k : Core) : (s.setCore c k).core c = k := by
  simp [State.core, State.setCore]
theorem State.core_setCore_ne (s : State) {c d : Nat} (k : Core) (h : c ≠ d) : (s.setCore c k).core d = s.core d := by
  simp [State.core, State.setCore, Tab.getD_set_ne _ _ _ h]
@[simp] theorem State.group_setGroup_self (s : State) (n : Nat) (g : Group) : (s.setGroup n g).group n = g := by
  simp [State.group, State.setGroup]
theorem State.group_setGroup_ne (s : State) {n m : Nat} (g : Group) (h : n ≠ m) : (s.setGroup n g).group m = s.group m := by
  simp [State.group, State.setGroup, Tab.getD_set_ne _ _ _ h]
@[simp] theorem State.ctx_modCtx_self (s : State) (c : Nat) (f : Context → Context) : (s.modCtx c f).ctx c = f (s.ctx c) := by
  simp [State.ctx, State.modCtx]
theorem State.ctx_modCtx_ne (s : State) {c d : Nat} (f : Context → Context) (h : c ≠ d) : (s.modCtx c f).ctx d = s.ctx d := by
  simp [State.ctx, State.modCtx, Tab.getD_set_ne _ _ _ h]

/-! ### Threads -/

section setX
variable (t : Thread) (r : XReg) (v : Word)
@[simp] theorem Thread.setX_p : (t.setX r v).p = t.p := rfl
@[simp] theorem Thread.setX_e : (t.setX r v).e = t.e := rfl
@[simp] theorem Thread.setX_eb : (t.setX r v).eb = t.eb := rfl
@[simp] theorem Thread.setX_pc : (t.setX r v).pc = t.pc := rfl
@[simp] theorem Thread.setX_npc : (t.setX r v).npc = t.npc := rfl
@[simp] theorem Thread.setX_nnpc : (t.setX r v).nnpc = t.nnpc := rfl
@[simp] theorem Thread.setX_a0 : (t.setX r v).a0 = t.a0 := rfl
@[simp] theorem Thread.setX_a1 : (t.setX r v).a1 = t.a1 := rfl
@[simp] theorem Thread.setX_k0 : (t.setX r v).k0 = t.k0 := rfl
@[simp] theorem Thread.setX_k1 : (t.setX r v).k1 = t.k1 := rfl
@[simp] theorem Thread.setX_k2 : (t.setX r v).k2 = t.k2 := rfl
@[simp] theorem Thread.setX_priv : (t.setX r v).priv = t.priv := rfl
@[simp] theorem Thread.setX_ne : (t.setX r v).ne = t.ne := rfl
@[simp] theorem Thread.setX_bsk : (t.setX r v).bsk = t.bsk := rfl
@[simp] theorem Thread.setX_putfail : (t.setX r v).putfail = t.putfail := rfl
@[simp] theorem Thread.setX_tvec : (t.setX r v).tvec = t.tvec := rfl
@[simp] theorem Thread.setX_tcause : (t.setX r v).tcause = t.tcause := rfl
@[simp] theorem Thread.setX_taddr : (t.setX r v).taddr = t.taddr := rfl
@[simp] theorem Thread.setX_tpc0 : (t.setX r v).tpc0 = t.tpc0 := rfl
@[simp] theorem Thread.setX_tpc1 : (t.setX r v).tpc1 = t.tpc1 := rfl
@[simp] theorem Thread.setX_tpc2 : (t.setX r v).tpc2 = t.tpc2 := rfl
@[simp] theorem Thread.setX_tann : (t.setX r v).tann = t.tann := rfl
@[simp] theorem Thread.setX_tsave0 : (t.setX r v).tsave0 = t.tsave0 := rfl
@[simp] theorem Thread.setX_tsave1 : (t.setX r v).tsave1 = t.tsave1 := rfl
@[simp] theorem Thread.setX_left : (t.setX r v).left = t.left := rfl
@[simp] theorem Thread.setX_askAt : (t.setX r v).askAt = t.askAt := rfl
@[simp] theorem Thread.setX_pages : (t.setX r v).pages = t.pages := rfl
@[simp] theorem Thread.setX_pairLine : (t.setX r v).pairLine = t.pairLine := rfl
@[simp] theorem Thread.setX_bkpt : (t.setX r v).bkpt = t.bkpt := rfl
@[simp] theorem Thread.setX_watch : (t.setX r v).watch = t.watch := rfl
@[simp] theorem Thread.setX_pend : (t.setX r v).pend = t.pend := rfl
@[simp] theorem Thread.setX_prio : (t.setX r v).prio = t.prio := rfl
@[simp] theorem Thread.setX_readyAt : (t.setX r v).readyAt = t.readyAt := rfl
@[simp] theorem Thread.setX_lastIssue : (t.setX r v).lastIssue = t.lastIssue := rfl
@[simp] theorem Thread.setX_owed : (t.setX r v).owed = t.owed := rfl
@[simp] theorem Thread.setX_wait : (t.setX r v).wait = t.wait := rfl
@[simp] theorem Thread.setX_reissue : (t.setX r v).reissue = t.reissue := rfl
@[simp] theorem Thread.setX_entering : (t.setX r v).entering = t.entering := rfl
@[simp] theorem Thread.setX_walkFault : (t.setX r v).walkFault = t.walkFault := rfl
@[simp] theorem Thread.setX_fetched : (t.setX r v).fetched = t.fetched := rfl
@[simp] theorem Thread.setX_pairRest : (t.setX r v).pairRest = t.pairRest := rfl
@[simp] theorem Thread.setX_bwaitDone : (t.setX r v).bwaitDone = t.bwaitDone := rfl
@[simp] theorem Thread.setX_resumed : (t.setX r v).resumed = t.resumed := rfl
@[simp] theorem Thread.setX_ldeDone : (t.setX r v).ldeDone = t.ldeDone := rfl
@[simp] theorem Thread.setX_failed : (t.setX r v).failed = t.failed := rfl
@[simp] theorem Thread.setX_failNew : (t.setX r v).failNew = t.failNew := rfl
@[simp] theorem Thread.setX_ctx : (t.setX r v).ctx = t.ctx := rfl
@[simp] theorem Thread.setX_group : (t.setX r v).group = t.group := rfl
@[simp] theorem Thread.setX_launch : (t.setX r v).launch = t.launch := rfl
@[simp] theorem Thread.setX_wid : (t.setX r v).wid = t.wid := rfl
@[simp] theorem Thread.setX_pos : (t.setX r v).pos = t.pos := rfl
@[simp] theorem Thread.setX_spawned : (t.setX r v).spawned = t.spawned := rfl
end setX

section setP
variable (t : Thread) (r q : PReg) (v : Word) (c : Bool)
@[simp] theorem Thread.setP_x : (t.setP r v).x = t.x := by unfold Thread.setP; split <;> rfl
@[simp] theorem Thread.setPP_x : (t.setPP r q c).x = t.x := by simp [Thread.setPP]
@[simp] theorem Thread.setP_e : (t.setP r v).e = t.e := by unfold Thread.setP; split <;> rfl
@[simp] theorem Thread.setPP_e : (t.setPP r q c).e = t.e := by simp [Thread.setPP]
@[simp] theorem Thread.setP_eb : (t.setP r v).eb = t.eb := by unfold Thread.setP; split <;> rfl
@[simp] theorem Thread.setPP_eb : (t.setPP r q c).eb = t.eb := by simp [Thread.setPP]
@[simp] theorem Thread.setP_pc : (t.setP r v).pc = t.pc := by unfold Thread.setP; split <;> rfl
@[simp] theorem Thread.setPP_pc : (t.setPP r q c).pc = t.pc := by simp [Thread.setPP]
@[simp] theorem Thread.setP_npc : (t.setP r v).npc = t.npc := by unfold Thread.setP; split <;> rfl
@[simp] theorem Thread.setPP_npc : (t.setPP r q c).npc = t.npc := by simp [Thread.setPP]
@[simp] theorem Thread.setP_nnpc : (t.setP r v).nnpc = t.nnpc := by unfold Thread.setP; split <;> rfl
@[simp] theorem Thread.setPP_nnpc : (t.setPP r q c).nnpc = t.nnpc := by simp [Thread.setPP]
@[simp] theorem Thread.setP_a0 : (t.setP r v).a0 = t.a0 := by unfold Thread.setP; split <;> rfl
@[simp] theorem Thread.setPP_a0 : (t.setPP r q c).a0 = t.a0 := by simp [Thread.setPP]
@[simp] theorem Thread.setP_a1 : (t.setP r v).a1 = t.a1 := by unfold Thread.setP; split <;> rfl
@[simp] theorem Thread.setPP_a1 : (t.setPP r q c).a1 = t.a1 := by simp [Thread.setPP]
@[simp] theorem Thread.setP_k0 : (t.setP r v).k0 = t.k0 := by unfold Thread.setP; split <;> rfl
@[simp] theorem Thread.setPP_k0 : (t.setPP r q c).k0 = t.k0 := by simp [Thread.setPP]
@[simp] theorem Thread.setP_k1 : (t.setP r v).k1 = t.k1 := by unfold Thread.setP; split <;> rfl
@[simp] theorem Thread.setPP_k1 : (t.setPP r q c).k1 = t.k1 := by simp [Thread.setPP]
@[simp] theorem Thread.setP_k2 : (t.setP r v).k2 = t.k2 := by unfold Thread.setP; split <;> rfl
@[simp] theorem Thread.setPP_k2 : (t.setPP r q c).k2 = t.k2 := by simp [Thread.setPP]
@[simp] theorem Thread.setP_priv : (t.setP r v).priv = t.priv := by unfold Thread.setP; split <;> rfl
@[simp] theorem Thread.setPP_priv : (t.setPP r q c).priv = t.priv := by simp [Thread.setPP]
@[simp] theorem Thread.setP_ne : (t.setP r v).ne = t.ne := by unfold Thread.setP; split <;> rfl
@[simp] theorem Thread.setPP_ne : (t.setPP r q c).ne = t.ne := by simp [Thread.setPP]
@[simp] theorem Thread.setP_bsk : (t.setP r v).bsk = t.bsk := by unfold Thread.setP; split <;> rfl
@[simp] theorem Thread.setPP_bsk : (t.setPP r q c).bsk = t.bsk := by simp [Thread.setPP]
@[simp] theorem Thread.setP_putfail : (t.setP r v).putfail = t.putfail := by unfold Thread.setP; split <;> rfl
@[simp] theorem Thread.setPP_putfail : (t.setPP r q c).putfail = t.putfail := by simp [Thread.setPP]
@[simp] theorem Thread.setP_tvec : (t.setP r v).tvec = t.tvec := by unfold Thread.setP; split <;> rfl
@[simp] theorem Thread.setPP_tvec : (t.setPP r q c).tvec = t.tvec := by simp [Thread.setPP]
@[simp] theorem Thread.setP_tcause : (t.setP r v).tcause = t.tcause := by unfold Thread.setP; split <;> rfl
@[simp] theorem Thread.setPP_tcause : (t.setPP r q c).tcause = t.tcause := by simp [Thread.setPP]
@[simp] theorem Thread.setP_taddr : (t.setP r v).taddr = t.taddr := by unfold Thread.setP; split <;> rfl
@[simp] theorem Thread.setPP_taddr : (t.setPP r q c).taddr = t.taddr := by simp [Thread.setPP]
@[simp] theorem Thread.setP_tpc0 : (t.setP r v).tpc0 = t.tpc0 := by unfold Thread.setP; split <;> rfl
@[simp] theorem Thread.setPP_tpc0 : (t.setPP r q c).tpc0 = t.tpc0 := by simp [Thread.setPP]
@[simp] theorem Thread.setP_tpc1 : (t.setP r v).tpc1 = t.tpc1 := by unfold Thread.setP; split <;> rfl
@[simp] theorem Thread.setPP_tpc1 : (t.setPP r q c).tpc1 = t.tpc1 := by simp [Thread.setPP]
@[simp] theorem Thread.setP_tpc2 : (t.setP r v).tpc2 = t.tpc2 := by unfold Thread.setP; split <;> rfl
@[simp] theorem Thread.setPP_tpc2 : (t.setPP r q c).tpc2 = t.tpc2 := by simp [Thread.setPP]
@[simp] theorem Thread.setP_tann : (t.setP r v).tann = t.tann := by unfold Thread.setP; split <;> rfl
@[simp] theorem Thread.setPP_tann : (t.setPP r q c).tann = t.tann := by simp [Thread.setPP]
@[simp] theorem Thread.setP_tsave0 : (t.setP r v).tsave0 = t.tsave0 := by unfold Thread.setP; split <;> rfl
@[simp] theorem Thread.setPP_tsave0 : (t.setPP r q c).tsave0 = t.tsave0 := by simp [Thread.setPP]
@[simp] theorem Thread.setP_tsave1 : (t.setP r v).tsave1 = t.tsave1 := by unfold Thread.setP; split <;> rfl
@[simp] theorem Thread.setP_left : (t.setP r v).left = t.left := by unfold Thread.setP; split <;> rfl
@[simp] theorem Thread.setP_askAt : (t.setP r v).askAt = t.askAt := by unfold Thread.setP; split <;> rfl
@[simp] theorem Thread.setP_pages : (t.setP r v).pages = t.pages := by unfold Thread.setP; split <;> rfl
@[simp] theorem Thread.setP_pairLine : (t.setP r v).pairLine = t.pairLine := by unfold Thread.setP; split <;> rfl
@[simp] theorem Thread.setPP_tsave1 : (t.setPP r q c).tsave1 = t.tsave1 := by simp [Thread.setPP]
@[simp] theorem Thread.setPP_left : (t.setPP r q c).left = t.left := by simp [Thread.setPP]
@[simp] theorem Thread.setPP_askAt : (t.setPP r q c).askAt = t.askAt := by simp [Thread.setPP]
@[simp] theorem Thread.setPP_pages : (t.setPP r q c).pages = t.pages := by simp [Thread.setPP]
@[simp] theorem Thread.setPP_pairLine : (t.setPP r q c).pairLine = t.pairLine := by simp [Thread.setPP]
@[simp] theorem Thread.setP_bkpt : (t.setP r v).bkpt = t.bkpt := by unfold Thread.setP; split <;> rfl
@[simp] theorem Thread.setPP_bkpt : (t.setPP r q c).bkpt = t.bkpt := by simp [Thread.setPP]
@[simp] theorem Thread.setP_watch : (t.setP r v).watch = t.watch := by unfold Thread.setP; split <;> rfl
@[simp] theorem Thread.setPP_watch : (t.setPP r q c).watch = t.watch := by simp [Thread.setPP]
@[simp] theorem Thread.setP_pend : (t.setP r v).pend = t.pend := by unfold Thread.setP; split <;> rfl
@[simp] theorem Thread.setPP_pend : (t.setPP r q c).pend = t.pend := by simp [Thread.setPP]
@[simp] theorem Thread.setP_prio : (t.setP r v).prio = t.prio := by unfold Thread.setP; split <;> rfl
@[simp] theorem Thread.setPP_prio : (t.setPP r q c).prio = t.prio := by simp [Thread.setPP]
@[simp] theorem Thread.setP_readyAt : (t.setP r v).readyAt = t.readyAt := by unfold Thread.setP; split <;> rfl
@[simp] theorem Thread.setPP_readyAt : (t.setPP r q c).readyAt = t.readyAt := by simp [Thread.setPP]
@[simp] theorem Thread.setP_lastIssue : (t.setP r v).lastIssue = t.lastIssue := by unfold Thread.setP; split <;> rfl
@[simp] theorem Thread.setPP_lastIssue : (t.setPP r q c).lastIssue = t.lastIssue := by simp [Thread.setPP]
@[simp] theorem Thread.setP_owed : (t.setP r v).owed = t.owed := by unfold Thread.setP; split <;> rfl
@[simp] theorem Thread.setPP_owed : (t.setPP r q c).owed = t.owed := by simp [Thread.setPP]
@[simp] theorem Thread.setP_wait : (t.setP r v).wait = t.wait := by unfold Thread.setP; split <;> rfl
@[simp] theorem Thread.setPP_wait : (t.setPP r q c).wait = t.wait := by simp [Thread.setPP]
@[simp] theorem Thread.setP_reissue : (t.setP r v).reissue = t.reissue := by unfold Thread.setP; split <;> rfl
@[simp] theorem Thread.setPP_reissue : (t.setPP r q c).reissue = t.reissue := by simp [Thread.setPP]
@[simp] theorem Thread.setP_entering : (t.setP r v).entering = t.entering := by unfold Thread.setP; split <;> rfl
@[simp] theorem Thread.setPP_entering : (t.setPP r q c).entering = t.entering := by simp [Thread.setPP]
@[simp] theorem Thread.setP_walkFault : (t.setP r v).walkFault = t.walkFault := by unfold Thread.setP; split <;> rfl
@[simp] theorem Thread.setPP_walkFault : (t.setPP r q c).walkFault = t.walkFault := by simp [Thread.setPP]
@[simp] theorem Thread.setP_fetched : (t.setP r v).fetched = t.fetched := by unfold Thread.setP; split <;> rfl
@[simp] theorem Thread.setPP_fetched : (t.setPP r q c).fetched = t.fetched := by simp [Thread.setPP]
@[simp] theorem Thread.setP_pairRest : (t.setP r v).pairRest = t.pairRest := by unfold Thread.setP; split <;> rfl
@[simp] theorem Thread.setPP_pairRest : (t.setPP r q c).pairRest = t.pairRest := by simp [Thread.setPP]
@[simp] theorem Thread.setP_bwaitDone : (t.setP r v).bwaitDone = t.bwaitDone := by unfold Thread.setP; split <;> rfl
@[simp] theorem Thread.setPP_bwaitDone : (t.setPP r q c).bwaitDone = t.bwaitDone := by simp [Thread.setPP]
@[simp] theorem Thread.setP_resumed : (t.setP r v).resumed = t.resumed := by unfold Thread.setP; split <;> rfl
@[simp] theorem Thread.setPP_resumed : (t.setPP r q c).resumed = t.resumed := by simp [Thread.setPP]
@[simp] theorem Thread.setP_ldeDone : (t.setP r v).ldeDone = t.ldeDone := by unfold Thread.setP; split <;> rfl
@[simp] theorem Thread.setPP_ldeDone : (t.setPP r q c).ldeDone = t.ldeDone := by simp [Thread.setPP]
@[simp] theorem Thread.setP_failed : (t.setP r v).failed = t.failed := by unfold Thread.setP; split <;> rfl
@[simp] theorem Thread.setPP_failed : (t.setPP r q c).failed = t.failed := by simp [Thread.setPP]
@[simp] theorem Thread.setP_failNew : (t.setP r v).failNew = t.failNew := by unfold Thread.setP; split <;> rfl
@[simp] theorem Thread.setPP_failNew : (t.setPP r q c).failNew = t.failNew := by simp [Thread.setPP]
@[simp] theorem Thread.setP_ctx : (t.setP r v).ctx = t.ctx := by unfold Thread.setP; split <;> rfl
@[simp] theorem Thread.setPP_ctx : (t.setPP r q c).ctx = t.ctx := by simp [Thread.setPP]
@[simp] theorem Thread.setP_group : (t.setP r v).group = t.group := by unfold Thread.setP; split <;> rfl
@[simp] theorem Thread.setPP_group : (t.setPP r q c).group = t.group := by simp [Thread.setPP]
@[simp] theorem Thread.setP_launch : (t.setP r v).launch = t.launch := by unfold Thread.setP; split <;> rfl
@[simp] theorem Thread.setPP_launch : (t.setPP r q c).launch = t.launch := by simp [Thread.setPP]
@[simp] theorem Thread.setP_wid : (t.setP r v).wid = t.wid := by unfold Thread.setP; split <;> rfl
@[simp] theorem Thread.setPP_wid : (t.setPP r q c).wid = t.wid := by simp [Thread.setPP]
@[simp] theorem Thread.setP_pos : (t.setP r v).pos = t.pos := by unfold Thread.setP; split <;> rfl
@[simp] theorem Thread.setPP_pos : (t.setPP r q c).pos = t.pos := by simp [Thread.setPP]
@[simp] theorem Thread.setP_spawned : (t.setP r v).spawned = t.spawned := by unfold Thread.setP; split <;> rfl
@[simp] theorem Thread.setPP_spawned : (t.setPP r q c).spawned = t.spawned := by simp [Thread.setPP]
end setP

@[simp] theorem Thread.xr_setX_self (t : Thread) (r : XReg) (v : Word) : (t.setX r v).xr r = v := by
  simp [Thread.xr, Thread.setX]
theorem Thread.xr_setX_ne (t : Thread) {r q : XReg} (v : Word) (h : r ≠ q) : (t.setX r v).xr q = t.xr q := by
  simp only [Thread.xr, Thread.setX]
  exact Vector.getElem_set_ne r.2 q.2 (fun e => h (Fin.ext e))
@[simp] theorem Thread.pr_zero (t : Thread) : t.pr 0 = ones := rfl
@[simp] theorem Thread.setP_zero (t : Thread) (v : Word) : t.setP 0 v = t := rfl
theorem Thread.pr_setP_self (t : Thread) {r : PReg} (v : Word) (h : r ≠ 0) : (t.setP r v).pr r = v := by
  simp [Thread.pr, Thread.setP, h]
theorem Thread.pr_setP_ne (t : Thread) {r q : PReg} (v : Word) (h : r ≠ q) : (t.setP r v).pr q = t.pr q := by
  unfold Thread.pr Thread.setP
  split
  · rfl
  · split
    · rfl
    · exact Vector.getElem_set_ne r.2 q.2 (fun e => h (Fin.ext e))
@[simp] theorem Thread.pr_setX (t : Thread) (r : XReg) (v : Word) (q : PReg) : (t.setX r v).pr q = t.pr q := rfl
@[simp] theorem Thread.xr_setP (t : Thread) (r : PReg) (v : Word) (q : XReg) : (t.setP r v).xr q = t.xr q := by simp [Thread.xr]
@[simp] theorem Thread.xr_setPP (t : Thread) (r p : PReg) (c : Bool) (q : XReg) : (t.setPP r p c).xr q = t.xr q := by simp [Thread.xr]

end Sys2Proof.Machine
end

