-- ==== Sys2Proof/Laws/Ops.lean ====
section
/-! SUPPORT. What the shared operations over threads can do, each said once: the commit, a guarded instruction, its waits, taking a
trap and returning from one. -/

namespace Sys2Proof.Machine

open Sys2Proof.Safety

/-! ### The commit -/

/-- The thread after a commit (R284). -/
def Thread.committed (t : Thread) (taken : Option Word) (ann : Bool) : Thread :=
  { t.advance taken ann with reissue := false, entering := false, pairRest := false, walkFault := none, pages := [],
                             fetched := none, bwaitDone := none, resumed := false, ldeDone := none, wait := .none }

/-- The issue marks after a commit: the second half of a pair is marked (R36). -/
def markRest (s : State) (pair : Bool) : List (Tid × Half) := if pair then (s.cur, .second) :: s.issueq else s.issueq

/-- Two updates of the executing thread are one. -/
theorem State.modMe_modMe (s : State) (f g : Thread → Thread) : (s.modMe f).modMe g = s.modMe fun t => g (f t) := by
  unfold State.modMe State.setMe State.setThread State.setSlot State.me State.thread State.slot
  simp [Tab.set_set]

theorem State.modMe_me (s : State) (f : Thread → Thread) : (s.modMe f).me = f s.me := by
  simp [State.modMe, State.setMe, State.me, State.setThread, State.thread, State.setSlot, State.slot]

theorem State.modMe_slot_cur (s : State) (f : Thread → Thread) : (s.modMe f).slot s.cur = { s.slot s.cur with th := f s.me } := by
  simp [State.modMe, State.setMe, State.setThread, State.slot, State.setSlot]

/-- The commit of a READY thread. -/
theorem State.commitTaken_ready {s : State} (h : (s.slot s.cur).st = .ready) (taken : Option Word) (ann : Bool) :
    s.commitTaken taken ann =
      { s.modMe (fun t => t.committed taken ann) with issueq := markRest s s.me.pairRest } := by
  have hr : ∀ f : Thread → Thread, (s.modMe f).ready = s.modMe fun t => { f t with wait := .none } := by
    intro f
    unfold State.ready
    have : ((s.modMe f).slot (s.modMe f).cur).st = .ready := by
      show ((s.modMe f).slot s.cur).st = .ready
      rw [State.modMe_slot_cur]; exact h
    simp only [this, State.modMe_modMe]
  unfold State.commitTaken
  simp only [hr]
  unfold markRest
  cases s.me.pairRest <;> rfl

/-! ### Completion from an update of the executing thread -/

/-- The commit of a state `m` reached from `s` by an update of the executing thread's registers and by what `same` admits. -/
theorem completesIn_of_commit {i : Instr} {s m : State} {th : Thread} {xs : List XReg} {ps : List PReg} {same : State → State → Prop}
    {post : State → Prop} (hr : (s.slot s.cur).st = .ready) (he : exec i s = .next m.commit) (hc : m.cur = s.cur)
    (hm : m.slots = s.slots.set s.cur.key { s.slot s.cur with th := th })
    (hx : ∃ x p, th = { s.me with x := x, p := p })
    (hxs : ∀ r, r ∉ xs → th.xr r = s.me.xr r) (hps : ∀ q, q ∉ ps → th.pr q = s.me.pr q)
    (hsame : ∀ sl q, same s { m with slots := sl, issueq := q })
    (hpost : ∀ sl q, (∀ r, ({ m with slots := sl, issueq := q } : State).me.xr r = th.xr r) →
      (∀ r, ({ m with slots := sl, issueq := q } : State).me.pr r = th.pr r) → post { m with slots := sl, issueq := q }) :
    CompletesIn i s xs ps same post := by
  obtain ⟨x, p, hf⟩ := hx
  have hms : m.slot m.cur = { s.slot s.cur with th := th } := by
    rw [hc]; unfold State.slot; rw [hm, Tab.getD_set_self]; rfl
  have hmr : (m.slot m.cur).st = .ready := by rw [hms]; exact hr
  have hmm : m.me = th := by unfold State.me State.thread; rw [hms]
  refine ⟨_, he, ?_⟩
  rw [State.commit, State.commitTaken_ready hmr]
  let sl := (m.modMe fun t => t.committed none false).slots
  have hform : ({ m.modMe (fun t => t.committed none false) with issueq := markRest m m.me.pairRest } : State)
      = { m with slots := sl, issueq := markRest m m.me.pairRest } := rfl
  rw [hform]
  have hslot : ∀ q, ({ m with slots := sl, issueq := q } : State).slot m.cur = { s.slot s.cur with th := th.committed none false } := by
    intro q
    have := State.modMe_slot_cur m fun t => t.committed none false
    rw [hmm, hms] at this
    exact this
  have hme : ∀ q, ({ m with slots := sl, issueq := q } : State).me = th.committed none false := by
    intro q
    show (({ m with slots := sl, issueq := q } : State).slot m.cur).th = _
    rw [hslot]
  refine ⟨hc, ?_, hsame _ _, ?_, ?_, hpost _ _ (fun r => by rw [hme]; rfl) (fun r => by rw [hme]; rfl)⟩
  · unfold advanced
    rw [hme, hf]
    refine ⟨rfl, rfl, rfl, by simp [Thread.committed, Thread.advance], rfl, rfl, rfl, rfl, ?_⟩
    show (State.slot _ m.cur).st = _
    rw [hslot]
    exact hr
  · intro id hid
    show (m.modMe fun t => t.committed none false).slot id = _
    unfold State.slot State.modMe State.setMe State.setThread State.setSlot
    rw [hc]
    show Tab.getD (Tab.set m.slots _ _) _ _ = _
    rw [hm, Tab.set_set, Tab.getD_set_ne _ _ _ (Ne.symm hid)]
  · rw [hme]
    refine ⟨fun r hr => hxs r hr, fun q hq => hps q hq, ?_⟩
    rw [hf]
    exact ⟨rfl, rfl, rfl, rfl, rfl, rfl, rfl, rfl, rfl, rfl, rfl⟩

/-- An update of the executing thread alone, followed by the commit, completes. -/
theorem completes_of_modMe {i : Instr} {s : State} {f : Thread → Thread} {xs : List XReg} {ps : List PReg} {post : State → Prop}
    (hr : (s.slot s.cur).st = .ready) (he : exec i s = .next (s.modMe f).commit)
    (hx : ∃ x p, f s.me = { s.me with x := x, p := p })
    (hxs : ∀ r, r ∉ xs → (f s.me).xr r = s.me.xr r) (hps : ∀ q, q ∉ ps → (f s.me).pr q = s.me.pr q)
    (hpost : ∀ t : State, (∀ r, t.me.xr r = (f s.me).xr r) → (∀ q, t.me.pr q = (f s.me).pr q) → post t) :
    Completes i s xs ps post :=
  completesIn_of_commit hr he rfl rfl hx hxs hps (fun _ _ => rfl) (fun _ _ h1 h2 => hpost _ h1 h2)

/-! ### Guarded instructions -/

theorem firstOwed_none {s : State} {regs : List XReg} (h : freeRegs s regs = true) : s.me.firstOwed regs = none := by
  simp only [freeRegs, Bool.and_eq_true, List.all_eq_true, decide_eq_true_eq] at h
  simp only [Thread.firstOwed, List.find?_eq_none, List.any_eq_true, not_exists, not_and, decide_eq_true_eq]
  exact fun r hr o ho => h.2 r hr o ho

theorem freeRegs_ready {s : State} {regs : List XReg} (h : freeRegs s regs = true) : (s.slot s.cur).st = .ready := by
  simp only [freeRegs, Bool.and_eq_true, decide_eq_true_eq] at h; exact h.1

theorem freeRegs_mono {s : State} {regs regs' : List XReg} (h : freeRegs s regs = true) (hs : regs' ⊆ regs) :
    freeRegs s regs' = true := by
  simp only [freeRegs, Bool.and_eq_true, List.all_eq_true, decide_eq_true_eq] at h ⊢
  exact ⟨h.1, fun r hr o ho => h.2 r (hs hr) o ho⟩

theorem runs_guard {s : State} {g : Guard} {regs : List XReg} (h : runs s g regs = true) : s.me.guard g = true := by
  simp only [runs, Bool.and_eq_true] at h; exact h.1

theorem runs_freeRegs {s : State} {g : Guard} {regs : List XReg} (h : runs s g regs = true) : freeRegs s regs = true := by
  simp only [runs, Bool.and_eq_true] at h; exact h.2

theorem runs_mono {s : State} {g : Guard} {regs regs' : List XReg} (h : runs s g regs = true) (hs : regs' ⊆ regs) :
    runs s g regs' = true := by
  simp only [runs, Bool.and_eq_true]; exact ⟨runs_guard h, freeRegs_mono (runs_freeRegs h) hs⟩

/-- An instruction that runs has its effect. -/
theorem guarded_runs {s : State} {g : Guard} {regs regs' : List XReg} (h : runs s g regs = true) (hs : regs' ⊆ regs)
    (k : State → State) : guarded g regs' s k = .next (k s) := by
  simp only [guarded, runs_guard h, firstOwed_none (freeRegs_mono (runs_freeRegs h) hs), if_true]

/-- A false guard leaves only the commit (R34, R38). -/
theorem guarded_false {s : State} {g : Guard} (h : s.me.guard g = false) (regs : List XReg) (k : State → State) :
    guarded g regs s k = .next s.commit := by
  simp [guarded, h]

/-- A write of one x register, from the thread as it stands. -/
theorem writes_of_guarded {i : Instr} {s : State} {g : Guard} {regs regs' : List XReg} {xd : XReg} {f : Thread → Word} {v : Word}
    (h : runs s g regs = true) (hs : regs' ⊆ regs)
    (he : exec i s = guarded g regs' s fun s => (s.modMe fun t => t.setX xd (f t)).commit) (hv : f s.me = v) : Writes i s xd v := by
  rw [guarded_runs h hs] at he
  refine completes_of_modMe (freeRegs_ready (runs_freeRegs h)) he ⟨_, _, rfl⟩ ?_ (fun _ _ => rfl) ?_
  · intro r hr
    exact Thread.xr_setX_ne _ _ (fun e => hr (by simp [e]))
  · intro t hx _
    rw [hx, Thread.xr_setX_self, hv]

/-- A write of one predicate. -/
theorem writesP_of_guarded {i : Instr} {s : State} {g : Guard} {regs regs' : List XReg} {pd : PReg} {f : Thread → Word} {v : Word}
    (h : runs s g regs = true) (hs : regs' ⊆ regs)
    (he : exec i s = guarded g regs' s fun s => (s.modMe fun t => t.setP pd (f t)).commit) (hv : f s.me = v) : WritesP i s pd v := by
  rw [guarded_runs h hs] at he
  refine completes_of_modMe (freeRegs_ready (runs_freeRegs h)) he ?_ (fun r _ => ?_) (fun q hq => ?_) ?_
  · unfold Thread.setP; split
    · exact ⟨_, _, rfl⟩
    · exact ⟨_, _, rfl⟩
  · simp
  · exact Thread.pr_setP_ne _ _ (fun e => hq (by simp [e]))
  · intro t _ hp
    rw [hp]
    split
    · next e => subst e; rfl
    · next e => rw [Thread.pr_setP_self _ _ e, hv]

/-- A condition written to two predicates. -/
theorem decides_of_guarded {i : Instr} {s : State} {g : Guard} {regs regs' : List XReg} {pd pe : PReg} {f : Thread → Bool} {c : Bool}
    (h : runs s g regs = true) (hs : regs' ⊆ regs)
    (he : exec i s = guarded g regs' s fun s => (s.modMe fun t => t.setPP pd pe (f t)).commit) (hv : f s.me = c) :
    Decides i s pd pe c := by
  rw [guarded_runs h hs] at he
  refine completes_of_modMe (freeRegs_ready (runs_freeRegs h)) he ?_ (fun r _ => ?_) (fun q hq => ?_) ?_
  · unfold Thread.setPP Thread.setP; split <;> split <;> exact ⟨_, _, rfl⟩
  · simp
  · have h1 : pe ≠ q := fun e => hq (by simp [e])
    have h2 : pd ≠ q := fun e => hq (by simp [e])
    rw [Thread.setPP, Thread.pr_setP_ne _ _ h1, Thread.pr_setP_ne _ _ h2]
  · intro t _ hp
    rw [hp pe, hp pd, hv, Thread.setPP]
    constructor
    · split
      · next e => subst e; rfl
      · next e => rw [Thread.pr_setP_self _ _ e]
    · intro hne
      rw [Thread.pr_setP_ne _ _ hne.symm]
      split
      · next e => subst e; rfl
      · next e => rw [Thread.pr_setP_self _ _ e]

end Sys2Proof.Machine
end

