-- ==== Sys2Proof/Laws/Access.lean ====
section
/-! SUPPORT. What the checks of an access answer on the executing core's own scratchpad, and what accesses performed there do. -/

namespace Sys2Proof.Machine

open Sys2Proof.Safety

/-- The target of an access to the executing core's own scratchpad. -/
def State.ownTarget (s : State) (ea : Word) : Target := { chip := s.chip, pa := localPa s.cur.core ea.toNat, bwc := none, loc := true }

theorem shapeBase_lt : shapeBase < spadSize := by unfold shapeBase spadSize; omega

theorem spadSize_lt : spadSize < 2 ^ 48 := by unfold spadSize; omega

theorem place_localPa {c o : Nat} (hc : c < 256) (ho : o < spadSize) : place (localPa c o) = .spad c o := by
  unfold place localPa
  have h1 : ¬ spadBase + c * spadSize + o < hbmSize := by simp only [spadBase, hbmSize, spadSize]; omega
  have h2 : spadBase ≤ spadBase + c * spadSize + o ∧ spadBase + c * spadSize + o < spadBase + 256 * spadSize := by
    simp only [spadBase, spadSize] at *; omega
  rw [if_neg h1, if_pos h2]
  have h3 : spadBase + c * spadSize + o - spadBase = spadSize * c + o := by rw [Nat.mul_comm spadSize c]; omega
  rw [h3, Nat.mul_add_div (by decide), Nat.mul_add_mod, Nat.div_eq_of_lt ho, Nat.mod_eq_of_lt ho, Nat.add_zero]

/-- A lock that a read meets is one that a write meets. -/
theorem State.bridleHit_mono {s : State} {core chip pa n : Nat} (h : s.bridleHit core chip pa n false = false) (r : Bool) :
    s.bridleHit core chip pa n r = false := by
  cases r with
  | false => exact h
  | true =>
    rw [State.bridleHit, List.any_eq_false] at h ⊢
    intro c hc
    have h' := h c hc
    rw [Bool.not_eq_true, List.any_eq_false] at h' ⊢
    intro l hl hx
    refine h' l hl ?_
    simp only [Bool.and_eq_true, Bool.or_eq_true, Bool.not_false, or_true, true_and] at hx ⊢
    exact ⟨⟨hx.1.1.2, hx.1.2⟩, hx.2⟩

/-- The fields of `ownSpad`. -/
theorem ownSpad_iff {s : State} {ea : Word} {n al : Nat} : ownSpad s ea n al = true ↔
    0 < n ∧ ea.toNat % al = 0 ∧ ea.toNat + n ≤ shapeBase ∧ s.cur.core < 256 ∧ s.ringHit s.cur.core ea.toNat n = none
      ∧ s.bridleHit s.cur.core s.chip (localPa s.cur.core ea.toNat) n false = false ∧ s.me.watch.getLsbD 63 = false := by
  simp only [ownSpad, localRange, Bool.and_eq_true, decide_eq_true_eq, Option.isNone_iff_eq_none, Bool.not_eq_true']
  tauto

/-- Such an access lies below the shape record and in the scratchpad. -/
theorem ownSpad_lt {s : State} {ea : Word} {n al : Nat} (h : ownSpad s ea n al = true) :
    ea.toNat < shapeBase ∧ ea.toNat < spadSize := by
  have h' := ownSpad_iff.1 h
  have h1 : ea.toNat < shapeBase := Nat.lt_of_lt_of_le (Nat.lt_add_of_pos_right h'.1) h'.2.2.1
  exact ⟨h1, Nat.lt_trans h1 shapeBase_lt⟩

theorem place_own {s : State} {ea : Word} {n al : Nat} (h : ownSpad s ea n al = true) :
    place (s.ownTarget ea).pa = .spad s.cur.core ea.toNat := place_localPa (ownSpad_iff.1 h).2.2.2.1 (ownSpad_lt h).2

/-- An access to the own scratchpad does not touch the shape record. -/
theorem State.noShape_own {s : State} {ea : Word} {n al : Nat} (h : ownSpad s ea n al = true) :
    ((s.ownTarget ea).loc && decide (shapeBase < ea.toNat + n)) = false := by
  rw [decide_eq_false (Nat.not_lt.2 (ownSpad_iff.1 h).2.2.1), Bool.and_false]

theorem isSpad_of {pa c o : Nat} (h : place pa = .spad c o) : isSpad pa = true := by unfold isSpad; rw [h]

/-- The later checks of R273 let an access to a scratchpad of this chip go, that meets no shape record, ring, lock and watchpoint. -/
theorem State.checkTarget_spad {s : State} {ea : Word} {n off : Nat} {o : AccOp} {t : Target}
    (hs : (t.loc && decide (shapeBase < ea.toNat + n)) = false) (hc : t.chip = s.chip) (hp : place t.pa = .spad s.cur.core off)
    (hr : s.ringHit s.cur.core off n = none) (hb : s.bridleHit s.cur.core s.chip t.pa n o.reads = false)
    (hw : s.me.watch.getLsbD 63 = false) : s.checkTarget ea n o t = .go t s := by
  have hw : bitN s.me.watch.toNat 63 = false := by
    rw [← hw]; simp [bitN, BitVec.getLsbD, Nat.testBit, Nat.shiftRight_eq_div_pow, Nat.one_and_eq_mod_two]
  unfold State.checkTarget State.badKind
  rw [hs, hp, hc]
  simp only [Bool.false_and, Bool.false_eq_true, if_false, decide_true, Bool.not_false, Bool.not_true, Bool.and_true, if_true, hr, hb, hw,
    isSpad_of hp, Bool.true_eq_false, and_false]

/-- The later checks of R273 let an access to the own scratchpad go. -/
theorem State.checkTarget_own {s : State} {ea : Word} {n al : Nat} (h : ownSpad s ea n al = true) (o : AccOp) :
    s.checkTarget ea n o (s.ownTarget ea) = .go (s.ownTarget ea) s := by
  obtain ⟨_, _, _, _, h4, h5, h6⟩ := ownSpad_iff.1 h
  exact State.checkTarget_spad (State.noShape_own h) rfl (place_own h) h4 (State.bridleHit_mono h5 o.reads) h6

/-- The checks of R273 let an access to the own scratchpad go. -/
theorem State.check_own {s : State} {ea : Word} {n al : Nat} (h : ownSpad s ea n al = true) (o : AccOp) :
    s.check ea n al o = .go (s.ownTarget ea) s := by
  have h1 := (ownSpad_iff.1 h).2.1
  have hl := (ownSpad_lt h).2
  unfold State.check
  rw [if_neg (not_not.2 h1), if_neg (Nat.not_le.2 (Nat.lt_trans hl spadSize_lt)), if_pos hl]
  exact State.checkTarget_own h o

/-- The own scratchpad is at the executing core. -/
theorem State.atOwnCore_own {s : State} {ea : Word} {n al : Nat} (h : ownSpad s ea n al = true) : s.atOwnCore (s.ownTarget ea) = true := by
  unfold State.atOwnCore
  rw [place_own h, show (s.ownTarget ea).chip = s.chip from rfl]
  simp only [decide_true, Bool.and_self]

theorem inShapeHole_spad {a c o : Nat} (h : place a = .spad c o) : inShapeHole a = decide (shapeBase ≤ o) := by
  unfold inShapeHole; rw [h]

theorem inShapeHole_own {s : State} {ea : Word} {n al : Nat} (h : ownSpad s ea n al = true) : inShapeHole (s.ownTarget ea).pa = false :=
  (inShapeHole_spad (place_own h)).trans (decide_eq_false (Nat.not_le_of_lt (ownSpad_lt h).1))

/-- A memory instruction that runs on the own scratchpad has its effect there. -/
theorem memOp_own {g : Guard} {regs regs' : List XReg} {s : State} {xa : XReg} {off : BitVec 48} {n al : Nat} (h : runs s g regs = true)
    (hs : regs' ⊆ regs) (ho : ownSpad s (s.me.ea xa off) n al = true) (o : AccOp) (k : Word → Target → State → State) :
    memOp g regs' xa off n al o s k = .next (k (s.me.ea xa off) (s.ownTarget (s.me.ea xa off)) s) := by
  unfold memOp
  rw [guarded_runs h hs]
  simp only [State.check_own ho o]

/-- A store in the own scratchpad is performed at once. -/
theorem State.issueStore_own {s : State} {ea : Word} {n al : Nat} (h : ownSpad s ea n al = true) (hu : s.unacked s.cur < 32)
    (kind : StoreKind) (d : List Byte) (k : State → State) :
    s.issueStore ea (s.ownTarget ea) kind d n k =
      k (let x := s.newStore s.nextStore ea ea (s.ownTarget ea) kind d n .done
         ((s.perform x (s.ownTarget ea).pa).2).addStore
           { x with phase := (s.perform x (s.ownTarget ea).pa).1 }) := by
  unfold State.issueStore
  have hb : s.noBuffer (s.ownTarget ea) kind = false := by simp [State.noBuffer, State.atOwnCore_own h]
  rw [if_neg (by simp [hb]; omega)]
  unfold State.putStore
  rw [if_pos (State.atOwnCore_own h)]

/-- What a store does to memory, byte by byte. -/
theorem State.stored_store {s : State} (w : MemoryCanonical s) {a : Nat} (h : inShapeHole a = false) (d : List Byte) :
    stored s (s.store a d) a d := by
  intro b
  rw [State.byte_store w, h]
  rfl

/-- `s.store` changes memory and check bits alone. -/
theorem State.store_form (s : State) (a : Nat) (d : List Byte) :
    s.store a d = { s with mem := (s.store a d).mem, ecc := (s.store a d).ecc } := by
  unfold State.store; split <;> rfl

theorem isFull_insert (f : List Nat) (g x : Nat) : (insertSorted g f).contains x = (decide (x = g) || f.contains x) := by
  induction f with
  | nil => simp [insertSorted]
  | cons h t ih =>
    unfold insertSorted
    split
    · simp
    · split
      · next e => subst e; by_cases hx : x = g <;> simp [hx]
      · simp only [List.contains_cons, ih]
        cases hx : (x == h) <;> cases hg : decide (x = g) <;> simp

/-- Setting or clearing a full bit sets or clears that bit and no other. -/
theorem State.isFull_setFull (s : State) (a b : Nat) (v : Bool) :
    (s.setFull a v).isFull b = if b / 16 = a / 16 then v else s.isFull b := by
  unfold State.setFull State.isFull
  cases v with
  | true =>
    simp only [if_true, isFull_insert]
    split <;> simp_all
  | false =>
    simp only [Bool.false_eq_true, if_false]
    split
    · next e => rw [e]; simp
    · next e =>
      rw [Bool.eq_iff_iff]
      simp only [List.contains_iff_mem, List.mem_filter, bne_iff_ne, ne_eq]
      exact ⟨fun h => h.1, fun h => ⟨h, e⟩⟩

end Sys2Proof.Machine
end

