-- ==== Sys2Proof/Laws/Fields.lean ====
section
/-! SUPPORT. The five formats as numbers: what each field of a word is (01_lines R38 to R45). -/

namespace Sys2Proof.Laws

open Sys2Proof

/-- Two bit strings side by side, as a number. -/
theorem toNat_beside {n m : Nat} (x : BitVec n) (y : BitVec m) : (x ++ y).toNat = x.toNat * 2 ^ m + y.toNat := by
  rw [BitVec.toNat_append, ← Nat.shiftLeft_add_eq_or_of_lt y.isLt, Nat.shiftLeft_eq]

/-- A word whose bits 95 to 84 are an opcode and a guard has that guard. -/
theorem guardOf_of_toNat {w : Slot96} {g : Guard} {op r : Nat} (h : w.toNat = ((op * 2 + g.neg.toNat) * 8 + g.p.val) * 2 ^ 84 + r)
    (hr : r < 2 ^ 84) : guardOf w = g := by
  obtain ⟨n, p⟩ := g
  have hp := p.isLt
  simp only [guardOf, Guard.mk.injEq]
  simp only at h
  constructor
  · rw [BitVec.getLsbD, Nat.testBit_eq_decide_div_mod_eq, h]
    cases n <;> simp <;> omega
  · apply Fin.ext
    show (BitVec.extractLsb' 84 3 w).toNat = p.val
    rw [BitVec.extractLsb'_toNat, Nat.shiftRight_eq_div_pow, h]
    cases n <;> simp <;> omega

/-- A word of format S as a number. -/
theorem packS_toNat (g : Guard) (op : BitVec 8) (fn : BitVec 8) (xd xa xb : BitVec 4) (pd pe : BitVec 3) (is : BitVec 1) (mod : BitVec 5) (imm : BitVec 48) :
    (packS g op fn xd xa xb pd pe is mod imm).toNat = ((op.toNat * 2 + g.neg.toNat) * 8 + g.p.val) * 2 ^ 84
      + (fn.toNat * 2 ^ 76 + xd.toNat * 2 ^ 72 + xa.toNat * 2 ^ 68 + xb.toNat * 2 ^ 64 + pd.toNat * 2 ^ 61 + pe.toNat * 2 ^ 58 + is.toNat * 2 ^ 57 + mod.toNat * 2 ^ 52 + imm.toNat) := by
  show (op ++ BitVec.ofBool g.neg ++ BitVec.ofFin (w := 3) g.p ++ fn ++ xd ++ xa ++ xb ++ pd ++ pe ++ is ++ mod ++ 0#4 ++ imm :
    BitVec (8 + 1 + 3 + 8 + 4 + 4 + 4 + 3 + 3 + 1 + 5 + 4 + 48)).toNat = _
  simp only [toNat_beside, BitVec.toNat_ofBool, BitVec.toNat_ofFin, BitVec.toNat_ofNat]
  omega

/-- The guard of a word of format S. -/
theorem packS_guard (g : Guard) (op : BitVec 8) (fn : BitVec 8) (xd xa xb : BitVec 4) (pd pe : BitVec 3) (is : BitVec 1) (mod : BitVec 5) (imm : BitVec 48) :
    guardOf (packS g op fn xd xa xb pd pe is mod imm) = g := by
  refine guardOf_of_toNat (packS_toNat g op fn xd xa xb pd pe is mod imm) ?_
  have := fn.isLt; have := xd.isLt; have := xa.isLt; have := xb.isLt; have := pd.isLt; have := pe.isLt; have := is.isLt; have := mod.isLt; have := imm.isLt;
  omega

/-- A word of format L as a number. -/
theorem packL_toNat (g : Guard) (op : BitVec 8) (fn : BitVec 8) (xd : BitVec 4) (imm : BitVec 64) :
    (packL g op fn xd imm).toNat = ((op.toNat * 2 + g.neg.toNat) * 8 + g.p.val) * 2 ^ 84
      + (fn.toNat * 2 ^ 76 + xd.toNat * 2 ^ 72 + imm.toNat) := by
  show (op ++ BitVec.ofBool g.neg ++ BitVec.ofFin (w := 3) g.p ++ fn ++ xd ++ 0#8 ++ imm :
    BitVec (8 + 1 + 3 + 8 + 4 + 8 + 64)).toNat = _
  simp only [toNat_beside, BitVec.toNat_ofBool, BitVec.toNat_ofFin, BitVec.toNat_ofNat]
  omega

/-- The guard of a word of format L. -/
theorem packL_guard (g : Guard) (op : BitVec 8) (fn : BitVec 8) (xd : BitVec 4) (imm : BitVec 64) :
    guardOf (packL g op fn xd imm) = g := by
  refine guardOf_of_toNat (packL_toNat g op fn xd imm) ?_
  have := fn.isLt; have := xd.isLt; have := imm.isLt;
  omega

/-- A word of format B as a number. -/
theorem packB_toNat (g : Guard) (op : BitVec 8) (fn : BitVec 4) (ann : BitVec 2) (xa : BitVec 4) (loff : BitVec 42) (ts : BitVec 3) :
    (packB g op fn ann xa loff ts).toNat = ((op.toNat * 2 + g.neg.toNat) * 8 + g.p.val) * 2 ^ 84
      + (fn.toNat * 2 ^ 80 + ann.toNat * 2 ^ 78 + xa.toNat * 2 ^ 74 + loff.toNat * 2 ^ 22 + ts.toNat * 2 ^ 19) := by
  show (op ++ BitVec.ofBool g.neg ++ BitVec.ofFin (w := 3) g.p ++ fn ++ ann ++ xa ++ 0#10 ++ loff ++ ts ++ 0#19 :
    BitVec (8 + 1 + 3 + 4 + 2 + 4 + 10 + 42 + 3 + 19)).toNat = _
  simp only [toNat_beside, BitVec.toNat_ofBool, BitVec.toNat_ofFin, BitVec.toNat_ofNat]
  omega

/-- The guard of a word of format B. -/
theorem packB_guard (g : Guard) (op : BitVec 8) (fn : BitVec 4) (ann : BitVec 2) (xa : BitVec 4) (loff : BitVec 42) (ts : BitVec 3) :
    guardOf (packB g op fn ann xa loff ts) = g := by
  refine guardOf_of_toNat (packB_toNat g op fn ann xa loff ts) ?_
  have := fn.isLt; have := ann.isLt; have := xa.isLt; have := loff.isLt; have := ts.isLt;
  omega

/-- A word of format V as a number. -/
theorem packV_toNat (g : Guard) (op : BitVec 8) (fn : BitVec 8) (vd va vb vc : BitVec 6) (ty : BitVec 4) (pd pe : BitVec 3) (rm : BitVec 2) (xa xb : BitVec 4) (imm : BitVec 32) :
    (packV g op fn vd va vb vc ty pd pe rm xa xb imm).toNat = ((op.toNat * 2 + g.neg.toNat) * 8 + g.p.val) * 2 ^ 84
      + (fn.toNat * 2 ^ 76 + vd.toNat * 2 ^ 70 + va.toNat * 2 ^ 64 + vb.toNat * 2 ^ 58 + vc.toNat * 2 ^ 52 + ty.toNat * 2 ^ 48 + pd.toNat * 2 ^ 45 + pe.toNat * 2 ^ 42 + rm.toNat * 2 ^ 40 + xa.toNat * 2 ^ 36 + xb.toNat * 2 ^ 32 + imm.toNat) := by
  show (op ++ BitVec.ofBool g.neg ++ BitVec.ofFin (w := 3) g.p ++ fn ++ vd ++ va ++ vb ++ vc ++ ty ++ pd ++ pe ++ rm ++ xa ++ xb ++ imm :
    BitVec (8 + 1 + 3 + 8 + 6 + 6 + 6 + 6 + 4 + 3 + 3 + 2 + 4 + 4 + 32)).toNat = _
  simp only [toNat_beside, BitVec.toNat_ofBool, BitVec.toNat_ofFin, BitVec.toNat_ofNat]
  omega

/-- The guard of a word of format V. -/
theorem packV_guard (g : Guard) (op : BitVec 8) (fn : BitVec 8) (vd va vb vc : BitVec 6) (ty : BitVec 4) (pd pe : BitVec 3) (rm : BitVec 2) (xa xb : BitVec 4) (imm : BitVec 32) :
    guardOf (packV g op fn vd va vb vc ty pd pe rm xa xb imm) = g := by
  refine guardOf_of_toNat (packV_toNat g op fn vd va vb vc ty pd pe rm xa xb imm) ?_
  have := fn.isLt; have := vd.isLt; have := va.isLt; have := vb.isLt; have := vc.isLt; have := ty.isLt; have := pd.isLt; have := pe.isLt; have := rm.isLt; have := xa.isLt; have := xb.isLt; have := imm.isLt;
  omega

/-- A word of format M as a number. -/
theorem packM_toNat (g : Guard) (op : BitVec 8) (fn : BitVec 8) (xa xb xc : BitVec 4) (ev tl : BitVec 2) (bk wt : BitVec 1) (vi : BitVec 6) (sz : BitVec 4) (low : BitVec 48) :
    (packM g op fn xa xb xc ev tl bk wt vi sz low).toNat = ((op.toNat * 2 + g.neg.toNat) * 8 + g.p.val) * 2 ^ 84
      + (fn.toNat * 2 ^ 76 + xa.toNat * 2 ^ 72 + xb.toNat * 2 ^ 68 + xc.toNat * 2 ^ 64 + ev.toNat * 2 ^ 62 + tl.toNat * 2 ^ 60 + bk.toNat * 2 ^ 59 + wt.toNat * 2 ^ 58 + vi.toNat * 2 ^ 52 + sz.toNat * 2 ^ 48 + low.toNat) := by
  show (op ++ BitVec.ofBool g.neg ++ BitVec.ofFin (w := 3) g.p ++ fn ++ xa ++ xb ++ xc ++ ev ++ tl ++ bk ++ wt ++ vi ++ sz ++ low :
    BitVec (8 + 1 + 3 + 8 + 4 + 4 + 4 + 2 + 2 + 1 + 1 + 6 + 4 + 48)).toNat = _
  simp only [toNat_beside, BitVec.toNat_ofBool, BitVec.toNat_ofFin, BitVec.toNat_ofNat]
  omega

/-- The guard of a word of format M. -/
theorem packM_guard (g : Guard) (op : BitVec 8) (fn : BitVec 8) (xa xb xc : BitVec 4) (ev tl : BitVec 2) (bk wt : BitVec 1) (vi : BitVec 6) (sz : BitVec 4) (low : BitVec 48) :
    guardOf (packM g op fn xa xb xc ev tl bk wt vi sz low) = g := by
  refine guardOf_of_toNat (packM_toNat g op fn xa xb xc ev tl bk wt vi sz low) ?_
  have := fn.isLt; have := xa.isLt; have := xb.isLt; have := xc.isLt; have := ev.isLt; have := tl.isLt; have := bk.isLt; have := wt.isLt; have := vi.isLt; have := sz.isLt; have := low.isLt;
  omega

end Sys2Proof.Laws
end

