-- ==== Sys2Proof/Laws/Journal.lean ====
section
/-! SUPPORT. What the Farrier's journal has room for. -/

namespace Sys2Proof.Machine

theorem recordBytes_lt (n : Nat) : recordBytes n < 0x4000 := Nat.mod_lt _ (by decide)

/-- The records of a transaction are its changes, BEGIN and COMMIT. -/
theorem Farrier.txRecords_length (f : Farrier) (iface reqId : Nat) (l : List (Nat × JVal × JVal)) :
    (f.txRecords iface reqId l).length = l.length + 2 := by
  simp [Farrier.txRecords, Farrier.numbered, openRecords]

/-- Each of them is smaller than 16 KiB. -/
theorem Farrier.txRecords_size (f : Farrier) (iface reqId : Nat) (l : List (Nat × JVal × JVal)) :
    ∀ r ∈ f.txRecords iface reqId l, r.size < 0x4000 := by
  intro r hr
  obtain ⟨e, -, rfl⟩ := List.mem_map.mp hr
  exact recordBytes_lt _

theorem sum_lt {l : List Nat} {b : Nat} (h : ∀ x ∈ l, x ≤ b) : l.sum ≤ l.length * b := by
  induction l with
  | nil => simp
  | cons x l ih =>
    have := h x (by simp)
    have := ih fun y hy => h y (by simp [hy])
    simp only [List.sum_cons, List.length_cons, Nat.add_mul]; omega

/-- A transaction of at most 61 changes always finds room, after a CHECKPOINT if need be. -/
theorem Farrier.journalTx_isSome (f : Farrier) (iface reqId : Nat) (l : List (Nat × JVal × JVal)) (h : l.length ≤ 61) :
    (f.journalTx iface reqId l).isSome = true := by
  have fits : journalFits f.checkpoint.journal (f.checkpoint.txRecords iface reqId l) = true := by
    have hs : ∀ x ∈ (f.checkpoint.journal ++ f.checkpoint.txRecords iface reqId l).map (·.size), x ≤ 0x3FFF := by
      intro x hx
      obtain ⟨r, hr, rfl⟩ := List.mem_map.mp hx
      rcases List.mem_append.mp hr with h1 | h2
      · rw [List.mem_singleton.mp h1]; exact Nat.lt_succ_iff.mp (recordBytes_lt _)
      · exact Nat.lt_succ_iff.mp (f.checkpoint.txRecords_size iface reqId l r h2)
    have hsum := sum_lt hs
    have hl : (f.checkpoint.journal ++ f.checkpoint.txRecords iface reqId l).length = l.length + 3 := by
      rw [List.length_append, Farrier.txRecords_length]; simp [Farrier.checkpoint]; omega
    rw [List.length_map, hl] at hsum
    exact decide_eq_true (hsum.trans (by unfold journalSize; omega))
  unfold Farrier.journalTx Farrier.roomFor
  rw [Option.isSome_map, fits]
  split <;> rfl

end Sys2Proof.Machine
end

