-- ==== Sys2Proof/Laws/PerInstr.lean ====
section
/-! SUPPORT. What holds of every instruction as syntax, one lemma per constructor: the guard of the instruction is the guard field of
its word (01_lines R38). -/

namespace Sys2Proof.Laws.GuardField

open Sys2Proof

/-- The guard an instruction is skipped by is the one its word holds. -/
def Statement (i : Instr) : Prop := ∀ w g, encode i = some w → Machine.guardOf i = some g → Sys2Proof.guardOf w = g

/-- A word that is none, or an instruction that no guard skips. -/
theorem of_none {i : Instr} (h : encode i = none ∨ Machine.guardOf i = none) : Statement i := by
  intro w g h1 h2
  rcases h with h | h
  · rw [h] at h1; cases h1
  · rw [h] at h2; cases h2

/-- A word in one of the five formats with the instruction's own guard. -/
theorem of_some {i : Instr} {w : Slot96} {g : Guard} (h : encode i = some w) (hw : Sys2Proof.guardOf w = g) (hg : Machine.guardOf i = some g) :
    Statement i := by
  intro w' g' h1 h2
  rw [h] at h1; rw [hg] at h2
  cases h1; cases h2
  exact hw

theorem issuePosition : ∀ a0, Statement (.issuePosition a0) := fun _ => of_none (.inl rfl)
theorem add : ∀ a0 a1 a2 a3, Statement (.add a0 a1 a2 a3) := fun _ _ _ _ => of_some rfl (packS_guard ..) rfl
theorem sub : ∀ a0 a1 a2 a3, Statement (.sub a0 a1 a2 a3) := fun _ _ _ _ => of_some rfl (packS_guard ..) rfl
theorem mul : ∀ a0 a1 a2 a3, Statement (.mul a0 a1 a2 a3) := fun _ _ _ _ => of_some rfl (packS_guard ..) rfl
theorem mulh : ∀ a0 a1 a2 a3 a4, Statement (.mulh a0 a1 a2 a3 a4) := fun _ _ _ _ _ => of_some rfl (packS_guard ..) rfl
theorem div : ∀ a0 a1 a2 a3 a4, Statement (.div a0 a1 a2 a3 a4) := fun _ _ _ _ _ => of_some rfl (packS_guard ..) rfl
theorem rem : ∀ a0 a1 a2 a3 a4, Statement (.rem a0 a1 a2 a3 a4) := fun _ _ _ _ _ => of_some rfl (packS_guard ..) rfl
theorem and : ∀ a0 a1 a2 a3, Statement (.and a0 a1 a2 a3) := fun _ _ _ _ => of_some rfl (packS_guard ..) rfl
theorem or : ∀ a0 a1 a2 a3, Statement (.or a0 a1 a2 a3) := fun _ _ _ _ => of_some rfl (packS_guard ..) rfl
theorem xor : ∀ a0 a1 a2 a3, Statement (.xor a0 a1 a2 a3) := fun _ _ _ _ => of_some rfl (packS_guard ..) rfl
theorem andn : ∀ a0 a1 a2 a3, Statement (.andn a0 a1 a2 a3) := fun _ _ _ _ => of_some rfl (packS_guard ..) rfl
theorem orn : ∀ a0 a1 a2 a3, Statement (.orn a0 a1 a2 a3) := fun _ _ _ _ => of_some rfl (packS_guard ..) rfl
theorem shl : ∀ a0 a1 a2 a3, Statement (.shl a0 a1 a2 a3) := fun _ _ _ _ => of_some rfl (packS_guard ..) rfl
theorem shr : ∀ a0 a1 a2 a3, Statement (.shr a0 a1 a2 a3) := fun _ _ _ _ => of_some rfl (packS_guard ..) rfl
theorem sar : ∀ a0 a1 a2 a3, Statement (.sar a0 a1 a2 a3) := fun _ _ _ _ => of_some rfl (packS_guard ..) rfl
theorem rol : ∀ a0 a1 a2 a3, Statement (.rol a0 a1 a2 a3) := fun _ _ _ _ => of_some rfl (packS_guard ..) rfl
theorem min : ∀ a0 a1 a2 a3 a4, Statement (.min a0 a1 a2 a3 a4) := fun _ _ _ _ _ => of_some rfl (packS_guard ..) rfl
theorem max : ∀ a0 a1 a2 a3 a4, Statement (.max a0 a1 a2 a3 a4) := fun _ _ _ _ _ => of_some rfl (packS_guard ..) rfl
theorem clz : ∀ a0 a1 a2, Statement (.clz a0 a1 a2) := fun _ _ _ => of_some rfl (packS_guard ..) rfl
theorem ctz : ∀ a0 a1 a2, Statement (.ctz a0 a1 a2) := fun _ _ _ => of_some rfl (packS_guard ..) rfl
theorem popc : ∀ a0 a1 a2, Statement (.popc a0 a1 a2) := fun _ _ _ => of_some rfl (packS_guard ..) rfl
theorem bext : ∀ a0 a1 a2 a3, Statement (.bext a0 a1 a2 a3) := fun _ _ _ _ => of_some rfl (packS_guard ..) rfl
theorem bins : ∀ a0 a1 a2 a3, Statement (.bins a0 a1 a2 a3) := fun _ _ _ _ => of_some rfl (packS_guard ..) rfl
theorem sext : ∀ a0 a1 a2 a3, Statement (.sext a0 a1 a2 a3) := fun _ _ _ _ => of_some rfl (packS_guard ..) rfl
theorem mov : ∀ a0 a1 a2, Statement (.mov a0 a1 a2) := fun _ _ _ => of_some rfl (packS_guard ..) rfl
theorem li : ∀ a0 a1 a2, Statement (.li a0 a1 a2) := fun _ _ _ => of_some rfl (packL_guard ..) rfl
theorem sel : ∀ a0 a1 a2 a3 a4 a5, Statement (.sel a0 a1 a2 a3 a4 a5) := fun _ _ _ _ _ _ => of_some rfl (packS_guard ..) rfl
theorem cmp : ∀ a0 a1 a2 a3 a4 a5, Statement (.cmp a0 a1 a2 a3 a4 a5) := fun _ _ _ _ _ _ => of_some rfl (packS_guard ..) rfl
theorem tstb : ∀ a0 a1 a2 a3 a4, Statement (.tstb a0 a1 a2 a3 a4) := fun _ _ _ _ _ => of_some rfl (packS_guard ..) rfl
theorem pand : ∀ a0 a1 a2 a3, Statement (.pand a0 a1 a2 a3) := fun _ _ _ _ => of_some rfl (packS_guard ..) rfl
theorem por : ∀ a0 a1 a2 a3, Statement (.por a0 a1 a2 a3) := fun _ _ _ _ => of_some rfl (packS_guard ..) rfl
theorem pxor : ∀ a0 a1 a2 a3, Statement (.pxor a0 a1 a2 a3) := fun _ _ _ _ => of_some rfl (packS_guard ..) rfl
theorem pandn : ∀ a0 a1 a2 a3, Statement (.pandn a0 a1 a2 a3) := fun _ _ _ _ => of_some rfl (packS_guard ..) rfl
theorem pnot : ∀ a0 a1 a2, Statement (.pnot a0 a1 a2) := fun _ _ _ => of_some rfl (packS_guard ..) rfl
theorem pmovPtox : ∀ a0 a1 a2, Statement (.pmovPtox a0 a1 a2) := fun _ _ _ => of_some rfl (packS_guard ..) rfl
theorem pmovXtop : ∀ a0 a1 a2, Statement (.pmovXtop a0 a1 a2) := fun _ _ _ => of_some rfl (packS_guard ..) rfl
theorem pany : ∀ a0 a1 a2 a3 a4 a5, Statement (.pany a0 a1 a2 a3 a4 a5) := fun _ _ _ _ _ _ => of_some rfl (packS_guard ..) rfl
theorem pcnt : ∀ a0 a1 a2 a3, Statement (.pcnt a0 a1 a2 a3) := fun _ _ _ _ => of_some rfl (packS_guard ..) rfl
theorem ld : ∀ a0 a1 a2 a3 a4, Statement (.ld a0 a1 a2 a3 a4) := fun _ _ _ _ _ => of_some rfl (packS_guard ..) rfl
theorem st : ∀ a0 a1 a2 a3 a4, Statement (.st a0 a1 a2 a3 a4) := fun _ _ _ _ _ => of_some rfl (packS_guard ..) rfl
theorem ldn : ∀ a0 a1 a2 a3 a4, Statement (.ldn a0 a1 a2 a3 a4) := fun _ _ _ _ _ => of_some rfl (packS_guard ..) rfl
theorem lde : ∀ a0 a1 a2 a3, Statement (.lde a0 a1 a2 a3) := fun _ _ _ _ => of_some rfl (packS_guard ..) rfl
theorem ldeC : ∀ a0 a1 a2 a3, Statement (.ldeC a0 a1 a2 a3) := fun _ _ _ _ => of_some rfl (packS_guard ..) rfl
theorem stf : ∀ a0 a1 a2 a3, Statement (.stf a0 a1 a2 a3) := fun _ _ _ _ => of_some rfl (packS_guard ..) rfl
theorem empt : ∀ a0 a1 a2, Statement (.empt a0 a1 a2) := fun _ _ _ => of_some rfl (packS_guard ..) rfl
theorem feq : ∀ a0 a1 a2 a3 a4, Statement (.feq a0 a1 a2 a3 a4) := fun _ _ _ _ _ => of_some rfl (packS_guard ..) rfl
theorem aadd : ∀ a0 a1 a2 a3 a4 a5 a6, Statement (.aadd a0 a1 a2 a3 a4 a5 a6) := by
  intro a0 a1 a2 a3 a4 a5 a6; cases a3 <;> exact of_some rfl (packS_guard ..) rfl
theorem aand : ∀ a0 a1 a2 a3 a4 a5 a6, Statement (.aand a0 a1 a2 a3 a4 a5 a6) := by
  intro a0 a1 a2 a3 a4 a5 a6; cases a3 <;> exact of_some rfl (packS_guard ..) rfl
theorem aor : ∀ a0 a1 a2 a3 a4 a5 a6, Statement (.aor a0 a1 a2 a3 a4 a5 a6) := by
  intro a0 a1 a2 a3 a4 a5 a6; cases a3 <;> exact of_some rfl (packS_guard ..) rfl
theorem axor : ∀ a0 a1 a2 a3 a4 a5 a6, Statement (.axor a0 a1 a2 a3 a4 a5 a6) := by
  intro a0 a1 a2 a3 a4 a5 a6; cases a3 <;> exact of_some rfl (packS_guard ..) rfl
theorem amin : ∀ a0 a1 a2 a3 a4 a5 a6 a7, Statement (.amin a0 a1 a2 a3 a4 a5 a6 a7) := by
  intro a0 a1 a2 a3 a4 a5 a6 a7; cases a4 <;> exact of_some rfl (packS_guard ..) rfl
theorem amax : ∀ a0 a1 a2 a3 a4 a5 a6 a7, Statement (.amax a0 a1 a2 a3 a4 a5 a6 a7) := by
  intro a0 a1 a2 a3 a4 a5 a6 a7; cases a4 <;> exact of_some rfl (packS_guard ..) rfl
theorem aswap : ∀ a0 a1 a2 a3 a4 a5 a6, Statement (.aswap a0 a1 a2 a3 a4 a5 a6) := by
  intro a0 a1 a2 a3 a4 a5 a6; cases a3 <;> exact of_some rfl (packS_guard ..) rfl
theorem acas : ∀ a0 a1 a2 a3 a4 a5 a6 a7 a8, Statement (.acas a0 a1 a2 a3 a4 a5 a6 a7 a8) := fun _ _ _ _ _ _ _ _ _ => of_some rfl (packS_guard ..) rfl
theorem afadd : ∀ a0 a1 a2 a3 a4 a5, Statement (.afadd a0 a1 a2 a3 a4 a5) := by
  intro a0 a1 a2 a3 a4 a5; cases a2 <;> exact of_some rfl (packS_guard ..) rfl
theorem br : ∀ a0 a1 a2 a3 a4, Statement (.br a0 a1 a2 a3 a4) := fun _ _ _ _ _ => of_none (.inr rfl)
theorem brx : ∀ a0 a1 a2, Statement (.brx a0 a1 a2) := fun _ _ _ => of_none (.inr rfl)
theorem call : ∀ a0 a1 a2 a3, Statement (.call a0 a1 a2 a3) := fun _ _ _ _ => of_none (.inr rfl)
theorem callx : ∀ a0 a1 a2, Statement (.callx a0 a1 a2) := fun _ _ _ => of_none (.inr rfl)
theorem trap : ∀ a0 a1, Statement (.trap a0 a1) := fun _ _ => of_none (.inr rfl)
theorem eret : ∀ a0, Statement (.eret a0) := fun _ => of_none (.inr rfl)
theorem nop : ∀ a0, Statement (.nop a0) := fun _ => of_none (.inr rfl)
theorem srd : ∀ a0 a1 a2, Statement (.srd a0 a1 a2) := fun _ _ _ => of_none (.inr rfl)
theorem swr : ∀ a0 a1 a2, Statement (.swr a0 a1 a2) := fun _ _ _ => of_none (.inr rfl)
theorem ts : ∀ a0 a1, Statement (.ts a0 a1) := fun _ _ => of_none (.inr rfl)
theorem cyc : ∀ a0 a1, Statement (.cyc a0 a1) := fun _ _ => of_none (.inr rfl)
theorem tpost : ∀ a0 a1 a2 a3 a4 a5, Statement (.tpost a0 a1 a2 a3 a4 a5) := fun _ _ _ _ _ _ => of_none (.inr rfl)
theorem fence : ∀ a0 a1, Statement (.fence a0 a1) := fun _ _ => of_none (.inr rfl)
theorem wswin : ∀ a0 a1 a2, Statement (.wswin a0 a1 a2) := fun _ _ _ => of_none (.inr rfl)
theorem spawn : ∀ a0 a1 a2 a3 a4 a5, Statement (.spawn a0 a1 a2 a3 a4 a5) := fun _ _ _ _ _ _ => of_none (.inr rfl)
theorem spawnLoose : ∀ a0 a1 a2 a3 a4 a5, Statement (.spawnLoose a0 a1 a2 a3 a4 a5) := fun _ _ _ _ _ _ => of_none (.inr rfl)
theorem spnr : ∀ a0 a1 a2 a3, Statement (.spnr a0 a1 a2 a3) := fun _ _ _ _ => of_none (.inr rfl)
theorem join : ∀ a0 a1 a2 a3 a4, Statement (.join a0 a1 a2 a3 a4) := fun _ _ _ _ _ => of_none (.inr rfl)
theorem exit : ∀ a0, Statement (.exit a0) := fun _ => of_none (.inr rfl)
theorem yield : ∀ a0 a1, Statement (.yield a0 a1) := fun _ _ => of_none (.inr rfl)
theorem prio : ∀ a0 a1 a2 a3 a4 a5, Statement (.prio a0 a1 a2 a3 a4 a5) := fun _ _ _ _ _ _ => of_none (.inr rfl)
theorem slot : ∀ a0 a1 a2 a3 a4, Statement (.slot a0 a1 a2 a3 a4) := fun _ _ _ _ _ => of_none (.inr rfl)
theorem migr : ∀ a0 a1 a2 a3 a4, Statement (.migr a0 a1 a2 a3 a4) := fun _ _ _ _ _ => of_none (.inr rfl)
theorem semw : ∀ a0 a1 a2, Statement (.semw a0 a1 a2) := fun _ _ _ => of_none (.inr rfl)
theorem sema : ∀ a0 a1 a2 a3 a4 a5 a6, Statement (.sema a0 a1 a2 a3 a4 a5 a6) := fun _ _ _ _ _ _ _ => of_none (.inr rfl)
theorem chanInstall : ∀ a0 a1 a2 a3 a4 a5, Statement (.chanInstall a0 a1 a2 a3 a4 a5) := fun _ _ _ _ _ _ => of_none (.inr rfl)
theorem chanBlock : ∀ a0 a1 a2 a3 a4, Statement (.chanBlock a0 a1 a2 a3 a4) := fun _ _ _ _ _ => of_none (.inr rfl)
theorem chanUnblock : ∀ a0 a1 a2 a3 a4, Statement (.chanUnblock a0 a1 a2 a3 a4) := fun _ _ _ _ _ => of_none (.inr rfl)
theorem chanRemove : ∀ a0 a1 a2 a3 a4, Statement (.chanRemove a0 a1 a2 a3 a4) := fun _ _ _ _ _ => of_none (.inr rfl)
theorem chanQuery : ∀ a0 a1 a2 a3 a4, Statement (.chanQuery a0 a1 a2 a3 a4) := fun _ _ _ _ _ => of_none (.inr rfl)
theorem gname : ∀ a0 a1, Statement (.gname a0 a1) := fun _ _ => of_none (.inr rfl)
theorem gnameRank : ∀ a0 a1 a2 a3 a4, Statement (.gnameRank a0 a1 a2 a3 a4) := fun _ _ _ _ _ => of_none (.inr rfl)
theorem varm : ∀ a0 a1 a2, Statement (.varm a0 a1 a2) := fun _ _ _ => of_none (.inr rfl)
theorem vput : ∀ a0 a1 a2 a3 a4, Statement (.vput a0 a1 a2 a3 a4) := fun _ _ _ _ _ => of_none (.inr rfl)
theorem send : ∀ a0 a1 a2 a3 a4 a5, Statement (.send a0 a1 a2 a3 a4 a5) := fun _ _ _ _ _ _ => of_none (.inr rfl)
theorem recv : ∀ a0 a1 a2 a3 a4 a5, Statement (.recv a0 a1 a2 a3 a4 a5) := fun _ _ _ _ _ _ => of_none (.inr rfl)
theorem recvTry : ∀ a0 a1 a2 a3 a4 a5, Statement (.recvTry a0 a1 a2 a3 a4 a5) := fun _ _ _ _ _ _ => of_none (.inr rfl)
theorem enq : ∀ a0 a1 a2 a3 a4, Statement (.enq a0 a1 a2 a3 a4) := fun _ _ _ _ _ => of_none (.inr rfl)
theorem mboxOpen : ∀ a0 a1 a2 a3 a4 a5, Statement (.mboxOpen a0 a1 a2 a3 a4 a5) := fun _ _ _ _ _ _ => of_none (.inr rfl)
theorem mboxClose : ∀ a0 a1 a2 a3 a4, Statement (.mboxClose a0 a1 a2 a3 a4) := fun _ _ _ _ _ => of_none (.inr rfl)
theorem mboxQuery : ∀ a0 a1 a2 a3 a4, Statement (.mboxQuery a0 a1 a2 a3 a4) := fun _ _ _ _ _ => of_none (.inr rfl)
theorem wid : ∀ a0 a1 a2, Statement (.wid a0 a1 a2) := fun _ _ _ => of_none (.inr rfl)
theorem trig : ∀ a0, Statement (.trig a0) := fun _ => of_none (.inr rfl)
theorem kwait : ∀ a0 a1 a2, Statement (.kwait a0 a1 a2) := fun _ _ _ => of_none (.inr rfl)
theorem klnch : ∀ a0 a1 a2 a3 a4, Statement (.klnch a0 a1 a2 a3 a4) := fun _ _ _ _ _ => of_none (.inr rfl)
theorem binit : ∀ a0 a1 a2 a3, Statement (.binit a0 a1 a2 a3) := fun _ _ _ _ => of_none (.inr rfl)
theorem barr : ∀ a0 a1 a2, Statement (.barr a0 a1 a2) := fun _ _ _ => of_none (.inr rfl)
theorem bexp : ∀ a0 a1 a2 a3, Statement (.bexp a0 a1 a2 a3) := fun _ _ _ _ => of_none (.inr rfl)
theorem bwait : ∀ a0 a1 a2, Statement (.bwait a0 a1 a2) := fun _ _ _ => of_none (.inr rfl)
theorem btest : ∀ a0 a1 a2 a3 a4, Statement (.btest a0 a1 a2 a3 a4) := fun _ _ _ _ _ => of_none (.inr rfl)
theorem bind : ∀ a0 a1 a2 a3 a4 a5 a6, Statement (.bind a0 a1 a2 a3 a4 a5 a6) := fun _ _ _ _ _ _ _ => of_none (.inr rfl)
theorem unbind : ∀ a0 a1 a2 a3 a4, Statement (.unbind a0 a1 a2 a3 a4) := fun _ _ _ _ _ => of_none (.inr rfl)
theorem vadd : ∀ a0 a1 a2 a3 a4 a5, Statement (.vadd a0 a1 a2 a3 a4 a5) := fun _ _ _ _ _ _ => of_some rfl (packV_guard ..) rfl
theorem vsub : ∀ a0 a1 a2 a3 a4 a5, Statement (.vsub a0 a1 a2 a3 a4 a5) := fun _ _ _ _ _ _ => of_some rfl (packV_guard ..) rfl
theorem vmul : ∀ a0 a1 a2 a3 a4 a5, Statement (.vmul a0 a1 a2 a3 a4 a5) := fun _ _ _ _ _ _ => of_some rfl (packV_guard ..) rfl
theorem vfma : ∀ a0 a1 a2 a3 a4 a5 a6, Statement (.vfma a0 a1 a2 a3 a4 a5 a6) := fun _ _ _ _ _ _ _ => of_some rfl (packV_guard ..) rfl
theorem vfms : ∀ a0 a1 a2 a3 a4 a5 a6, Statement (.vfms a0 a1 a2 a3 a4 a5 a6) := fun _ _ _ _ _ _ _ => of_some rfl (packV_guard ..) rfl
theorem vmin : ∀ a0 a1 a2 a3 a4, Statement (.vmin a0 a1 a2 a3 a4) := fun _ _ _ _ _ => of_some rfl (packV_guard ..) rfl
theorem vmax : ∀ a0 a1 a2 a3 a4, Statement (.vmax a0 a1 a2 a3 a4) := fun _ _ _ _ _ => of_some rfl (packV_guard ..) rfl
theorem vabs : ∀ a0 a1 a2 a3, Statement (.vabs a0 a1 a2 a3) := fun _ _ _ _ => of_some rfl (packV_guard ..) rfl
theorem vneg : ∀ a0 a1 a2 a3, Statement (.vneg a0 a1 a2 a3) := fun _ _ _ _ => of_some rfl (packV_guard ..) rfl
theorem vrcp : ∀ a0 a1 a2 a3 a4, Statement (.vrcp a0 a1 a2 a3 a4) := fun _ _ _ _ _ => of_some rfl (packV_guard ..) rfl
theorem vrsq : ∀ a0 a1 a2 a3 a4, Statement (.vrsq a0 a1 a2 a3 a4) := fun _ _ _ _ _ => of_some rfl (packV_guard ..) rfl
theorem vexp2 : ∀ a0 a1 a2 a3 a4, Statement (.vexp2 a0 a1 a2 a3 a4) := fun _ _ _ _ _ => of_some rfl (packV_guard ..) rfl
theorem vlog2 : ∀ a0 a1 a2 a3 a4, Statement (.vlog2 a0 a1 a2 a3 a4) := fun _ _ _ _ _ => of_some rfl (packV_guard ..) rfl
theorem vcmp : ∀ a0 a1 a2 a3 a4 a5 a6, Statement (.vcmp a0 a1 a2 a3 a4 a5 a6) := fun _ _ _ _ _ _ _ => of_some rfl (packV_guard ..) rfl
theorem vsel : ∀ a0 a1 a2 a3 a4 a5 a6, Statement (.vsel a0 a1 a2 a3 a4 a5 a6) := fun _ _ _ _ _ _ _ => of_some rfl (packV_guard ..) rfl
theorem vmov : ∀ a0 a1 a2 a3, Statement (.vmov a0 a1 a2 a3) := fun _ _ _ _ => of_some rfl (packV_guard ..) rfl
theorem vbcst : ∀ a0 a1 a2 a3, Statement (.vbcst a0 a1 a2 a3) := fun _ _ _ _ => of_some rfl (packV_guard ..) rfl
theorem vextr : ∀ a0 a1 a2 a3 a4, Statement (.vextr a0 a1 a2 a3 a4) := fun _ _ _ _ _ => of_some rfl (packV_guard ..) rfl
theorem vcvt : ∀ a0 a1 a2 a3 a4 a5 a6 a7, Statement (.vcvt a0 a1 a2 a3 a4 a5 a6 a7) := fun _ _ _ _ _ _ _ _ => of_some rfl (packV_guard ..) rfl
theorem vred : ∀ a0 a1 a2 a3 a4 a5, Statement (.vred a0 a1 a2 a3 a4 a5) := fun _ _ _ _ _ _ => of_some rfl (packV_guard ..) rfl
theorem vperm : ∀ a0 a1 a2 a3 a4 a5, Statement (.vperm a0 a1 a2 a3 a4 a5) := fun _ _ _ _ _ _ => of_some rfl (packV_guard ..) rfl
theorem vshuf : ∀ a0 a1 a2 a3 a4 a5, Statement (.vshuf a0 a1 a2 a3 a4 a5) := fun _ _ _ _ _ _ => of_some rfl (packV_guard ..) rfl
theorem vand : ∀ a0 a1 a2 a3 a4, Statement (.vand a0 a1 a2 a3 a4) := fun _ _ _ _ _ => of_some rfl (packV_guard ..) rfl
theorem vor : ∀ a0 a1 a2 a3 a4, Statement (.vor a0 a1 a2 a3 a4) := fun _ _ _ _ _ => of_some rfl (packV_guard ..) rfl
theorem vxor : ∀ a0 a1 a2 a3 a4, Statement (.vxor a0 a1 a2 a3 a4) := fun _ _ _ _ _ => of_some rfl (packV_guard ..) rfl
theorem vshl : ∀ a0 a1 a2 a3 a4, Statement (.vshl a0 a1 a2 a3 a4) := by
  intro a0 a1 a2 a3 a4; cases a4 <;> exact of_some rfl (packV_guard ..) rfl
theorem vshr : ∀ a0 a1 a2 a3 a4, Statement (.vshr a0 a1 a2 a3 a4) := by
  intro a0 a1 a2 a3 a4; cases a4 <;> exact of_some rfl (packV_guard ..) rfl
theorem vsar : ∀ a0 a1 a2 a3 a4, Statement (.vsar a0 a1 a2 a3 a4) := by
  intro a0 a1 a2 a3 a4; cases a4 <;> exact of_some rfl (packV_guard ..) rfl
theorem viadd : ∀ a0 a1 a2 a3 a4, Statement (.viadd a0 a1 a2 a3 a4) := fun _ _ _ _ _ => of_some rfl (packV_guard ..) rfl
theorem vimul : ∀ a0 a1 a2 a3 a4, Statement (.vimul a0 a1 a2 a3 a4) := fun _ _ _ _ _ => of_some rfl (packV_guard ..) rfl
theorem vidx : ∀ a0 a1 a2 a3 a4, Statement (.vidx a0 a1 a2 a3 a4) := fun _ _ _ _ _ => of_some rfl (packV_guard ..) rfl
theorem vins : ∀ a0 a1 a2 a3 a4, Statement (.vins a0 a1 a2 a3 a4) := fun _ _ _ _ _ => of_some rfl (packV_guard ..) rfl
theorem vld : ∀ a0 a1 a2 a3 a4, Statement (.vld a0 a1 a2 a3 a4) := fun _ _ _ _ _ => of_some rfl (packV_guard ..) rfl
theorem vst : ∀ a0 a1 a2 a3 a4, Statement (.vst a0 a1 a2 a3 a4) := fun _ _ _ _ _ => of_some rfl (packV_guard ..) rfl
theorem vldg : ∀ a0 a1 a2 a3 a4 a5, Statement (.vldg a0 a1 a2 a3 a4 a5) := fun _ _ _ _ _ _ => of_some rfl (packV_guard ..) rfl
theorem vsts : ∀ a0 a1 a2 a3 a4 a5, Statement (.vsts a0 a1 a2 a3 a4 a5) := fun _ _ _ _ _ _ => of_some rfl (packV_guard ..) rfl
theorem vclass : ∀ a0 a1 a2 a3 a4 a5 a6, Statement (.vclass a0 a1 a2 a3 a4 a5 a6) := fun _ _ _ _ _ _ _ => of_some rfl (packV_guard ..) rfl
theorem topen : ∀ a0 a1 a2, Statement (.topen a0 a1 a2) := fun _ _ _ => of_some rfl (packM_guard ..) rfl
theorem tclose : ∀ a0 a1, Statement (.tclose a0 a1) := fun _ _ => of_some rfl (packM_guard ..) rfl
theorem tzero : ∀ a0 a1 a2 a3, Statement (.tzero a0 a1 a2 a3) := fun _ _ _ _ => of_some rfl (packM_guard ..) rfl
theorem tload : ∀ a0 a1 a2 a3 a4 a5 a6 a7 a8, Statement (.tload a0 a1 a2 a3 a4 a5 a6 a7 a8) := fun _ _ _ _ _ _ _ _ _ => of_some rfl (packM_guard ..) rfl
theorem tstore : ∀ a0 a1 a2 a3 a4 a5 a6 a7 a8, Statement (.tstore a0 a1 a2 a3 a4 a5 a6 a7 a8) := fun _ _ _ _ _ _ _ _ _ => of_some rfl (packM_guard ..) rfl
theorem tread : ∀ a0 a1 a2 a3 a4 a5, Statement (.tread a0 a1 a2 a3 a4 a5) := fun _ _ _ _ _ _ => of_some rfl (packM_guard ..) rfl
theorem twrite : ∀ a0 a1 a2 a3 a4 a5, Statement (.twrite a0 a1 a2 a3 a4 a5) := fun _ _ _ _ _ _ => of_some rfl (packM_guard ..) rfl
theorem midx : ∀ a0 a1 a2 a3 a4, Statement (.midx a0 a1 a2 a3 a4) := fun _ _ _ _ _ => of_some rfl (packM_guard ..) rfl
theorem mma : ∀ a0 a1 a2 a3 a4 a5 a6 a7, Statement (.mma a0 a1 a2 a3 a4 a5 a6 a7) := fun _ _ _ _ _ _ _ _ => of_some rfl (packM_guard ..) rfl
theorem mres : ∀ a0 a1 a2, Statement (.mres a0 a1 a2) := fun _ _ _ => of_some rfl (packM_guard ..) rfl
theorem tsave : ∀ a0 a1 a2 a3, Statement (.tsave a0 a1 a2 a3) := fun _ _ _ _ => of_some rfl (packM_guard ..) rfl
theorem trest : ∀ a0 a1 a2 a3, Statement (.trest a0 a1 a2 a3) := fun _ _ _ _ => of_some rfl (packM_guard ..) rfl
theorem tqry : ∀ a0 a1 a2, Statement (.tqry a0 a1 a2) := fun _ _ _ => of_some rfl (packM_guard ..) rfl
theorem mcnt : ∀ a0 a1 a2 a3 a4 a5 a6 a7, Statement (.mcnt a0 a1 a2 a3 a4 a5 a6 a7) := fun _ _ _ _ _ _ _ _ => of_some rfl (packM_guard ..) rfl
theorem mmrg : ∀ a0 a1, Statement (.mmrg a0 a1) := fun _ _ => of_some rfl (packM_guard ..) rfl
theorem mdrn : ∀ a0 a1 a2 a3 a4 a5, Statement (.mdrn a0 a1 a2 a3 a4 a5) := fun _ _ _ _ _ _ => of_some rfl (packM_guard ..) rfl
theorem mclr : ∀ a0 a1 a2, Statement (.mclr a0 a1 a2) := fun _ _ _ => of_some rfl (packM_guard ..) rfl
theorem mdep : ∀ a0 a1 a2, Statement (.mdep a0 a1 a2) := fun _ _ _ => of_some rfl (packM_guard ..) rfl
theorem cpy : ∀ a0 a1 a2 a3 a4, Statement (.cpy a0 a1 a2 a3 a4) := fun _ _ _ _ _ => of_some rfl (packM_guard ..) rfl
theorem cpy2 : ∀ a0 a1 a2 a3 a4, Statement (.cpy2 a0 a1 a2 a3 a4) := fun _ _ _ _ _ => of_some rfl (packM_guard ..) rfl
theorem cpym : ∀ a0 a1 a2 a3 a4 a5, Statement (.cpym a0 a1 a2 a3 a4 a5) := fun _ _ _ _ _ _ => of_some rfl (packM_guard ..) rfl
theorem cpyw : ∀ a0 a1 a2 a3 a4, Statement (.cpyw a0 a1 a2 a3 a4) := fun _ _ _ _ _ => of_some rfl (packM_guard ..) rfl
theorem fill : ∀ a0 a1 a2 a3 a4, Statement (.fill a0 a1 a2 a3 a4) := fun _ _ _ _ _ => of_some rfl (packM_guard ..) rfl
theorem cpyr : ∀ a0 a1 a2 a3 a4 a5, Statement (.cpyr a0 a1 a2 a3 a4 a5) := fun _ _ _ _ _ _ => of_some rfl (packM_guard ..) rfl
theorem portq : ∀ a0 a1, Statement (.portq a0 a1) := fun _ _ => of_some rfl (packM_guard ..) rfl
theorem tlbi : ∀ a0 a1 a2, Statement (.tlbi a0 a1 a2) := fun _ _ _ => of_none (.inr rfl)
theorem probe : ∀ a0 a1 a2 a3 a4 a5, Statement (.probe a0 a1 a2 a3 a4 a5) := fun _ _ _ _ _ _ => of_none (.inr rfl)
theorem loadReply : ∀ a0 a1, Statement (.loadReply a0 a1) := fun _ _ => of_none (.inl rfl)
theorem ldnReply : ∀ a0 a1 a2, Statement (.ldnReply a0 a1 a2) := fun _ _ _ => of_none (.inl rfl)
theorem storeAcknowledged : ∀ a0, Statement (.storeAcknowledged a0) := fun _ => of_none (.inl rfl)
theorem writeCombiningIdleDrain : ∀ a0 a1, Statement (.writeCombiningIdleDrain a0 a1) := fun _ _ => of_none (.inl rfl)
theorem refreshWindowEnd : ∀ a0, Statement (.refreshWindowEnd a0) := fun _ => of_none (.inl rfl)
theorem vbankPowerDown : ∀ a0 a1, Statement (.vbankPowerDown a0 a1) := fun _ _ => of_none (.inl rfl)
theorem vbankWakeEnd : ∀ a0 a1, Statement (.vbankWakeEnd a0 a1) := fun _ _ => of_none (.inl rfl)
theorem commandStart : ∀ a0 a1, Statement (.commandStart a0 a1) := fun _ _ => of_none (.inl rfl)
theorem commandComplete : ∀ a0 a1, Statement (.commandComplete a0 a1) := fun _ _ => of_none (.inl rfl)
theorem passStop : ∀ a0 a1 a2 a3 a4, Statement (.passStop a0 a1 a2 a3 a4) := fun _ _ _ _ _ => of_none (.inl rfl)
theorem putArrival : ∀ a0, Statement (.putArrival a0) := fun _ => of_none (.inl rfl)
theorem putReply : ∀ a0, Statement (.putReply a0) := fun _ => of_none (.inl rfl)
theorem putResend : ∀ a0, Statement (.putResend a0) := fun _ => of_none (.inl rfl)
theorem messageArrival : ∀ a0, Statement (.messageArrival a0) := fun _ => of_none (.inl rfl)
theorem sendReply : ∀ a0, Statement (.sendReply a0) := fun _ => of_none (.inl rfl)
theorem mailboxReservationLapse : ∀ a0 a1, Statement (.mailboxReservationLapse a0 a1) := fun _ _ => of_none (.inl rfl)
theorem senderRetry : ∀ a0, Statement (.senderRetry a0) := fun _ => of_none (.inl rfl)
theorem spawnMessage : ∀ a0, Statement (.spawnMessage a0) := fun _ => of_none (.inl rfl)
theorem spnrAnswer : ∀ a0, Statement (.spnrAnswer a0) := fun _ => of_none (.inl rfl)
theorem semaDelivery : ∀ a0 a1, Statement (.semaDelivery a0 a1) := fun _ _ => of_none (.inl rfl)
theorem postDelivery : ∀ a0 a1, Statement (.postDelivery a0 a1) := fun _ _ => of_none (.inl rfl)
theorem taskQueueRestore : ∀ a0, Statement (.taskQueueRestore a0) := fun _ => of_none (.inl rfl)
theorem outriderPeriod : Statement .outriderPeriod := of_none (.inl rfl)
theorem outriderCommand : ∀ a0, Statement (.outriderCommand a0) := fun _ => of_none (.inl rfl)
theorem migrationArrival : ∀ a0 a1, Statement (.migrationArrival a0 a1) := fun _ _ => of_none (.inl rfl)
theorem forwardingEntryFree : ∀ a0 a1, Statement (.forwardingEntryFree a0 a1) := fun _ _ => of_none (.inl rfl)
theorem launchWindowWrite : ∀ a0 a1 a2, Statement (.launchWindowWrite a0 a1 a2) := fun _ _ _ => of_none (.inl rfl)
theorem takeLaunchRecord : Statement .takeLaunchRecord := of_none (.inl rfl)
theorem groupPlace : Statement .groupPlace := of_none (.inl rfl)
theorem placementFairnessTimeout : ∀ a0, Statement (.placementFairnessTimeout a0) := fun _ => of_none (.inl rfl)
theorem pendingPlacement : ∀ a0, Statement (.pendingPlacement a0) := fun _ => of_none (.inl rfl)
theorem evictionDecision : ∀ a0, Statement (.evictionDecision a0) := fun _ => of_none (.inl rfl)
theorem evictionCommit : ∀ a0, Statement (.evictionCommit a0) := fun _ => of_none (.inl rfl)
theorem imageComplete : ∀ a0, Statement (.imageComplete a0) := fun _ => of_none (.inl rfl)
theorem spillToSaveArea : ∀ a0, Statement (.spillToSaveArea a0) := fun _ => of_none (.inl rfl)
theorem restore : ∀ a0 a1, Statement (.restore a0 a1) := fun _ _ => of_none (.inl rfl)
theorem looseRestoreTimeout : ∀ a0, Statement (.looseRestoreTimeout a0) := fun _ => of_none (.inl rfl)
theorem barrierOperation : ∀ a0 a1, Statement (.barrierOperation a0 a1) := fun _ _ => of_none (.inl rfl)
theorem barrierWake : ∀ a0 a1, Statement (.barrierWake a0 a1) := fun _ _ => of_none (.inl rfl)
theorem bwaitTableRetry : ∀ a0 a1, Statement (.bwaitTableRetry a0 a1) := fun _ _ => of_none (.inl rfl)
theorem pageWalk : ∀ a0 a1, Statement (.pageWalk a0 a1) := fun _ _ => of_none (.inl rfl)
theorem missQueueRetry : ∀ a0 a1, Statement (.missQueueRetry a0 a1) := fun _ _ => of_none (.inl rfl)
theorem shootdownAck : ∀ a0, Statement (.shootdownAck a0) := fun _ => of_none (.inl rfl)
theorem moveSubblockCopied : ∀ a0 a1, Statement (.moveSubblockCopied a0 a1) := fun _ _ => of_none (.inl rfl)
theorem holdQueueRetry : ∀ a0, Statement (.holdQueueRetry a0) := fun _ => of_none (.inl rfl)
theorem bandwidthRefill : Statement .bandwidthRefill := of_none (.inl rfl)
theorem bwcfgWrite : ∀ a0 a1, Statement (.bwcfgWrite a0 a1) := fun _ _ => of_none (.inl rfl)
theorem kickWrite : ∀ a0 a1, Statement (.kickWrite a0 a1) := fun _ _ => of_none (.inl rfl)
theorem rheadWrite : ∀ a0 a1 a2, Statement (.rheadWrite a0 a1 a2) := fun _ _ _ => of_none (.inl rfl)
theorem rdmaWorkRequest : ∀ a0 a1 a2 a3, Statement (.rdmaWorkRequest a0 a1 a2 a3) := fun _ _ _ _ => of_none (.inl rfl)
theorem rdmaPacketReceived : ∀ a0, Statement (.rdmaPacketReceived a0) := fun _ => of_none (.inl rfl)
theorem boundReceiveSend : ∀ a0 a1, Statement (.boundReceiveSend a0 a1) := fun _ _ => of_none (.inl rfl)
theorem watchdogExpiry : ∀ a0, Statement (.watchdogExpiry a0) := fun _ => of_none (.inl rfl)
theorem killDiscardEnd : ∀ a0 a1, Statement (.killDiscardEnd a0 a1) := fun _ _ => of_none (.inl rfl)
theorem purgeDoneReport : ∀ a0 a1, Statement (.purgeDoneReport a0 a1) := fun _ _ => of_none (.inl rfl)
theorem purgeConfirmed : ∀ a0, Statement (.purgeConfirmed a0) := fun _ => of_none (.inl rfl)
theorem zeroingDone : ∀ a0, Statement (.zeroingDone a0) := fun _ => of_none (.inl rfl)
theorem functionLevelReset : ∀ a0, Statement (.functionLevelReset a0) := fun _ => of_none (.inl rfl)
theorem pcieLinkDown : Statement .pcieLinkDown := of_none (.inl rfl)
theorem moduleReset : Statement .moduleReset := of_none (.inl rfl)
theorem ctxOpen : ∀ a0 a1, Statement (.ctxOpen a0 a1) := fun _ _ => of_none (.inl rfl)
theorem ctxClose : ∀ a0 a1, Statement (.ctxClose a0 a1) := fun _ _ => of_none (.inl rfl)
theorem ctxKill : ∀ a0 a1, Statement (.ctxKill a0 a1) := fun _ _ => of_none (.inl rfl)
theorem lqCreate : ∀ a0 a1, Statement (.lqCreate a0 a1) := fun _ _ => of_none (.inl rfl)
theorem lqPause : ∀ a0 a1, Statement (.lqPause a0 a1) := fun _ _ => of_none (.inl rfl)
theorem lqResume : ∀ a0 a1, Statement (.lqResume a0 a1) := fun _ _ => of_none (.inl rfl)
theorem lqDelete : ∀ a0 a1, Statement (.lqDelete a0 a1) := fun _ _ => of_none (.inl rfl)
theorem map : ∀ a0 a1, Statement (.map a0 a1) := fun _ _ => of_none (.inl rfl)
theorem unmap : ∀ a0 a1, Statement (.unmap a0 a1) := fun _ _ => of_none (.inl rfl)
theorem protect : ∀ a0 a1, Statement (.protect a0 a1) := fun _ _ => of_none (.inl rfl)
theorem move : ∀ a0 a1, Statement (.move a0 a1) := fun _ _ => of_none (.inl rfl)
theorem wrAlloc : ∀ a0 a1, Statement (.wrAlloc a0 a1) := fun _ _ => of_none (.inl rfl)
theorem wrSeal : ∀ a0 a1, Statement (.wrSeal a0 a1) := fun _ _ => of_none (.inl rfl)
theorem wrUnseal : ∀ a0 a1, Statement (.wrUnseal a0 a1) := fun _ _ => of_none (.inl rfl)
theorem wrFree : ∀ a0 a1, Statement (.wrFree a0 a1) := fun _ _ => of_none (.inl rfl)
theorem rangeSet : ∀ a0 a1, Statement (.rangeSet a0 a1) := fun _ _ => of_none (.inl rfl)
theorem pdAlloc : ∀ a0 a1, Statement (.pdAlloc a0 a1) := fun _ _ => of_none (.inl rfl)
theorem pdFree : ∀ a0 a1, Statement (.pdFree a0 a1) := fun _ _ => of_none (.inl rfl)
theorem mrReg : ∀ a0 a1, Statement (.mrReg a0 a1) := fun _ _ => of_none (.inl rfl)
theorem mrDereg : ∀ a0 a1, Statement (.mrDereg a0 a1) := fun _ _ => of_none (.inl rfl)
theorem qpCreate : ∀ a0 a1, Statement (.qpCreate a0 a1) := fun _ _ => of_none (.inl rfl)
theorem qpModify : ∀ a0 a1, Statement (.qpModify a0 a1) := fun _ _ => of_none (.inl rfl)
theorem qpDestroy : ∀ a0 a1, Statement (.qpDestroy a0 a1) := fun _ _ => of_none (.inl rfl)
theorem qpBind : ∀ a0 a1, Statement (.qpBind a0 a1) := fun _ _ => of_none (.inl rfl)
theorem ringRead : ∀ a0 a1, Statement (.ringRead a0 a1) := fun _ _ => of_none (.inl rfl)
theorem ringRelease : ∀ a0 a1, Statement (.ringRelease a0 a1) := fun _ _ => of_none (.inl rfl)
theorem budgetSet : ∀ a0 a1, Statement (.budgetSet a0 a1) := fun _ _ => of_none (.inl rfl)
theorem gangStop : ∀ a0 a1, Statement (.gangStop a0 a1) := fun _ _ => of_none (.inl rfl)
theorem gangRelease : ∀ a0 a1, Statement (.gangRelease a0 a1) := fun _ _ => of_none (.inl rfl)
theorem stopRead : ∀ a0 a1, Statement (.stopRead a0 a1) := fun _ _ => of_none (.inl rfl)
theorem groupMove : ∀ a0 a1, Statement (.groupMove a0 a1) := fun _ _ => of_none (.inl rfl)
theorem quote : ∀ a0 a1, Statement (.quote a0 a1) := fun _ _ => of_none (.inl rfl)
theorem extend : ∀ a0 a1, Statement (.extend a0 a1) := fun _ _ => of_none (.inl rfl)
theorem ownRelease : ∀ a0 a1, Statement (.ownRelease a0 a1) := fun _ _ => of_none (.inl rfl)
theorem ownRecover : ∀ a0 a1, Statement (.ownRecover a0 a1) := fun _ _ => of_none (.inl rfl)
theorem ownInstall : ∀ a0 a1, Statement (.ownInstall a0 a1) := fun _ _ => of_none (.inl rfl)
theorem imgWrite : ∀ a0 a1, Statement (.imgWrite a0 a1) := fun _ _ => of_none (.inl rfl)
theorem imgSelect : ∀ a0 a1, Statement (.imgSelect a0 a1) := fun _ _ => of_none (.inl rfl)
theorem rqtailWrite : ∀ a0 a1 a2, Statement (.rqtailWrite a0 a1 a2) := fun _ _ _ => of_none (.inl rfl)
theorem rpheadWrite : ∀ a0 a1, Statement (.rpheadWrite a0 a1) := fun _ _ => of_none (.inl rfl)
theorem farrierTakeRequest : ∀ a0, Statement (.farrierTakeRequest a0) := fun _ => of_none (.inl rfl)
theorem heartbeat : Statement .heartbeat := of_none (.inl rfl)
theorem heartbeatTimeout : Statement .heartbeatTimeout := of_none (.inl rfl)
theorem imgctlGo : ∀ a0, Statement (.imgctlGo a0) := fun _ => of_none (.inl rfl)
theorem hvpodWrite : ∀ a0, Statement (.hvpodWrite a0) := fun _ => of_none (.inl rfl)
theorem hvctlEn : ∀ a0 a1, Statement (.hvctlEn a0 a1) := fun _ _ => of_none (.inl rfl)
theorem hvctlRst : ∀ a0, Statement (.hvctlRst a0) := fun _ => of_none (.inl rfl)
theorem hvctlWiden : ∀ a0, Statement (.hvctlWiden a0) := fun _ => of_none (.inl rfl)
theorem trainingEnd : ∀ a0 a1, Statement (.trainingEnd a0 a1) := fun _ _ => of_none (.inl rfl)
theorem trainingTimeout : ∀ a0, Statement (.trainingTimeout a0) := fun _ => of_none (.inl rfl)
theorem peerSignalLost : ∀ a0, Statement (.peerSignalLost a0) := fun _ => of_none (.inl rfl)
theorem laneLost : ∀ a0 a1 a2, Statement (.laneLost a0 a1 a2) := fun _ _ _ => of_none (.inl rfl)
theorem lmap : ∀ a0 a1 a2 a3, Statement (.lmap a0 a1 a2 a3) := fun _ _ _ _ => of_none (.inl rfl)
theorem lack : ∀ a0 a1, Statement (.lack a0 a1) := fun _ _ => of_none (.inl rfl)
theorem linkBlock : ∀ a0 a1, Statement (.linkBlock a0 a1) := fun _ _ => of_none (.inl rfl)
theorem trailerTimeout : ∀ a0, Statement (.trailerTimeout a0) := fun _ => of_none (.inl rfl)
theorem packetForward : ∀ a0, Statement (.packetForward a0) := fun _ => of_none (.inl rfl)
theorem rd : ∀ a0, Statement (.rd a0) := fun _ => of_none (.inl rfl)
theorem wr : ∀ a0, Statement (.wr a0) := fun _ => of_none (.inl rfl)
theorem at_ : ∀ a0, Statement (.at_ a0) := fun _ => of_none (.inl rfl)
theorem fe : ∀ a0, Statement (.fe a0) := fun _ => of_none (.inl rfl)
theorem bar : ∀ a0, Statement (.bar a0) := fun _ => of_none (.inl rfl)
theorem put : ∀ a0, Statement (.put a0) := fun _ => of_none (.inl rfl)
theorem msg : ∀ a0, Statement (.msg a0) := fun _ => of_none (.inl rfl)
theorem spn : ∀ a0, Statement (.spn a0) := fun _ => of_none (.inl rfl)
theorem killPacket : ∀ a0, Statement (.killPacket a0) := fun _ => of_none (.inl rfl)
theorem kack : ∀ a0, Statement (.kack a0) := fun _ => of_none (.inl rfl)
theorem rsp : ∀ a0, Statement (.rsp a0) := fun _ => of_none (.inl rfl)
theorem rty : ∀ a0, Statement (.rty a0) := fun _ => of_none (.inl rfl)
theorem packetTimerExpiry : ∀ a0, Statement (.packetTimerExpiry a0) := fun _ => of_none (.inl rfl)
theorem ethernetEnable : ∀ a0 a1, Statement (.ethernetEnable a0 a1) := fun _ _ => of_none (.inl rfl)
theorem ethernetDisable : ∀ a0, Statement (.ethernetDisable a0) := fun _ => of_none (.inl rfl)
theorem ethernetAgreement : ∀ a0, Statement (.ethernetAgreement a0) := fun _ => of_none (.inl rfl)
theorem ethernetTrained : ∀ a0 a1, Statement (.ethernetTrained a0 a1) := fun _ _ => of_none (.inl rfl)
theorem ethernetNegTimeout : ∀ a0, Statement (.ethernetNegTimeout a0) := fun _ => of_none (.inl rfl)
theorem ethernetRetry : ∀ a0, Statement (.ethernetRetry a0) := fun _ => of_none (.inl rfl)
theorem ethernetFault : ∀ a0, Statement (.ethernetFault a0) := fun _ => of_none (.inl rfl)
theorem ethernetFaultClear : ∀ a0, Statement (.ethernetFaultClear a0) := fun _ => of_none (.inl rfl)
theorem ethernetFaultTimeout : ∀ a0, Statement (.ethernetFaultTimeout a0) := fun _ => of_none (.inl rfl)
theorem curbDivision : ∀ a0, Statement (.curbDivision a0) := fun _ => of_none (.inl rfl)
theorem fdutyUpdate : ∀ a0, Statement (.fdutyUpdate a0) := fun _ => of_none (.inl rfl)
theorem curbdieWrite : ∀ a0 a1, Statement (.curbdieWrite a0 a1) := fun _ _ => of_none (.inl rfl)
theorem cpwrFreqWrite : ∀ a0 a1, Statement (.cpwrFreqWrite a0 a1) := fun _ _ => of_none (.inl rfl)
theorem cpwrWake : ∀ a0, Statement (.cpwrWake a0) := fun _ => of_none (.inl rfl)
theorem droopTrip : ∀ a0 a1, Statement (.droopTrip a0 a1) := fun _ _ => of_none (.inl rfl)
theorem droopPauseEnd : ∀ a0, Statement (.droopPauseEnd a0) := fun _ => of_none (.inl rfl)
theorem droopHalvingEnd : ∀ a0, Statement (.droopHalvingEnd a0) := fun _ => of_none (.inl rfl)
theorem phaseLoss : ∀ a0, Statement (.phaseLoss a0) := fun _ => of_none (.inl rfl)
theorem coreIdle : ∀ a0, Statement (.coreIdle a0) := fun _ => of_none (.inl rfl)
theorem coreRetention : ∀ a0, Statement (.coreRetention a0) := fun _ => of_none (.inl rfl)
theorem coreGated : ∀ a0, Statement (.coreGated a0) := fun _ => of_none (.inl rfl)
theorem coreWakeEvent : ∀ a0, Statement (.coreWakeEvent a0) := fun _ => of_none (.inl rfl)
theorem inrushGrant : ∀ a0, Statement (.inrushGrant a0) := fun _ => of_none (.inl rfl)
theorem rampEnd : ∀ a0, Statement (.rampEnd a0) := fun _ => of_none (.inl rfl)
theorem peerSignalDetected : ∀ a0, Statement (.peerSignalDetected a0) := fun _ => of_none (.inl rfl)
theorem softError : ∀ a0, Statement (.softError a0) := fun _ => of_none (.inl rfl)
theorem bufferZeroed : ∀ a0, Statement (.bufferZeroed a0) := fun _ => of_none (.inl rfl)
theorem accessAtHome : ∀ a0, Statement (.accessAtHome a0) := fun _ => of_none (.inl rfl)
theorem frequencyRampEnd : ∀ a0, Statement (.frequencyRampEnd a0) := fun _ => of_none (.inl rfl)
theorem rocev2Retransmission : ∀ a0, Statement (.rocev2Retransmission a0) := fun _ => of_none (.inl rfl)

end Sys2Proof.Laws.GuardField
end

