-- ==== Sys2Proof/Laws/Requests.lean ====
section
/-! SUPPORT. What the requests that take frames or a place in the weight store answer when they are accepted, in terms of the frames taken. -/

namespace Sys2Proof.Machine

/-- A request of an OPEN context of its interface, with its arguments in their ranges, is served. -/
theorem ofCtx_inRange {ok : Req → Bool} {g : Serve} {f k : Nat} {r : Req} {s : State} (hc : r.ctx < 256) (hs : (s.ctx r.ctx).st = .opened)
    (hf : (s.ctx r.ctx).iface = f) (ho : ok r = true) : ofCtx (inRange ok g) f k r s = g f k r s := by
  simp [ofCtx, inRange, Nat.not_le.mpr hc, hs, hf, ho]

/-- The context that CTX_OPEN makes (R138, R139, R480). -/
def openedCtx (f : Nat) (r : Req) (pos ring root save now : Nat) : Context :=
  { Context.reset with
    st := .opened, tag := Req.arg r 0 % 65536, iface := f, pos := pos, tvec := r.args.getD 1 0, spread := bitN (Req.arg r 0) 16,
    period := Req.arg r 2, wdStart := now, quota := quotaOf r, root := root, ring := ring, saveBase := save }

theorem serveOpen_eq {f k n pos ring pa0 pa1 pa2 : Nat} {r : Req} {s s1 s2 s3 : State} (h0 : r.ctx = 0) (hr : openOk r = true)
    (hn : s.ctxs.lowestFree 256 = some n) (hp : s.freePos f = some pos) (ht : s.ctxOfTag (Req.arg r 0 % 65536) = none)
    (hb : s.budgetOk f (quotaOf r) = true) (hg : s.rings.lowestFree 65536 = some ring) (e1 : s.takeFrame 4096 n 1 = some (pa0, s1))
    (e2 : (s1.zero pa0 4096).takeBuffer (Req.arg r 3) 65536 n 3 = some (pa1, s2)) (e3 : s2.takeBuffer (Req.arg r 4 * 32) 64 256 2 = some (pa2, s3)) :
    serveOpen f k r s = acceptReq (word n) (word (ring * 2 ^ 32 + pos))
      { s3 with
        ctxs := s3.ctxs.set n (openedCtx f r pos ring pa0 pa1 s3.now),
        rings := s3.rings.set ring { ctx := n, iface := f, size := Req.arg r 4, base := pa2, rtail := 0, rhead := 0, recs := [], waiting := [], live := true } } := by
  simp [serveOpen, noCtx, inRange, openedCtx, *]

theorem serveLqCreate_eq {f k pa : Nat} {r : Req} {s s1 : State} (hc : r.ctx < 256) (hs : (s.ctx r.ctx).st = .opened)
    (hf : (s.ctx r.ctx).iface = f) (h0 : Req.arg r 0 < 4) (h1 : pow2In (Req.arg r 1) 64 4096 = true) (hq : (s.ctx r.ctx).queues.get? (Req.arg r 0) = none)
    (hu : s.framesHeld r.ctx + framesOf (64 * Req.arg r 1) ≤ (s.ctx r.ctx).quota.frames)
    (e1 : s.takeFrame (64 * Req.arg r 1) r.ctx 2 = some (pa, s1)) :
    serveLqCreate f k r s = doneReq ((s1.zero pa (64 * Req.arg r 1)).modCtx r.ctx fun x => { x with
      queues := x.queues.set (Req.arg r 0) { paused := false, depth := Req.arg r 1, base := pa, head := 0, tail := 0, drops := 0, recs := [], taken := [] } }) := by
  simp [serveLqCreate, ofCtx_inRange hc hs hf, h0, h1, hq, Nat.not_lt.mpr hu, e1]

theorem serveMap_eq {f k pa : Nat} {r : Req} {s s1 s2 : State} (hc : r.ctx < 256) (hs : (s.ctx r.ctx).st = .opened)
    (hf : (s.ctx r.ctx).iface = f) (ho : mapOk r = true) (h2 : Req.arg r 2 = 0) (hu : s.unmapped r.ctx (Req.arg r 0) (szBytes (fld (Req.arg r 1) 0 4)) = true)
    (hq : s.framesHeld r.ctx + szBytes (fld (Req.arg r 1) 0 4) / 4096 ≤ (s.ctx r.ctx).quota.frames)
    (e1 : s.takeFrame (szBytes (fld (Req.arg r 1) 0 4)) r.ctx 0 = some (pa, s1))
    (e2 : (s1.zero pa (szBytes (fld (Req.arg r 1) 0 4))).writeLeaf r.ctx (Req.arg r 0) (fld (Req.arg r 1) 0 4)
      (leafOf s.chip pa (fld (Req.arg r 1) 0 4) (Req.arg r 1)) = some s2) :
    serveMap f k r s = acceptReq (leafOf s.chip pa (fld (Req.arg r 1) 0 4) (Req.arg r 1)) 0 s2 := by
  simp [serveMap, ofCtx_inRange hc hs hf ho, h2, hu, Nat.not_lt.mpr hq, e1, e2]

theorem serveMove_eq {f k va n fr : Nat} {pte : Word} {r : Req} {s s2 : State} (hc : r.ctx < 256) (hs : (s.ctx r.ctx).st = .opened)
    (hf : (s.ctx r.ctx).iface = f) (h0 : Req.arg r 0 < 2 ^ 48) (hp : s.pageAt r.ctx (Req.arg r 0) = some (va, n, pte)) (hm : pteM pte.toNat = false)
    (h1 : Req.arg r 1 = 0) (e1 : s.pickFrame n = some fr) (hh : pteChip pte.toNat = s.chip) (hb : pteFrame pte.toNat < hbmSize)
    (e2 : ({ s with frames := s.frames ++ [{ pa := fr, size := n, ctx := r.ctx, use := 0 }], tick := s.tick + 1 } : State).writeLeaf r.ctx va
      (pteSz pte.toNat) (word (pte.toNat + 8)) = some s2) :
    serveMove f k r s = acceptReq (word fr) 0 (({ s2 with moving := s2.moving
      ++ [{ ctx := r.ctx, va := va, size := n, old := pteFrame pte.toNat, new := fr, copying := false, copied := 0, ended := false }] } : State).shootdown
        r.ctx va n s.chip (pteFrame pte.toNat) .moveStart none) := by
  unfold serveMove ofPage
  rw [ofCtx_inRange hc hs hf (decide_eq_true h0)]
  simp [hp, hm, h1, e1, hh, Nat.not_le.mpr hb, e2]

theorem serveWrAlloc_eq {f k b : Nat} {r : Req} {s s2 : State} (hc : r.ctx < 256) (hs : (s.ctx r.ctx).st = .opened)
    (hf : (s.ctx r.ctx).iface = f) (h0 : Req.arg r 0 < 2) (h1 : Req.arg r 1 = wsUnit) (h2 : Req.arg r 2 % wsUnit = 0) (h3 : Req.arg r 2 + Req.arg r 1 ≤ 2 ^ 48)
    (hu : s.unmapped r.ctx (Req.arg r 2) (Req.arg r 1) = true)
    (hq : ((s.wsUsed.filter fun u => decide (u.2.2 = r.ctx) && decide (wsBase + Req.arg r 0 * wsDie ≤ u.1)
      && decide (u.1 < wsBase + Req.arg r 0 * wsDie + wsDie)).map (·.2.1)).sum + Req.arg r 1 ≤ (s.ctx r.ctx).quota.wstore * wsUnit)
    (e1 : s.pickRegion (Req.arg r 0) (Req.arg r 1) = some b)
    (e2 : ({ s with regions := s.regions.set b { ctx := r.ctx, size := Req.arg r 1, va := Req.arg r 2, serving := false, sealing := none },
                    tick := s.tick + 1 } : State).writeLeaf r.ctx (Req.arg r 2) 3 (leafOf s.chip b 3 768) = some s2) :
    serveWrAlloc f k r s = acceptReq (word b) 0 s2 := by
  unfold serveWrAlloc
  rw [ofCtx_inRange hc hs hf (by simp only [h1, h0, h2, Bool.and_eq_true, decide_eq_true_eq, true_and]; exact ⟨⟨⟨by decide, by decide⟩, trivial⟩, h1 ▸ h3⟩)]
  have h4 : (List.range (Req.arg r 1 / wsUnit)) = [0] := by rw [h1]; rfl
  simp only [hu, Nat.not_lt.mpr hq, e1, h4, List.foldlM_cons, List.foldlM_nil, Nat.zero_mul, Nat.add_zero, Bool.not_true, if_false]
  simp only [State.chip] at e2 ⊢
  simp [e2]

end Sys2Proof.Machine
end

