-- ==== Sys2Proof/Machine/Wire.lean ====
section
/-! DEFINITION. The bytes that a port puts on its lanes: headers and payload of packets (18_link R424), the codes of their kinds
(R425), and link blocks with their trailers (R429). The state holds packets and blocks as structures (log 13, log 26). -/

namespace Sys2Proof.Machine

/-- KIND of a packet (R425). -/
def PKind.code : PKind → Nat
  | .rd => 0x01 | .wr => 0x02 | .at_ => 0x03 | .fe => 0x04 | .bar => 0x05 | .put => 0x06 | .msg => 0x07 | .spn => 0x08
  | .kill => 0x09 | .kack => 0x0A | .rsp => 0x10 | .rty => 0x11 | .other c => c

/-- The packet kind of a KIND that marks no null flit (R424, R425). -/
def kindOf (c : Nat) : PKind :=
  (([.rd, .wr, .at_, .fe, .bar, .put, .msg, .spn, .kill, .kack, .rsp, .rty] : List PKind).find? fun k => PKind.code k = c).getD (.other c)

/-- The header flit of a packet (R424). The spec gives SUB no codes; they are the implementation's. -/
def Packet.headerBytes (p : Packet) : List Byte :=
  bytesOf 2 (PKind.code p.kind) ++ bytesOf 2 (p.dst % 1024) ++ bytesOf 2 (p.src % 1024) ++ bytesOf 2 p.tag
  ++ [BitVec.ofNat 8 (p.cls % 16 + Packet.payload p * 16), Config.subByte p.sub]
  ++ bytesOf 6 p.addr ++ bytesOf 4 p.seq ++ bytesOf 5 (p.hnd % 2 ^ 34)
  ++ [BitVec.ofNat 8 (if p.kind = .rsp then stCode p.status else 0)] ++ bytesOf 2 p.bytes ++ bytesOf 4 p.aux

/-- The flits of a packet, 32 bytes each (R424). -/
def Packet.wire (p : Packet) : List (List Byte) :=
  Packet.headerBytes p :: (List.range (Packet.payload p)).map fun i =>
    let d := (p.data.drop (32 * i)).take 32
    d ++ zeros (32 - d.length)

/-- A null flit (R424, R429). -/
def nullFlit : List Byte := zeros 32

/-- The bits of a header flit that must be zero are zero (R424). -/
def headerZeros (h : List Byte) : Bool :=
  decide (getLe h 2 2 < 1024) && decide (getLe h 4 2 < 1024) && decide (getLe h 8 1 / 16 ≤ 8) && decide (getLe h 20 5 < 2 ^ 34)
  && (decide (kindOf (getLe h 0 2) = .rsp) || decide (getLe h 25 1 = 0))

/-- One bit of the CRC-32 of IEEE 802.3, in its reflected form. -/
def crcBit (c : BitVec 32) : BitVec 32 := if c.getLsbD 0 then (c >>> 1) ^^^ 0xEDB88320 else c >>> 1

/-- One byte of it. -/
def crcByte (c : BitVec 32) (b : Byte) : BitVec 32 := (List.range 8).foldl (fun c _ => crcBit c) (c ^^^ b.zeroExtend 32)

/-- CRC-32 of IEEE 802.3 over bytes (R429). -/
def crc32 (l : List Byte) : BitVec 32 := ~~~(l.foldl crcByte 0xFFFFFFFF)

/-- Bits [31:0] of a block's trailer (R429). -/
def LinkBlock.low (b : LinkBlock) : Nat :=
  b.cr % 32 * 2 ^ 27 + b.cv % 4 * 2 ^ 25 + b2n b.nak * 2 ^ 24 + b.ack % 4096 * 2 ^ 12 + b.seq % 4096

/-- A link block with the bytes of its 8 flits, and its trailer (R429). -/
def LinkBlock.bytes (b : LinkBlock) (flits : List (List Byte)) : List Byte :=
  let body := flits.flatten ++ bytesOf 4 (LinkBlock.low b)
  body ++ bytesOf 4 (crc32 body).toNat

end Sys2Proof.Machine
end

