-- ==== Sys2Proof/Tests/Slice0.lean ====
section
/-! SUPPORT. Tests of the model: terms that well-formedness refuses, words written out from the encodings of the spec, single steps
whose results the spec states, and for the hypotheses of every statement a state and operands that meet them. -/

namespace Sys2Proof.Tests

open Sys2Proof.Machine Sys2Proof.Safety

set_option maxRecDepth 100000
set_option Elab.async false

/-- The guard that is always true (R38). -/
def g0 : Guard := { neg := false, p := 0 }
/-- A scalar's order of no order at group scope (R46). -/
def o0 : Order := { ord := .none, scp := .grp }
/-- Options of a copy command that counts in e0 and names no barrier. -/
def c0 : CopyOpts := { done := .async 0, bar := none, full := false }

/-! ### Well-formedness -/

theorem test_wf_scalar : [Instr.fence g0 o0, .srd g0 1 0x7FF, .swr g0 0x7FF 1, .swr g0 0x000 1].map wf = [false, false, false, false] := by decide

theorem test_wf_vector_float : [Instr.vadd g0 .i32 .rne 1 2 3, .vsub g0 .f4 .rne 1 2 3, .vmul g0 .u16 .rne 1 2 3, .vfma g0 .i16 .rne 1 2 3 4,
    .vfms g0 .u32 .rne 1 2 3 4, .vrcp g0 .i32 .rne 1 2, .vrsq g0 .f8e4 .rne 1 2, .vexp2 g0 .u16 .rne 1 2, .vlog2 g0 .i16 .rne 1 2,
    .vclass g0 .i32 1 1 2 3 0].all (fun i => !wf i) = true := by decide

theorem test_wf_vector_lane : [Instr.vmin g0 .f8e4 1 2 3, .vmax g0 .f4 1 2 3, .vabs g0 .u32 1 2, .vneg g0 .u16 1 2, .vcmp g0 .eq .f4 1 2 3 4,
    .vsel g0 .f8e5 1 1 false 2 3, .vmov g0 .f4 1 2, .vbcst g0 .f8e4 1 2, .vperm g0 .f4 1 2 3 4, .vand g0 .f8e4 1 2 3, .vor g0 .f4 1 2 3,
    .vxor g0 .f8e5 1 2 3, .vldg g0 .f4 1 2 3 0, .vsts g0 .f8e4 1 2 3 0, .vextr g0 .f32 1 2 32, .vins g0 .f4 1 2 0,
    .vshuf g0 .f32 1 2 3 (.rot 32)].all (fun i => !wf i) = true := by decide

theorem test_wf_vector_int : [Instr.vshl g0 .f32 1 2 (.imm 1), .vshr g0 .bf16 1 2 (.imm 1), .vsar g0 .f16 1 2 (.imm 1), .viadd g0 .f32 1 2 3,
    .vimul g0 .f16 1 2 3, .vidx g0 .bf16 1 2 0, .vcvt g0 .f32 .f32 false .rne 1 2 0, .vcvt g0 .f8e4 .f4 false .rne 1 2 0,
    .vcvt g0 .f16 .f32 false .rne 1 2 2, .vcvt g0 .f16 .f32 true .rne 1 2 0, .vcvt g0 .f4 .f32 false .rup 1 2 0,
    .vred g0 .min .f32 .rup 1 2, .vred g0 .add .i32 .rup 1 2].all (fun i => !wf i) = true := by decide

theorem test_wf_copy : [Instr.cpym g0 c0 1 2 3 0, .cpyw g0 { c0 with full := true } 1 2 3].map wf = [false, false] := by decide

/-! ### Words written out from the encodings of R37 to R47 -/

theorem test_decode_integer : [0x1B0020132800000000000000, 0x190009000123456789ABCDEF, 0x2600005072000000000000FF].map (decodeTableWord 96) =
    [some (.cmp g0 .lt 1 2 1 (.reg 3)), some (.li g0 9 0x0123456789ABCDEF), some (.pany g0 .any 3 4 5 (.imm 0xFF))] := by decide

theorem test_decode_memory : [0x300063200000000000000010, 0x310020590000FFFFFFFFFFF8, 0x32A035100000000000000040].map (decodeTableWord 96) =
    [some (.ld g0 .s4 3 2 16), some (.st g0 .b4 5 9 0xFFFFFFFFFFF8), some (.ldn { neg := true, p := 2 } .b8 5 1 64)] := by decide

theorem test_decode_atomics : [0x4000146701B0000000000000, 0x400010670530000000000000, 0x4700123428A0000000000000].map (decodeTableWord 96) =
    [some (.aadd g0 true { ord := .ar, scp := .dev } (.res 4) 6 7 0), some (.aadd g0 true { ord := .rel, scp := .dev } .drop 6 7 0),
     some (.acas g0 true { ord := .acq, scp := .clu } 2 1 2 3 4 0)] := by decide

theorem test_decode_branches : [0x50024C00FFFFFFFFFF880000, 0x520000000000000000C00000, 0x51003C000000000000000000].map (decodeTableWord 96) =
    [some (.br g0 (.nz 3) .an 0x3FFFFFFFFFE 1), some (.call g0 .none 3 0), some (.brx g0 .none 15)] := by decide

theorem test_decode_system : [0x540000000200000000000007, 0x550000000000000000000000, 0x580000000000000000000000, 0x590003000000000000000041,
    0x5A0000400000000000000043, 0x5B0002000000000000000000, 0x5C0003000000000000000000, 0x5D0009802A00000000000055,
    0x5F0004000200000000000023].map (decodeTableWord 96) =
    [some (.trap g0 (.imm 7)), some (.eret g0), some (.nop g0), some (.srd g0 3 0x041), some (.swr g0 0x043 4), some (.ts g0 2), some (.cyc g0 3),
     some (.tpost g0 9 1 2 8 (.imm 0x55)), some (.wswin g0 4 (.imm 35))] := by decide

theorem test_decode_threads : [0x600016502A00000000000064, 0x610000560000000000000006, 0x620007607000000000000000, 0x630000000000000000000000,
    0x680000000200000000000001].map (decodeTableWord 96) =
    [some (.spawnLoose g0 6 1 2 5 (.imm 100)), some (.spnr g0 5 6 (some 2)), some (.join g0 7 3 4 6), some (.exit g0),
     some (.semw g0 0 (.imm 1))] := by decide

theorem test_decode_messages : [0x740000230090000000000005, 0x700004002A10000000000003, 0x710002400000000000000002,
    0x720000030000007000000509].map (decodeTableWord 96) =
    [some (.send g0 1 2 (some 1) 2 3), some (.gnameRank g0 4 1 2 (.imm 3)), some (.varm g0 9 2), some (.vput g0 3 7 9 (some 1))] := by decide

theorem test_decode_kernels_barriers : [0x780005000200000000000007, 0x7C0000200230000000000002, 0x7F0006977030000000000000].map (decodeTableWord 96) =
    [some (.wid g0 5 7), some (.binit g0 .dev 2 (.imm 2)), some (.bind g0 .dev 6 3 4 9 (.reg 7))] := by decide

theorem test_decode_vector : [0x800000820400000000000000, 0x830001C10830000000000000].map (decodeTableWord 96) =
    [some (.vadd g0 .f32 .rne 2 2 1), some (.vfma g0 .f32 .rne 7 1 2 3)] := by decide

theorem test_decode_engines : [0xC80000679002230000000000, 0xD00000564002070000000000, 0xD20000009000070000000000,
    0xE00002344000804020000000].map (decodeTableWord 96) =
    [some (.mma g0 (.async 2) 1 6 7 .k128 2 3), some (.mcnt g0 (.async 1) false 0 5 6 .k128 7), some (.mdrn g0 (.async 2) false 1 0 7),
     some (.cpy g0 { done := .async 1, bar := some 0x100, full := true } 2 3 4)] := by decide

theorem test_decode_pages : [0xE80000500100000000000000, 0xE90003402810000000000000].map (decodeTableWord 96) =
    [some (.tlbi g0 .dev (.page 5)), some (.probe g0 .write 3 1 2 4)] := by decide

theorem test_decode_refuses : [0, 0x580001000000000000000000, 0x5000C0000000000000000000, 0x500000000000000000280000, 0x5E0000000030000000000000,
    0x800000000007000000000000].map (decodeTableWord 96) = [none, none, none, none, none, none] := by decide

/-! ### Single steps from reset: the values of R268 at the edges -/

/-- Slot 0 of core 0 with x registers set. -/
def withX (l : List (XReg × Word)) : State :=
  State.reset.setSlot { core := 0, slot := 0 }
    { Slot.reset with th := l.foldl (fun t e => { t with x := t.x.set e.1 e.2 }) Thread.reset }

/-- x1 after one step of the instruction with bits `w`. -/
def x1After (w : Nat) (l : List (XReg × Word)) : Option Word :=
  match step ((withX l).withFetchWord 96 w) with
  | .next s => some (s.me.xr 1)
  | _ => none

theorem test_div : (x1After 0x050001200200FFFFFFFFFFFE [(2, 7)], x1After 0x050001200200000000000000 [(2, 7)]) =
    (some (BitVec.ofInt 64 (-3)), some ones) := by decide +kernel

theorem test_div_min : x1After 0x050001200200FFFFFFFFFFFF [(2, BitVec.ofNat 64 (2 ^ 63))] = some (BitVec.ofNat 64 (2 ^ 63)) := by decide +kernel

theorem test_rem : (x1After 0x060001200200000000000002 [(2, BitVec.ofInt 64 (-7))], x1After 0x060011200200000000000000 [(2, 42)]) =
    (some (BitVec.ofInt 64 (-1)), some 42) := by decide +kernel

theorem test_mulh : x1After 0x040011200200FFFFFFFFFFFF [(2, ones)] = some 0xFFFFFFFFFFFFFFFE := by decide +kernel

theorem test_shifts : (x1After 0x0C0001200200000000000041 [(2, 1)], x1After 0x0E0001200200000000000001 [(2, BitVec.ofInt 64 (-8))]) =
    (some 2, some (BitVec.ofInt 64 (-4))) := by decide +kernel

theorem test_fields : (x1After 0x15000120020000000000073C [(2, 0xF000000000000000)], x1After 0x16000120020000000000073C [(2, 0xFF)]) =
    (some 0xF, some 0xF000000000000000) := by decide +kernel

theorem test_clz : x1After 0x120001200000000000000000 [(2, 0)] = some 64 := by decide +kernel

/-! ### Witnesses: for the hypotheses of each statement, a state and operands that meet them -/

/-- Generous quotas (R142). -/
def quota1 : Quota := { slotsCore := 64, slotsDev := 1000, blocks := 16, banks := 16, boxes := 8, chans := 8, wstore := 8, frames := 4096,
                        bwMask := 65535, launches := 8, qps := 8, save := 65536 }
/-- An OPEN context of interface 1 with pod tag 7. -/
def ctx1 : Context := { Context.reset with st := .opened, tag := 7, iface := 1, tvec := 0x400000, quota := quota1 }
/-- A thread with x registers set, its PC at a legal slot and a handler. -/
def thr (l : List (XReg × Word)) : Thread :=
  let t : Thread := { Thread.reset with pc := 0x400000, npc := 0x40000C, nnpc := 0x400018, tvec := 0x400040, lastIssue := some 0 }
  l.foldl (fun t e => { t with x := t.x.set e.1 e.2 }) t
/-- Slot 0 of core 0. -/
def T0 : Tid := { core := 0, slot := 0 }
/-- That slot, READY with a thread. -/
def slotOf1 (t : Thread) : Slot := { Slot.reset with st := .ready, gen := 1, th := t }
/-- A device with one READY thread of context 0. -/
def one (t : Thread) : State := { State.reset with slots := [(0, slotOf1 t)], ctxs := [(0, ctx1)] }
/-- That thread in another slot state. -/
def oneAs (st : SlotSt) (t : Thread) : State := { one t with slots := [(0, { slotOf1 t with st := st })] }
/-- A thread of the group named 5, in launch 0. -/
def member (t : Thread) : Thread := { t with group := some 5, launch := some 0 }
/-- That group, with a window of 64 registers. -/
def grp1 : Group := { Group.reset with name := 5, st := .running, vregs := 64 }
/-- A launch that runs. -/
def launch1 : Launch :=
  { ctx := 0, rcd := LRec.zero, producers := [], order := 0, st := .running, eligible := true, names := [5], trig := [], aborted := false,
    shape := [], since := none, fair := false, pendCore := none, after := (0, []) }
/-- A core whose vector bank 0 is ON. -/
def core1 : Core := { Core.reset with vbanks := [(0, { VBank.reset with st := .on })] }
/-- A device with one group of one READY thread. -/
def inGroup (t : Thread) (g : Group) : State :=
  { one (member t) with groups := [(5, g)], cores := [(0, core1)], launches := [(0, launch1)] }
/-- Whether an outcome is a next state. -/
def isNext : Host.Outcome State Fault Refusal → Bool
  | .next _ => true
  | _ => false

/-! #### Encodings, steps and the whole machine -/

/-- A state whose next step fetches a NOP. -/
def nopState : State := State.reset.withFetchWord 96 (0x58 * 2 ^ 88)

theorem wit_StepRunsDecoded :
    let u := ({ nopState with issueq := [] } : State).at_ T0
    let e : TlbE := { ctx := 0, va := loadPage, size := 4096, pte := State.reset.loadPte }
    let d := loadLine (0x58 * 2 ^ 88)
    let pa := e.pa (pcLine u.me.pc)
    let v : State := { u with clusters := [] }
    nopState.issueq = [(T0, .whole)] ∧ (nopState.slot T0).st.live = true ∧ u.me.pc.toNat < 2 ^ 48 ∧ u.xlate u.me.pc.toNat = .ok e u
    ∧ permCheck u u.me.ctx e.pte.toNat pa .fetch = none ∧ place pa = .hbm ∧ u.cached (clusterOf T0.core) u.chip pa = some d
    ∧ (v.cached (clusterOf T0.core) u.chip pa = none ∧ v.movingAt pa = none ∧ (v.bwClass (pteBwc e.pte.toNat)).unl = true
       ∧ v.eccHit pa 64 = false ∧ d = v.bytes pa 64) ∧ lineOk (lineWord d) = true
    ∧ (u.me.k0 = true → u.me.reissue = false → bitN (lineWord d) (pcSlot u.me.pc) = true) ∧ u.me.breaks = false
    ∧ slotParity d (pcSlot u.me.pc) = true ∧ decode (slotOf d (pcSlot u.me.pc)) = .ok (.nop g0) ∧ u.me.pairs d (pcSlot u.me.pc) = false := by
  decide +kernel

theorem wit_StepRunsDecoded_event :
    ({ State.reset with agenda := [(5, .heartbeat)] } : State).issueq = [] ∧ encode .heartbeat = none := by decide +kernel

theorem wit_EncodeDecode : wf (.li g0 15 ones) = true ∧ encode (.li g0 15 ones) = some 0x19000F00FFFFFFFFFFFFFFFF := by decide +kernel

theorem wit_MemoryCanonicalKept :
    MemoryCanonical { State.reset with mem := [(16, 1)], agenda := [(5, .heartbeat)] }
    ∧ isNext (step { State.reset with mem := [(16, 1)], agenda := [(5, .heartbeat)] }) = true := by
  unfold MemoryCanonical; decide +kernel

theorem wit_IssuePosition :
    ((one (thr [])).core 255).clockRuns = true
    ∧ (let k := ({ one (thr []) with cores := [(0, { Core.reset with cyc := 31 })] } : State).core 0
       k.clockRuns = true ∧ (16 ≤ k.cyc % 16 ∨ k.cyc % 2 = 1))
    ∧ (let s : State := { one (thr []) with cores := [(0, { Core.reset with cyc := 16 })] }
       s.pick 0 = some T0 ∧ (s.thread T0).takeable = [] ∧ (s.thread T0).a0 = false)
    ∧ (let s : State := { one { thr [] with pend := [(0x1B, 9)] } with cores := [(0, { Core.reset with cyc := 16 })] }
       s.pick 0 = some T0 ∧ (s.thread T0).takeable = [(0x1B, 9)] ∧ (s.thread T0).tvec ≠ 0 ∧ pcOk (s.thread T0).tvec = true) := by decide +kernel

theorem wit_IssuePosition_closed :
    let k := { Core.reset with cyc := 31, fduty := 15 }
    k.clockRuns = true ∧ (k.fduty ≤ k.cyc % 16 ∨ (k.cyc % 2 = 1 ∧ k.cyc ≤ k.halve)) := by decide +kernel

theorem wit_IssuePosition_reserved :
    let s : State := { one (thr []) with cores := [(0, { Core.reset with cyc := 19, resv := [(3, (0, 16))] })] }
    let k := s.core 0
    k.resv.get? (k.cyc % 16) = some (0, 16) ∧ 16 ≤ k.cyc ∧ s.mayIssue T0 = true ∧ k.closed = false := by decide +kernel

theorem wit_FalseGuardCommits :
    let g : Guard := { neg := true, p := 0 }
    Machine.guardOf (.add g 1 2 (.reg 3)) = some g ∧ (encode (.add g 1 2 (.reg 3))).map (fun w => decide ((w.extractLsb' 88 8).toNat < 0x50)) = some true
    ∧ ((one (thr [])).slot T0).st = .ready ∧ (one (thr [])).me.guard g = false := by decide +kernel

/-! #### Integer, predicate and memory instructions -/

theorem wit_IntegerAndBit : runs (one (thr [(2, ones), (3, 0)])) g0 (1 :: 2 :: srcRegs (.reg 3)) = true
    ∧ runs (one (thr [(15, 64)])) g0 (0 :: 15 :: srcRegs (.imm (BitVec.ofInt 48 (-1)))) = true := by decide +kernel

theorem wit_SelectAndCompare : runs (one (thr [(2, ones)])) g0 (2 :: 2 :: srcRegs (.reg 2)) = true
    ∧ (one (thr [])).me.guard { neg := true, p := 0 } = false ∧ ((one (thr [])).slot T0).st = .ready := by decide +kernel

theorem wit_PredicateInstructions : runs (one { thr [] with p := Vector.replicate 8 5 }) { neg := false, p := 7 } (1 :: 2 :: srcRegs (.imm 0)) = true := by
  decide +kernel

/-- A thread whose x2 is the address of the last 8 bytes before the shape record. -/
def atTop : State := { one (thr [(2, 0x1FFEF8), (3, ones)]) with full := [0x1FFEF] }

theorem wit_LoadsFromOwnScratchpad : runs atTop g0 [1, 2] = true ∧ ownSpad atTop (atTop.me.ea 2 0) 8 8 = true
    ∧ ownSpad atTop (atTop.me.ea 2 7) 1 1 = true ∧ atTop.eccHit (localPa 0 0x1FFEF8) 8 = false ∧ ownSpad atTop (atTop.me.ea 2 4) 4 4 = true := by
  decide +kernel

theorem wit_LoadsFromOwnScratchpad_full :
    let s : State := { atTop with full := [localPa 0 0x1FFEF8 / 16] }
    runs s g0 [1, 2] = true ∧ s.isFull (localPa 0 0x1FFEF8) = true ∧ s.eccHit (localPa 0 0x1FFEF8) 8 = false
    ∧ ownSpad s (s.me.ea 2 0) 8 8 = true := by decide +kernel

theorem wit_StoresToOwnScratchpad : MemoryCanonical atTop ∧ runs atTop g0 [2, 3] = true ∧ atTop.unacked T0 < 32
    ∧ ownSpad atTop (atTop.me.ea 2 0) 8 8 = true ∧ atTop.ldeq = [] ∧ inShapeHole (localPa 0 0x1FFEFF) = false ∧ inShapeHole (localPa 0 0x1FFF00) = true := by
  unfold MemoryCanonical; decide +kernel

theorem wit_AtomicsOnOwnScratchpad : MemoryCanonical atTop ∧ runs atTop g0 [1, 2, 3] = true ∧ atTop.unacked T0 < 32 ∧ atTop.quiet T0 = true
    ∧ atTop.me.owed = [] ∧ ownSpad atTop (atTop.me.ea 2 0) 8 8 = true ∧ ownSpad atTop (atTop.me.ea 2 4) 4 4 = true
    ∧ atTop.eccHit (localPa 0 0x1FFEF8) 8 = false := by
  unfold MemoryCanonical; decide +kernel

theorem wit_MisalignedAccessTraps :
    let s := one (thr [(2, 0x7FFFFFFFFFFFFFFF), (3, 2 ^ 48)])
    runs s g0 [1, 2, 3] = true ∧ [2, 4, 8].all (fun n => decide ((s.me.ea 2 0).toNat % n ≠ 0) && decide ((s.me.ea 3 0).toNat % n = 0)) = true
    ∧ 2 ^ 48 ≤ (s.me.ea 3 0).toNat := by decide +kernel

/-- `atTop` with a second thread, in slot 255, that waits for the granule with an LDE or an LDE.c. -/
def waiter (clear : Bool) : State :=
  let pa := localPa 0 0x1FFEF8
  { atTop with
    full := [],
    slots := [(0, slotOf1 (thr [(2, 0x1FFEF8), (3, ones)])),
              (255, { slotOf1 { thr [] with wait := .block (.lde { chip := 0, pa := pa, bwc := none, loc := true } 1 clear 0x1FFEF8) } with st := .wait })],
    ldeq := [{ pa := pa, clear := clear, who := .thread { core := 0, slot := 255 } }] }

theorem wit_FullBitServesWaiter : [true, false].all (fun clear =>
    let s := waiter clear
    let u : Tid := { core := 0, slot := 255 }
    let pa := localPa 0 (s.me.ea 2 0).toNat
    runs s g0 [2, 3] && decide (s.unacked T0 < 32) && ownSpad s (s.me.ea 2 0) 8 8 && !s.isFull pa
      && decide (s.ldeq = [{ pa := pa, clear := clear, who := .thread u }]) && decide (u.key ≠ T0.key) && decide ((s.slot u).st = .wait)
      && decide ((s.thread u).wait = .block (.lde { chip := 0, pa := pa, bwc := none, loc := true } 1 clear 0x1FFEF8))) = true
    ∧ MemoryCanonical (waiter true) := by
  unfold MemoryCanonical; decide +kernel

/-! #### Control flow, traps and system instructions -/

theorem wit_Branches :
    let s := one (thr [(1, 0x400030), (2, 2 ^ 48), (3, 0x400031), (4, ones)])
    runs s g0 [1, 15] = true ∧ freeRegs s (testRegs (.neg 4)) = true ∧ (s.me.xr 4).toInt < 0 ∧ pcOk (s.me.xr 1) = true
    ∧ s.me.xr 4 ≠ 0 ∧ s.me.xr 5 = 0 ∧ 0 ≤ (s.me.xr 5).toInt ∧ runs s g0 [4] = true ∧ runs s g0 [5] = true ∧ 2 ^ 48 ≤ (s.me.xr 2).toNat ∧ (s.me.xr 3).toNat < 2 ^ 48 ∧ (s.me.xr 3).toNat % 64 ∉ [0, 12, 24, 36, 48]
    ∧ (branchTarget s.me.pc 0 4).toNat < 2 ^ 48 ∧ 2 ^ 48 ≤ (branchTarget s.me.pc (BitVec.ofInt 42 (-0x10001)) 0).toNat := by decide +kernel

theorem wit_TrapEntry : canTrap (one (thr [])).me = true ∧ ((one (thr [])).slot T0).st = .ready
    ∧ canTrap (one { thr [] with priv := true, ne := true }).me = true
    ∧ canTrap (one { thr [] with tvec := 0 }).me = false ∧ ((one { thr [] with tvec := 0 }).ctx 0).st = .opened := by decide +kernel

theorem wit_TrapInstruction : runs (one (thr [])) g0 (srcRegs (.imm 7)) = true ∧ canTrap (one (thr [])).me = true := by decide +kernel

/-- A handler whose saved chain is legal. -/
def handler1 : State := one { thr [(1, 7)] with priv := true, tpc0 := 0x400000, tpc1 := 0x40000C, tpc2 := 0x400018 }

theorem wit_ReturnFromTrap : runs handler1 g0 [] = true ∧ handler1.me.priv = true ∧ pcOk handler1.me.tpc0 = true ∧ pcOk handler1.me.tpc1 = true
    ∧ pcOk handler1.me.tpc2 = true ∧ handler1.me.tann.getLsbD 4 = false ∧ handler1.handlerBusy T0 = false := by decide +kernel

theorem wit_TrapRoundTrip :
    let s := one (thr [])
    canTrap s.me = true ∧ (s.slot T0).st = .ready ∧ s.me.priv = false ∧ s.me.guard g0 = true ∧ s.handlerBusy T0 = false
    ∧ pcOk s.me.pc = true ∧ pcOk s.me.npc = true ∧ pcOk s.me.nnpc = true := by decide +kernel

theorem wit_PrivilegedAndUnknown : (one (thr [])).me.priv = false ∧ (0x048 : BitVec 12).toNat = 0x048 := by decide +kernel

theorem wit_SystemReads :
    let s : State := { one (thr [(2, 64)]) with now := 35100 }
    runs s g0 (1 :: srcRegs (.imm 63)) = true ∧ s.me.lastIssue = some 0 ∧ (s.me.src (.imm 63)).toNat ≤ 63 ∧ 63 < (s.me.src (.reg 2)).toNat
    ∧ s.me.group = none ∧ handler1.me.priv = true ∧ runs handler1 g0 (1 :: srcRegs (.imm 0)) = true := by decide +kernel

/-- A handler of a thread of a group. -/
def handler2 : State := inGroup { thr [(1, ones)] with priv := true } grp1

theorem wit_SystemReads_member : runs handler2 g0 (1 :: srcRegs (.imm 0)) = true ∧ handler2.me.lastIssue = some 0 ∧ handler2.me.group = some 5
    ∧ handler2.groups.get? 5 = some grp1 ∧ handler2.myCore.holder ≠ some 5
    ∧ (({ handler2 with cores := [(0, { core1 with holder := some 5 })] } : State).core 0).holder = some 5 := by decide +kernel

theorem wit_SystemWrites : runs handler2 g0 [1] = true ∧ handler2.me.priv = true ∧ handler2.me.group = some 5
    ∧ (handler2.groups.get? 5).isSome = true := by decide +kernel

theorem wit_FenceAndPost :
    let s := one (thr [])
    let p := one { thr [] with pend := [(0x1B, 9)] }
    runs s g0 [] = true ∧ s.quiet T0 = true ∧ runs s g0 (1 :: 2 :: srcRegs (.imm 9)) = true ∧ s.me.xr 2 = 0 ∧ s.locate (s.handle T0) = .slot T0
    ∧ s.me.pend.get? (causeCode .post) = none ∧ causeCode .post = 0x1B ∧ p.locate (p.handle T0) = .slot T0
    ∧ p.me.pend.get? (causeCode .post) = some 9 := by decide +kernel

/-! #### Threads -/

theorem wit_SpawnCreatesThread :
    let s := inGroup (thr [(5, 0x400030)]) grp1
    runs s g0 (6 :: 5 :: srcRegs (.imm 127) ++ [1, 2, 3, 4]) = true ∧ pcOk (s.me.xr 5) = true ∧ (s.me.src (.imm 127)).toNat ≤ 127
    ∧ s.slotBlock s.me.ctx 0 = none ∧ s.pickSlot 0 = some 1 ∧ s.me.group = some 5 ∧ s.members 5 < 64 := by decide +kernel

/-- The thread beside slot 2, which is FREE with a departure record. -/
def departed (gen : Nat) : State :=
  { one (thr [(2, BitVec.ofNat 64 (handleOf 0 0 2 3))]) with slots := [(0, slotOf1 (thr [(2, BitVec.ofNat 64 (handleOf 0 0 2 3))])),
      (2, { Slot.reset with gen := gen, dep := some (gen, .exited, 0) })] }

theorem wit_ExitAndJoin :
    let s := departed 3
    let h := (s.me.xr 2).toNat
    let c : Tid := { core := h / 2 ^ 16 % 256, slot := h / 2 ^ 8 % 256 }
    runs s g0 [] = true ∧ s.unacked T0 = 0 ∧ s.me.group = none ∧ runs s g0 [1, 2] = true ∧ h < 2 ^ 34 ∧ h / 2 ^ 24 = s.chip ∧ h % 256 ≠ 0
    ∧ h ≠ s.handle T0 ∧ (s.slot c).st = .free ∧ (s.slot c).dep = some (h % 256, .exited, 0)
    ∧ ((departed 4).slot c).dep = some (4, .exited, 0) ∧ ((departed 4).slot c).st = .free ∧ 4 ≠ h % 256 := by decide +kernel

theorem wit_ThreadControls :
    let s := one (thr [(3, 127), (4, 256), (5, 5)])
    let r : State := { s with cores := [(0, { Core.reset with resv := [(2, (0, 0))] })] }
    runs s g0 (1 :: 2 :: srcRegs (.reg 3)) = true ∧ s.me.lastIssue = some 0 ∧ (s.me.src (.reg 3)).toNat ≤ 127 ∧ s.me.xr 2 = 0
    ∧ (s.me.src (.imm 0)).toNat = 0 ∧ 0 < (s.me.src (.reg 4)).toNat ∧ 5 < (s.me.src (.reg 4)).toNat ∧ s.myCore.posOf 0 = none ∧ s.me.pend = []
    ∧ (s.me.src (.imm 3)).toNat ≤ 3 ∧ s.myCore.resv.get? 3 = none ∧ r.myCore.posOf 0 = some 2 ∧ (s.me.src (.reg 5)).toNat = 5
    ∧ runs r g0 (1 :: 2 :: srcRegs (.reg 5)) = true ∧ r.me.lastIssue = some 0 := by decide +kernel

theorem wit_ThreadControls_counters :
    let s := one { thr [(3, 65535), (4, 1)] with e := Vector.replicate 4 1 }
    runs s g0 (1 :: 2 :: srcRegs (.reg 3)) = true ∧ runs s g0 (1 :: 2 :: srcRegs (.reg 4)) = true ∧ s.semwTiles 3 = []
    ∧ (s.me.src (.reg 4)).toNat ≤ s.me.e[3].toNat ∧ s.me.e[3].toNat < (s.me.src (.reg 3)).toNat ∧ (s.me.src (.reg 3)).toNat ≤ 65535
    ∧ 65535 < s.me.e[3].toNat + (s.me.src (.reg 3)).toNat ∧ s.me.xr 2 = 0 ∧ s.me.group = none ∧ (s.me.xr 4).toNat ≠ T0.core
    ∧ (s.me.xr 2).toNat = T0.core ∧ s.mayMove T0 = true := by decide +kernel

/-- A channel entry of context 0. -/
def chan1 : Chan := { ctx := 0, entry := 0x400000, group := 0, prio := 0, loose := true, blocked := false }

theorem wit_Channels :
    let s : State := { one (thr [(3, 255)]) with cores := [(0, { Core.reset with chans := [(255, chan1)] })] }
    runs s g0 (1 :: 2 :: 4 :: srcRegs (.reg 3) ++ [1, 2, 3, 4]) = true ∧ (s.me.src (.reg 3)).toNat = 0 * 256 + 255
    ∧ (s.core 0).chans.get? 255 = some chan1 ∧ s.cur.core = 0 ∧ chan1.ctx = s.me.ctx ∧ localRange s (s.me.xr 4) 8 8 = true ∧ s.portFull T0 = false
    ∧ runs s g0 (1 :: 2 :: 4 :: srcRegs (.imm 0xFFFF) ++ [1, 2, 3, 4]) = true ∧ (s.me.src (.imm 0xFFFF)).toNat = 255 * 256 + 255
    ∧ s.cur.core ≠ 255 := by decide +kernel

/-- A thread with a channel record at address 0. -/
def chanState : State := { one (thr [(3, 255)]) with mem := Memory.puts [] (localPa 0 0) (bytesOf 8 0x400000 ++ zeros 5 ++ [1] ++ zeros 18) }

theorem wit_Channels_install :
    let s := chanState
    runs s g0 (1 :: 2 :: 4 :: srcRegs (.reg 3) ++ [1, 2, 3, 4]) = true ∧ (s.core 0).chans.get? 255 = none ∧ s.me.fetched = none
    ∧ ownSpad s (s.me.xr 2) 32 32 = true ∧ s.eccHit (localPa 0 0) 32 = false ∧ s.chanOf 0 s.me.ctx (s.bytes (localPa 0 0) 32) = some chan1
    ∧ ((s.core 0).chans.filter fun e => e.2.ctx = s.me.ctx).length < (s.ctx s.me.ctx).quota.chans := by decide +kernel

/-! #### Names, messages, kernels -/

theorem wit_NamesAndPuts :
    let s := inGroup (thr []) grp1
    runs s g0 (1 :: 2 :: srcRegs (.imm 0)) = true ∧ s.me.group = some 5 ∧ s.groups.get? 5 = some grp1 ∧ s.myLaunch? = some launch1
    ∧ Tab.wf grp1.arm = true ∧ runs (one (thr [])) g0 [1] = true ∧ (one (thr [])).me.group = none
    ∧ (s.me.src (.imm 0)).toNat < launch1.rcd.groupCount ∧ launch1.names[(s.me.src (.imm 0)).toNat]? = some 5 ∧ 63 < grp1.vregs
    ∧ grp1.arm.getD 63 0 = 0 ∧ s.portFull T0 = false ∧ (s.vbank 0 grp1.bank).st = .on ∧ s.eccVreg [63] = false
    ∧ (inGroup (thr []) { grp1 with vregs := 63 }).groups.get? 5 = some { grp1 with vregs := 63 } := by decide +kernel

/-- A mailbox of context 0 with messages of 32 bytes at 0x1FFC00. -/
def box1 (l : List Msg) : Mailbox := { ctx := 0, tag := 7, size := 32, depth := 8, base := 0x1FFC00, msgs := l, resv := [], waits := [], recvs := [] }
/-- A core with that mailbox as number 63. -/
def withBox (l : List Msg) : State :=
  { one (thr [(2, 0x1FFEE0), (3, 63), (4, 0x7F)]) with cores := [(0, { core1 with boxes := [(63, box1 l)] })] }

theorem wit_SendAndReceive :
    let s := withBox []
    let m : Msg := { prio := 2, sender := 1, data := zeros 32 }
    let q := withBox [{ m with prio := 1 }, m, m]
    MemoryCanonical s ∧ runs s g0 (1 :: 2 :: 4 :: srcRegs (.reg 3)) = true ∧ (s.me.xr 4).toNat / 2 ^ 6 ≠ s.chip * 2 ^ 8 + 0 ∧ (s.me.xr 4).toNat < 2 ^ 24
    ∧ s.inPod ((s.me.xr 4).toNat / 2 ^ 14) = true ∧ ownSpad s (s.me.xr 2) 32 32 = true ∧ s.portFull T0 = false
    ∧ runs s g0 (1 :: 2 :: 3 :: srcRegs (.reg 3)) = true ∧ (s.me.xr 3).toNat = s.chip * 2 ^ 14 + 0 * 2 ^ 6 + (s.me.xr 3).toNat % 2 ^ 6
    ∧ s.inPod ((s.me.xr 3).toNat / 2 ^ 14) = true ∧ s.box? 0 ((s.me.xr 3).toNat % 2 ^ 6) = some (box1 []) ∧ (box1 []).tag = s.myTag ∧ (box1 []).size = 32
    ∧ 0 + (box1 []).resv.length < (box1 []).depth ∧ (box1 []).recvs = [] ∧ s.tagKilling s.myTag = false ∧ s.items = [] ∧ s.me.pend = []
    ∧ s.eccHit (localPa 0 0x1FFEE0) 32 = false
    ∧ (s.me.src (.reg 3)).toNat = 63 ∧ s.box? 0 63 = some (box1 []) ∧ (box1 []).ctx = s.me.ctx ∧ (box1 []).msgs = []
    ∧ s.msgDue 0 63 = false ∧ q.msgDue 0 63 = false
    ∧ q.box? 0 63 = some (box1 ([{ m with prio := 1 }] ++ m :: [m])) ∧ (∀ x ∈ [{ m with prio := 1 }], x.prio < m.prio) ∧ (∀ x ∈ [m], x.prio ≤ m.prio)
    ∧ runs q g0 (1 :: 2 :: 4 :: srcRegs (.reg 3)) = true ∧ ownSpad q (q.me.xr 2) 32 32 = true ∧ (box1 []).waits = [] := by
  unfold MemoryCanonical; decide +kernel

theorem wit_MailboxesAndTasks :
    let s := one (thr [(2, 0x1FFEC0), (3, 1)])
    let q := withBox []
    MemoryCanonical s ∧ runs s g0 (1 :: 2 :: srcRegs (.reg 3)) = true ∧ (s.me.xr 2).toNat % 64 = 0 ∧ (s.me.xr 2).toNat + 64 ≤ shapeBase
    ∧ s.ringHit 0 (s.me.xr 2).toNat 64 = none ∧ s.myCore.boxes.lowestFree 64 = some 0
    ∧ (s.myCore.boxes.filter fun e => e.2.ctx = s.me.ctx).length < (s.ctx s.me.ctx).quota.boxes
    ∧ runs q g0 (1 :: 2 :: srcRegs (.reg 3)) = true ∧ q.box? 0 (q.me.src (.reg 3)).toNat = some (box1 []) ∧ (box1 []).recvs = [] := by
  unfold MemoryCanonical; decide +kernel

/-- A readable page of HBM at 0x400000. -/
def page1 : TlbE := { ctx := 0, va := 0x400000, size := 4096, pte := word (2 ^ 63 + 0x400000 + 0xF0) }
/-- A thread whose core translates that page. -/
def paged (t : Thread) : State := { one t with cores := [(0, { core1 with tlb := [page1] })] }

theorem wit_MailboxesAndTasks_enq :
    let s := paged (thr [(2, 0x400FC0)])
    runs s g0 [1, 2] = true ∧ (s.me.xr 2).toNat % 64 = 0 ∧ spadSize ≤ (s.me.xr 2).toNat ∧ (s.me.xr 2).toNat < 2 ^ 48 ∧ s.myCore.tlb = [page1]
    ∧ page1.covers s.me.ctx 0x400FC0 = true ∧ permCheck s s.me.ctx page1.pte.toNat (page1.pa 0x400FC0) .read = none
    ∧ s.bridleHit 0 (pteChip page1.pte.toNat) (page1.pa 0x400FC0) 256 true = false ∧ s.quiet T0 = true ∧ s.enqCore 0x400FC0 s.me.ctx = some 0x4F := by decide +kernel

/-- A launch record of one thread at 0x400000. -/
def rec1 : List Byte := bytesOf 8 0x400000 ++ zeros 56
/-- A member of a group with that record at the last 64 bytes before the shape record. -/
def launcher : State :=
  { inGroup (thr [(2, 0x1FFEC0)]) grp1 with mem := Memory.puts [] (localPa 0 0x1FFEC0) rec1 }

theorem wit_KernelInstructions :
    let s := launcher
    let r := recOf (s.bytes (localPa 0 (s.me.xr 2).toNat) 64)
    runs s g0 [1, 2] = true ∧ s.me.group = some 5 ∧ s.groups.get? 5 = some grp1 ∧ s.me.launch = some 0 ∧ s.launches.get? 0 = some launch1
    ∧ s.me.spawned = false ∧ s.quiet T0 = true ∧ s.me.owed = [] ∧ launch1.aborted = false ∧ launch1.st = .running ∧ s.me.fetched = none
    ∧ ownSpad s (s.me.xr 2) 64 64 = true ∧ s.eccHit (localPa 0 (s.me.xr 2).toNat) 64 = false ∧ (s.ctx s.me.ctx).st = .opened
    ∧ s.inFlight s.me.ctx < (s.ctx s.me.ctx).quota.launches ∧ r.formOk (s.ctx s.me.ctx).quota.blocks = true ∧ r.deps = 0 ∧ r.shape = 0
    ∧ r.conditional = false := by decide +kernel

/-- A barrier expecting two, with one arrival. -/
def bar1 : BarObj := { st := 1, scp := 3, ph := false, pend := 0, arr := 1, exp := 2, tag := 7, gname := 0, zeros := true }
/-- A thread whose x2 is the address of a barrier. -/
def atBar (b : BarObj) : State :=
  { one (thr [(2, 0x1FFEF0), (3, 4093), (4, 4095), (5, 1)]) with mem := Memory.puts [] (localPa 0 0x1FFEF0) b.bytes }

theorem wit_BarrierInstructions :
    let s := one (thr [(2, 0x1FFEF0), (4, 4095)])
    let pa := localPa 0 0x1FFEF0
    MemoryCanonical s ∧ runs s g0 (1 :: 2 :: srcRegs (.reg 4)) = true ∧ ownSpad s (s.me.xr 2) 16 16 = true ∧ s.myTag < 2 ^ 16 ∧ s.myCore.bwt = []
    ∧ s.me.bwaitDone = none ∧ s.regionsOf s.me.group s.me.ctx 0 s.chip pa = [] ∧ 1 ≤ (s.me.src (.reg 4)).toNat
    ∧ (s.me.src (.reg 4)).toNat ≤ 4095 ∧ (s.barAt pa).live = false ∧ s.eccHit pa 16 = false := by unfold MemoryCanonical; decide +kernel

theorem wit_BarrierInstructions_live :
    let s := atBar bar1
    let q := atBar { bar1 with arr := 0 }
    let pa := localPa 0 0x1FFEF0
    MemoryCanonical s ∧ runs s g0 (1 :: 2 :: srcRegs (.reg 3)) = true ∧ ownSpad s (s.me.xr 2) 16 16 = true ∧ s.stores = []
    ∧ s.barAt pa = bar1 ∧ s.eccHit pa 16 = false ∧ s.me.pend = [] ∧ bar1.live = true ∧ bar1.tag = s.myTag ∧ bar1.arr + 1 = bar1.exp ∧ bar1.pend = 0
    ∧ (bar1.exp : Int) + (s.me.src (.reg 3)).toInt = (4095 : Nat) ∧ bar1.arr < 4095
    ∧ bar1.ph = (s.me.src (.imm 2)).getLsbD 0 ∧ bar1.ph ≠ (s.me.src (.reg 5)).getLsbD 0 ∧ s.myCore.bwt.length < 256
    ∧ (q.barAt pa).arr + 1 < (q.barAt pa).exp ∧ inShapeHole pa = false := by unfold MemoryCanonical; decide +kernel

theorem wit_BarrierInstructions_bind :
    let bd : Binding := { scp := .dev, bar := 0, len := 64, base := 0 }
    let s := inGroup (thr [(1, BitVec.ofNat 64 (2 ^ 48 - 2 ^ 40)), (2, 0x1FFEF0), (3, BitVec.ofNat 64 (2 ^ 40))]) grp1
    let q := inGroup (thr [(3, 15)]) { grp1 with binds := [(15, bd)] }
    runs s g0 (1 :: 2 :: srcRegs (.reg 3)) = true ∧ s.me.group = some 5 ∧ s.groups.get? 5 = some grp1 ∧ ownSpad s (s.me.xr 2) 16 16 = true
    ∧ (s.me.xr 1).toNat % 64 = 0 ∧ (s.me.src (.reg 3)).toNat ≤ 2 ^ 40 ∧ (s.me.xr 1).toNat + (s.me.src (.reg 3)).toNat ≤ 2 ^ 48
    ∧ (s.me.src (.reg 3)).toNat % 64 = 0 ∧ 0 < (s.me.src (.reg 3)).toNat ∧ grp1.binds.lowestFree 16 = some 0
    ∧ s.eccHit (localPa 0 0x1FFEF0) 16 = false ∧ (s.barAt (localPa 0 0x1FFEF0)).live = false ∧ s.saveRoom grp1.ctx 512 = true
    ∧ (let l : State := { s with mem := Memory.puts [] (localPa 0 0x1FFEF0) bar1.bytes }
       (l.barAt (localPa 0 0x1FFEF0)).live = true ∧ l.partyOk l.myParty (l.barAt (localPa 0 0x1FFEF0)) (localPa 0 0x1FFEF0) = true)
    ∧ runs q g0 (1 :: 2 :: srcRegs (.reg 3)) = true
    ∧ (q.me.src (.reg 3)).toNat ≤ 15 ∧ (q.groups.get? 5).map (fun g => g.binds.get? 15) = some (some bd) := by decide +kernel

theorem wit_PageInstructions :
    let s := paged { thr [(2, 0x400FFF), (3, 0x1FFFFF)] with priv := true }
    let r : TlbE := { page1 with pte := word (2 ^ 63 + 0x400000 + 2 ^ 7) }
    runs s g0 [1, 2] = true ∧ runs s g0 [1, 3] = true ∧ s.me.priv = true ∧ spadSize ≤ (s.me.xr 2).toNat ∧ (s.me.xr 2).toNat < 2 ^ 48
    ∧ (s.me.xr 3).toNat < spadSize ∧ s.myCore.tlb = [page1] ∧ page1.covers s.me.ctx 0x400FFF = true
    ∧ permCheck s s.me.ctx page1.pte.toNat (page1.pa 0x400FFF) .atomic = none
    ∧ permCheck s s.me.ctx r.pte.toNat (r.pa 0x400FFF) .write = some .prot := by decide +kernel

/-! #### Vector instructions -/

/-- A member of a group whose x2 is the address of the last 128 bytes before the shape record. -/
def vec1 : State := inGroup (thr [(2, 0x1FFE80)]) grp1

theorem wit_Vector : vecRuns vec1 g0 64 [63, 0, 1, 2] [1, 2] = true ∧ vecRuns vec1 g0 32 [63, 63, 63, 63] [] = true
    ∧ vecRuns (inGroup { thr [] with p := Vector.replicate 8 (BitVec.ofNat 64 (2 ^ 63)) } grp1) { neg := false, p := 7 } 64 [0, 0, 0, 0] [] = true := by
  decide +kernel

theorem wit_VectorArithmetic : vecRuns vec1 g0 Ty.f32.lanes [63, 0, 1, 2] [] = true ∧ vecRuns vec1 g0 Ty.bf16.lanes [63, 0, 1, 2] [] = true := by
  decide +kernel

theorem wit_VectorArithmetic_numbers : fmtF16 ∈ [fmtF32, fmtBf16, fmtF16] ∧ (1 : Nat) ≠ 0
    ∧ ratOf false 1 0 + ratOf false 1 (-24) ≠ 0 ∧ ratOf false 1 0 + ratOf true 2 (-1) = 0
    ∧ ratOf true 1 0 * ratOf false 3 (-1) ≠ 0 ∧ ratOf true 1 0 * ratOf false 0 0 = 0
    ∧ ratOf true 1 0 * ratOf false 3 (-1) + ratOf false 1 0 ≠ 0 ∧ ratOf true 1 0 * ratOf false 3 (-1) + ratOf false 6 (-2) = 0 := by
  refine ⟨by decide, by decide, ?_⟩
  norm_num [ratOf]

theorem wit_VectorIntegers : Ty.i32.isInt = true ∧ Ty.u16.isInt = true ∧ Ty.u16.isSigned = false ∧ vecRuns vec1 g0 Ty.i32.lanes [63, 0, 1] [2] = true
    ∧ vecRuns vec1 g0 Ty.u16.lanes [63, 0, 1] [2] = true ∧ Ty.f16.isFloat = true ∧ vecRuns vec1 g0 Ty.f16.lanes [63, 0, 1] [] = true := by decide +kernel

/-- Values of each kind for the clauses on elements: 0x7E00 and 0x7C01 are NaNs of F16, 0x7C00 is infinite, 0x8000 and 0 are the zeros. -/
theorem wit_Elements : fmtF16 ∈ [fmtF32, fmtBf16, fmtF16] ∧ fmtF16.decode 0x7E00 = .nan false ∧ fmtF16.decode 0x7C01 = .nan true
    ∧ (fmtF16.decode 0).isNan = false ∧ fmtF16.decode 0x7C00 = .inf false ∧ (∃ d, fmtF16.decode 0x8000 = .fin true 0 d)
    ∧ (∃ e, fmtF16.decode 0 = .fin false 0 e) ∧ (∃ e, fmtF16.decode 0x3C00 = .fin false 1024 e ∧ ratOf false 0 0 < ratOf false 1024 e)
    ∧ ratOf true 0 0 = ratOf false 0 0 ∧ Ty.f16.isFloat = true ∧ Ty.i32.isInt = true ∧ Ty.f4.isNarrow = true := by
  refine ⟨by decide, by decide +kernel, by decide +kernel, by decide +kernel, by decide +kernel, ⟨_, rfl⟩, ⟨_, rfl⟩, ⟨_, rfl, ?_⟩, ?_, by decide, by decide, by decide⟩
  · norm_num [ratOf]
    positivity
  · simp [ratOf]

theorem wit_VectorMoves : Ty.f32.isLane = true ∧ vecRuns vec1 g0 Ty.f32.lanes [63, 0, 1, 2] [1, 2] = true
    ∧ vec1.me.laneOn g0 31 = true ∧ 31 < Ty.f32.lanes ∧ (∀ i, i < 32 → i + 31 < 2 * 32) := by decide +kernel

theorem wit_VectorConvertAndReduce : Ty.f8e4.bits ≤ Ty.f32.bits ∧ vcvtOk .f8e4 .f32 true .rup 3 = true
    ∧ vecRuns vec1 g0 (1024 / Ty.f32.bits) [63, 0] [] = true ∧ Ty.f4.bits < Ty.f32.bits ∧ vcvtOk .f32 .f4 false .rne 7 = true
    ∧ Ty.u16.isInt = true ∧ vecRuns vec1 g0 Ty.u16.lanes [63, 63] [] = true ∧ Ty.f32.isFloat = true ∧ vecRuns vec1 g0 Ty.f32.lanes [63, 63] [] = true
    ∧ (∀ i, i < Ty.f32.lanes → vec1.me.laneOn g0 i = true) := by decide +kernel

theorem wit_VectorMemory :
    let h := inGroup (thr []) { grp1 with arm := [(63, 1)] }
    MemoryCanonical vec1 ∧ vecRuns vec1 g0 Ty.f32.lanes [63, 0] [2] = true ∧ vec1.unacked T0 < 32 ∧ ownSpad vec1 (vec1.me.xr 2) 128 128 = true
    ∧ vec1.eccHit (localPa 0 0x1FFE80) 128 = false ∧ ownSpad vec1 (vec1.me.xr 2) 4 4 = true
    ∧ VReg.lane (vec1.vr 0) 32 31 = 0 ∧ (one (thr [])).window ≤ 0
    ∧ (vec1.slot T0).st = .ready ∧ vec1.me.anyLane { neg := true, p := 0 } 32 = false ∧ 63 < h.window ∧ h.me.anyLane g0 32 = true
    ∧ h.heldIdx [63, 0, 63] = some 63 ∧ h.me.pend = [] := by unfold MemoryCanonical; decide +kernel

/-! #### Engines -/

/-- A tile of 16 blocks with a descriptor that reads rows at 0. -/
def tile1 : Tile := { Tile.reset with st := .opened, blocks := List.range 16, desc := some { idx := List.replicate 128 0, base := 0, stride := 0 } }
/-- A member of a group with that tile as t3, on a wide core. -/
def tiled (t : Thread) (x : Tile) (mfmt : Word) : State :=
  let w : Tid := { core := 4, slot := 0 }
  { State.reset.setSlot w (slotOf1 (member t)) with
    cur := w, ctxs := [(0, ctx1)], cores := [(4, core1)], launches := [(0, launch1)],
    groups := [(5, { grp1 with core := 4, mfmt := mfmt, tiles := [(3, x)] })] }

theorem wit_TileInstructions :
    let c := tiled (thr []) Tile.reset 0
    let s := tiled (thr [(2, 480), (3, 127), (4, 511), (5, 96), (6, 0x1FFFC0)]) tile1 0
    runs c g0 [1, 2] = true ∧ c.me.priv = false ∧ c.me.group = some 5 ∧ (c.tile 5 3).st = .closed ∧ 15 + 1 ≤ (c.freeBlocks 4).length
    ∧ c.blocksOf c.me.ctx 4 + 16 ≤ (c.ctx c.me.ctx).quota.blocks ∧ runs s g0 [2, 3] = true ∧ tileOpen s 5 3 = true ∧ s.tileLocked 5 3 = false
    ∧ 0 + 15 + 1 ≤ (s.tile 5 3).blocks.length ∧ windowReady s [63] = true ∧ windowReady s [62, 63] = true ∧ (s.groups.get? 5).isSome = true
    ∧ (laneEntries (s.tile 5 3) (s.me.xr 2).toNat (s.me.xr 3).toNat true).isSome = true
    ∧ (laneEntries (s.tile 5 3) (s.me.xr 4).toNat (s.me.xr 5).toNat false).isSome = true
    ∧ s.accHit 4 (s.tile 5 3) ((List.range 32).map fun k => (127, 480 + k)) = false ∧ (s.me.xr 6).toNat % 64 = 0 ∧ (s.me.xr 6).toNat < spadSize := by
  decide +kernel

/-- A pass on the columns of block 15 that the thread of slot 0 of core 4 issued. -/
def pass0 (fmt : Word) : Pass :=
  { fmt := fmt, ascl := 0, bscl := 0, desc := { idx := List.replicate 128 0, base := 0, stride := 0 }, xb := 0, xc := 0x200, segs := [], cb := 15, nbm := 0,
    k := .k32, dn := .async 3, tid := { core := 4, slot := 0 }, gen := 1, pc := 0, sa := [], sb := 0 }

theorem wit_TileInstructions_mres :
    let p := pass0 0x11
    let s := tiled (thr []) { tile1 with part := true, dlv := true, prog := 4, pass := some p, stop := some (.denied, 0) } 0
    runs s g0 [1, 2] = true ∧ s.me.priv = false ∧ s.me.group = some 5 ∧ (s.groups.get? 5).isSome = true ∧ (s.tile 5 3).part = true
    ∧ (s.tile 5 3).pass = some p ∧ p.tid = s.cur ∧ p.gen = (s.slot s.cur).gen ∧ isNarrowCore s.cur.core = false ∧ mmaFormats p.fmt = true
    ∧ p.cb + p.nbm + 1 ≤ (s.tile 5 3).width ∧ s.tileCmds 5 3 = [] ∧ isFp8 (mfA p.fmt) = false ∧ s.portRoom s.cur false 2 = true
    ∧ operandsOk s p.desc p.xb p.xc 32 64 p.aLen p.bLen none = true := by decide +kernel

theorem wit_TileCommands :
    let s := tiled (thr [(2, 0), (3, 0x200)]) tile1 0x11
    tileOpen s 5 3 = true ∧ s.portRoom s.cur false 1 = true ∧ runs s g0 [2, 3] = true ∧ 0 + 15 + 1 ≤ (s.tile 5 3).blocks.length
    ∧ (s.me.xr 3).toNat % 64 = 0 ∧ ownRange s 0 (511 * 0x200 + 128 * TFmt.size .f32) = true ∧ s.tileLocked 5 3 = false
    ∧ ownRange s 0 (s.tile 5 3).imageLen = true ∧ isNarrowCore 4 = false ∧ mmaFormats (s.group 5).mfmt = true
    ∧ s.portRoom s.cur false 2 = true := by decide +kernel

theorem wit_TileCommands_mma :
    let s := tiled (thr [(2, 0), (3, 0x200)]) tile1 0x11
    operandsOk s { idx := List.replicate 128 0, base := 0, stride := 0 } (s.me.xr 2) (s.me.xr 3) 128 64 (kLen .k128 * fmtBytes (mfA (s.group 5).mfmt))
      (kLen .k128 * fmtBytes (mfB (s.group 5).mfmt)) none = true := by decide +kernel

/-- A closed tile, and the image of a tile of 16 blocks at address 0. -/
def imaged : State := { tiled (thr []) Tile.reset 0 with mem := Memory.puts [] (localPa 4 0) (16 :: zeros 2047) }

theorem wit_TileCommands_trest :
    let s := imaged
    let h := s.bytes (localPa 4 0) 2048
    runs s g0 [2, 3] = true ∧ s.me.priv = false ∧ s.me.group = some 5 ∧ (s.groups.get? 5).isSome = true ∧ (s.tile 5 3).st ≠ .opened
    ∧ s.tileLocked 5 3 = false ∧ s.portRoom s.cur false 1 = true ∧ s.me.fetched = none ∧ imageOk h = true ∧ getLe h 0 1 = 16
    ∧ ownRange s 0 (2048 + 16384 * 16) = true ∧ ownRange s 0 2048 = true ∧ s.imagePending s.cur 0 2048 (locksOf false [s.localSeg 4 0 2048]) = false
    ∧ s.eccHit (localPa 4 0) 2048 = false ∧ 16 ≤ (s.freeBlocks 4).length ∧ s.blocksOf s.me.ctx 4 + 16 ≤ (s.ctx s.me.ctx).quota.blocks
    ∧ s.tileSaving 5 3 = false := by
  decide +kernel

/-- A member of a group with the tile as t3, on a counting core. -/
def counting (meter : Nat) (key : Option (List (BitVec 32))) : State :=
  { inGroup (thr [(2, 0), (3, 0x200)]) { grp1 with mfmt := 0xAA, ascl := 0x1000, bscl := 0x2000, tiles := [(3, tile1)] } with
    cores := [(0, { core1 with holder := some 5, bank0 := { meter := meter, key := key, count := [] }, bank1 := { meter := 128, key := key, count := [] } })] }

theorem wit_CountingInstructions :
    let k := List.replicate 129 (0 : BitVec 32)
    let s := counting 127 (some k)
    runs s g0 [2, 3] = true ∧ s.me.priv = false ∧ s.me.group = some 5 ∧ (s.groups.get? 5).isSome = true ∧ isNarrowCore 0 = true
    ∧ s.myCore.holder = some 5 ∧ tileOpen s 5 3 = true ∧ (s.tile 5 3).desc = some { idx := List.replicate 128 0, base := 0, stride := 0 }
    ∧ mfA (s.group 5).mfmt = 10 ∧ mfB (s.group 5).mfmt = 10 ∧ s.portRoom T0 false 2 = true ∧ s.portRoom T0 false 0 = true
    ∧ s.bridleHit 0 s.chip (localPa 0 0x1000) 512 true = false ∧ s.bridleHit 0 s.chip (localPa 0 0x2000) 4 true = false
    ∧ s.eccHit (localPa 0 0x1000) 512 = false ∧ s.eccHit (localPa 0 0x2000) 4 = false ∧ s.myCore.bank0.meter + kLen .k128 ≤ 255
    ∧ s.myCore.bank0.key = some k ∧ s.myCore.bank0.meter + s.myCore.bank1.meter ≤ 255 ∧ s.myCore.bank0.key = s.myCore.bank1.key
    ∧ s.myCore.bank1.empty = false ∧ (one (thr [])).myCore.bank1.empty = true ∧ 8 + 7 + 1 ≤ (s.tile 5 3).blocks.length := by decide +kernel

theorem wit_CountingInstructions_operands :
    let s := counting 127 none
    operandsOk s { idx := List.replicate 128 0, base := 0, stride := 0 } (s.me.xr 2) (s.me.xr 3) 256 16 (kLen .k128 / 2) (kLen .k128 / 2)
      (some ((s.group 5).ascl, (s.group 5).bscl)) = true := by decide +kernel

/-- A thread with a copy of 64 bytes: destination, source, length and a descriptor of rows. -/
def copier : State := one (thr [(2, 0x1FFEC0), (3, 0), (4, 64), (5, BitVec.ofNat 64 (2 ^ 44 + 2 ^ 24 + 1)), (6, 0x400000)])

theorem wit_CopyCommands :
    let s := copier
    runs s g0 [2, 3, 4] = true ∧ s.portRoom T0 true 2 = true ∧ (s.me.xr 2).toNat % 64 = 0 ∧ (s.me.xr 4).toNat % 64 = 0
    ∧ (s.me.xr 4).toNat ≤ 0xFFFFC0 ∧ ownRange s 0 64 = true ∧ ownRange s 0x1FFEC0 64 = true ∧ barNaming s none 64 = some (none, s)
    ∧ (s.me.xr 5).toNat / 2 ^ 44 % 2 ^ 20 = 1 ∧ (s.me.xr 5).toNat % 2 ^ 12 = 1 ∧ s.portRoom T0 true 1 = true ∧ s.portRoom T0 true 9 = true
    ∧ ((List.range 8).map fun b => coreAtBit 0 b).all (fun c => decide (c < 256) && (s.ringHit c 0x1FFEC0 64).isNone) = true
    ∧ runs s g0 [2, 3, 1] = true ∧ (s.me.xr 1).toNat = 0 ∧ s.portRoom T0 true 0 = true := by decide +kernel

theorem wit_CopyCommands_barrier :
    let s := atBar bar1
    (barNaming s (some 0x1FFEF) 64).map (·.1) = some (some (localPa 0 0x1FFEF0, 64)) := by decide +kernel

/-- A leaf of the weight store, and a region there that loads. -/
def weight1 : TlbE := { ctx := 0, va := 0x400000, size := 2097152, pte := word (2 ^ 63 + 3 * 2 ^ 59 + wsBase + 0xC0) }

theorem wit_CopyCommands_cpyw :
    let s : State := { copier with cores := [(0, { core1 with tlb := [weight1] })],
                                   regions := [(wsBase, { ctx := 0, size := 0x4000000, va := 0x400000, serving := false, sealing := none })] }
    runs s g0 [6, 3, 4] = true ∧ s.myCore.tlb = [weight1] ∧ weight1.covers s.me.ctx 0x400000 = true ∧ spadSize ≤ (s.me.xr 6).toNat
    ∧ (s.me.xr 6).toNat + 64 ≤ weight1.va + weight1.size ∧ s.pageBusy 0 s.me.ctx 0x400000 = false
    ∧ permCheck s s.me.ctx weight1.pte.toNat (weight1.pa 0x400000) .write = none ∧ place (weight1.pa 0x400000) = .wstore 0
    ∧ pteChip weight1.pte.toNat = s.chip ∧ (s.regionAt (weight1.pa 0x400000)).map (fun e => decide (e.2.ctx = s.me.ctx) && !e.2.serving) = some true := by
  decide +kernel

/-! #### Events of memory, pages, engines and barriers -/

/-- Address 0x10 of another core's scratchpad, as a translated target. -/
def spot (core : Nat) : Target := { chip := 0, pa := localPa core 16, bwc := some 0, loc := false }
/-- A part of a load of 8 bytes there. -/
def part1 (t : Target) : Part := { va := 0x400010, tgt := t, n := 8, got := none }
/-- A thread that waits for such a load. -/
def loading (t : Target) : State := oneAs .stall { thr [] with wait := .op (.mem [part1 t] (.load .b8 1)) }

theorem wit_MemoryEvents_load :
    let s := loading (spot 255)
    let w : Target := { chip := 0, pa := wsBase + 0x3F000, bwc := some 0, loc := false }
    let q : State := { loading w with now := 63256 }
    (s.slot T0).st = .stall ∧ (s.thread T0).wait = .op (.mem [part1 (spot 255)] (.load .b8 1)) ∧ (part1 (spot 255)).n = ldBytes .b8 ∧ s.stores = []
    ∧ s.fullq = [] ∧ (part1 (spot 255)).tgt.loc = false ∧ s.eccHit (spot 255).pa 8 = false ∧ place (spot 255).pa = .spad 255 16 ∧ (s.core 255).clockRuns = true ∧ (s.core 0).clockRuns = true
    ∧ s.ringHit 255 16 8 = none
    ∧ (q.slot T0).st = .stall ∧ place w.pa = .wstore 0x3F000 ∧ wsBank 0x3F000 = 63 ∧ refreshEnd q.now 63 = none ∧ q.liveSlots = [T0]
    ∧ q.eccHit w.pa 8 = false
    ∧ (let r : State := oneAs .stall { thr [] with wait := .op (.chan .query 255 255 1 1 2) }
       (r.slot T0).st = .stall ∧ (r.thread T0).wait = .op (.chan .query 255 255 1 1 2) ∧ (r.core 255).clockRuns = true) := by decide +kernel

/-- An LDN of that place, not yet performed or answered. -/
def owed1 (got : Option (Option Word × Status)) : Owed := { x := 3, w := .b8, va := 0x400010, tgt := spot 255, got := got, via := [], ord := 0, core := 0 }

theorem wit_MemoryEvents_ldn :
    let s := one { thr [] with owed := [owed1 (some (some 9, .ok))] }
    let q := one { thr [] with owed := [owed1 none] }
    (s.slot T0).st.live = true ∧ s.locate (s.handle T0) = .slot T0 ∧ (s.thread T0).owedAt 3 = some (owed1 (some (some 9, .ok)))
    ∧ (q.slot T0).st.live = true ∧ q.locate (q.handle T0) = .slot T0 ∧ (q.thread T0).owedAt 3 = some (owed1 none)
    ∧ (q.core 255).clockRuns = true ∧ (s.core 0).clockRuns = true ∧ q.ringHit 255 16 (ldBytes .b8) = none ∧ q.eccHit (spot 255).pa (ldBytes .b8) = false ∧ q.stores = [] ∧ q.fullq = [] := by
  decide +kernel

/-- A store of a byte there. -/
def store1 (p : Phase) : Store :=
  { id := 4, inst := 4, tid := T0, gen := 1, ctx := 0, launch := none, va := 0x400010, ea := 0x400010, tgt := spot 255, kind := .plain, data := [1], n := 1,
    phase := p, cyc := 0, priv := false, told := false }

theorem wit_MemoryEvents_store :
    let s (p : Phase) : State := { one (thr []) with stores := [store1 p], nextStore := 5, cores := [(0, { Core.reset with cyc := 1024 })] }
    (s .done).stores.find? (fun y => y.id = 4) = some (store1 .done) ∧ (s .sent).stores.find? (fun y => y.id = 4) = some (store1 .sent)
    ∧ MemoryCanonical (s .sent) ∧ place (store1 .sent).tgt.pa = .spad 255 16 ∧ 16 + 1 ≤ shapeBase ∧ ((s .sent).core 255).clockRuns = true ∧ ((s .done).core 0).clockRuns = true
    ∧ (s .sent).ringHit 255 16 1 = none ∧ (s .sent).fullq = []
    ∧ (∀ y ∈ (s .buffered).stores, y.tid.core = 0 → y.tgt.pa / 64 = localPa 255 16 / 64 → y.phase = .buffered → y.cyc + 1024 ≤ ((s .buffered).core 0).cyc) := by
  unfold MemoryCanonical; decide +kernel

theorem wit_MemoryEvents_rest :
    let s : State := { inGroup (thr []) grp1 with
      cores := [(0, { core1 with cyc := 1024, vbanks := [(0, { VBank.reset with st := .on }), (15, { VBank.reset with st := .waking, wakeAt := 1024 })] })] }
    (s.vbank 0 0).st = .on ∧ (s.vbank 0 0).last + 1024 ≤ (s.core 0).cyc ∧ (s.vbank 0 15).st = .waking ∧ (s.vbank 0 15).wakeAt ≤ (s.core 0).cyc
    ∧ place (hbmSize - 1) = .hbm ∧ place (localPa 255 0) = .spad 255 0 ∧ (s.ctx 0).st = .opened ∧ (s.ctx 0).st ≠ .free ∧ s.groups.get? 5 = some grp1 ∧ 63 < grp1.vregs
    ∧ (5, 63, 15) ∉ s.eccV ∧ (255, 31, 4095) ∉ s.eccAcc ∧ place (wsBase + 0x3F000) = .wstore 0x3F000 := by decide +kernel

/-- Page tables at 0x10000 to 0x14000 that lead to the tables of 4 KiB leaves of the first 2 MiB and of the 2 MiB at 0x400000. -/
def tables : List Host.Cell :=
  let ptr := fun (tbl : Nat) => bytesOf 8 (2 ^ 63 + 15 * 2 ^ 59 + tbl)
  Memory.puts (Memory.puts (Memory.puts [] 0x10000 (ptr 0x11000)) 0x11000 (ptr 0x12000)) 0x12000 (ptr 0x14000 ++ zeros 8 ++ ptr 0x13000)
/-- The same with a leaf at 0x400000: readable and writable, frame 0x2000000. -/
def leaves1 : List Host.Cell := Memory.puts tables 0x13000 (bytesOf 8 (2 ^ 63 + 0x2000000 + 0xC0))
/-- Context 0 with these tables, and all of HBM4E in use but the frames at 0 and at 0x2000 up to 0x2800. -/
def tight : State :=
  { one (thr []) with
      mem := tables, ctxs := [(0, { ctx1 with root := 0x10000 })],
      frames := [{ pa := 0x1000, size := 0x1000, ctx := 256, use := 2 }, { pa := 0x2800, size := hbmSize - 0x2800, ctx := 256, use := 2 }] }
/-- That leaf. -/
def pte1 : Word := word (2 ^ 63 + 0x2000000 + 0xC0)

theorem wit_PageEvents_walk :
    let w : Walk := { ctx := 0, va := 0x400000, who := [T0] }
    let s : State := { tight with mem := leaves1, slots := (oneAs .stall { thr [] with wait := .retry .walk }).slots,
                                  clusters := [(0, { Cluster.reset with walks := [w] })] }
    (s.cluster 0).walks[0]? = some w ∧ (s.slot T0).st = .stall ∧ (s.thread T0).wait = .retry .walk ∧ s.walk 0 0x400000 = .leaf pte1 4096
    ∧ s.walk 0 0x401000 = .fail .page 3 := by decide +kernel

theorem wit_PageEvents_shootdowns :
    let h : Shoot := { ctx := 0, va := 0x400000, size := 4096, chip := 0, frame := 0x2000000, cores := [0, 255], why := .protect, reply := some (1, 0) }
    let s : State := { oneAs .stall { thr [] with wait := .retry (.missFull 5) } with now := 5, shoots := [h] }
    (s.slot T0).st = .stall ∧ (s.thread T0).wait = .retry (.missFull 5) ∧ 5 ≤ s.now ∧ s.mayAck 255 h = true ∧ (∃ k ∈ h.cores, k ≠ 255)
    ∧ s.mayAck 0 { h with cores := [0] } = true := by decide +kernel

theorem wit_PageEvents_rest :
    let m : Moving := { ctx := 0, va := 0x400000, size := 0x4000, old := 0x2000000, new := 0x3000000, copying := true, copied := 2, ended := false }
    let s : State := { one (thr []) with stores := [store1 (.retry 7)], moving := [m], now := 64 }
    let k : BwClass := { BwClass.reset with unl := false }
    s.stores.find? (fun y => y.id = 4) = some (store1 (.retry 7)) ∧ 7 ≤ s.now ∧ s.txs = [] ∧ s.moving = [m] ∧ m.va / 4096 = 0x400
    ∧ m.copied + 1 < m.size / 4096 ∧ s.holdq = [] ∧ MemoryCanonical s ∧ place (m.new + m.copied * 4096) = .hbm ∧ (s.refills + 1) * 64 ≤ s.now ∧ s.bwq = []
    ∧ k.pendingCfg = none ∧ k.unl = false := by unfold MemoryCanonical; decide +kernel

/-- A marker command that has counted nothing yet, in e3. -/
def cmd1 (op : CmdOp) (started did : Bool) : Cmd :=
  { id := 9, copy := true, op := op, tid := T0, gen := 1, orphan := false, ctx := 0, group := none, launch := none, tag := 0, dn := .async 3,
    priv := false, locks := [], bar := none, after := [], started := started, words := [], buf := [], did := did, own := 5, fail := none }

theorem wit_EngineAndBarrierEvents_commands :
    let fill : CmdOp := .fill 0 64 0 [] false
    let s : State := { one (thr []) with cores := [(0, { Core.reset with cmds := [cmd1 fill false false] })] }
    let q : State := { one { thr [] with e := Vector.replicate 4 65534 } with cores := [(0, { Core.reset with cmds := [cmd1 fill true true] })] }
    s.cmd? 0 9 = some (cmd1 fill false false) ∧ s.engRuns 0 = true ∧ s.mayStart 0 (cmd1 fill false false) = true ∧ fill.srcSegs = []
    ∧ q.cmd? 0 9 = some (cmd1 fill true true) ∧ q.engRuns 0 = true ∧ q.cmdOut 0 9 = false ∧ fill.tile? = none ∧ fill.banks = [] ∧ fill ≠ .marker
    ∧ q.locate (q.cmdHnd (cmd1 fill true true)) = .slot T0 ∧ (q.thread T0).priv = false ∧ (q.thread T0).wait = .none
    ∧ (q.thread T0).e[3].toNat < 65535 := by decide +kernel

/-- A pass of 32 columns whose operand B stands on another chip. -/
def pass1 : Pass :=
  { fmt := 0x11, ascl := 0, bscl := 0, desc := { idx := List.replicate 128 0, base := 0, stride := 0 }, xb := 0x400000, xc := 64,
    segs := [{ va := 0x400000, len := 2048, tgt := { spot 255 with chip := 1 } }], cb := 0, nbm := 0, k := .k32, dn := .async 3, tid := T0, gen := 1, pc := 0,
    sa := [], sb := 0 }

theorem wit_EngineAndBarrierEvents_stop :
    let c : Cmd := { cmd1 (.mma 3 pass1 0) true false with
      copy := false,
      buf := (cutBy 8 0 64).map (fun q => (q.1, (.ok, zeros 8))) ++ (pass1.segs.flatMap fun g => cut g.va g.len).map fun q => (q.1, (.denied, [])) }
    let s : State := { inGroup (thr []) { grp1 with tiles := [(3, tile1)] } with cores := [(0, { core1 with cmds := [c] })] }
    s.cmd? 0 9 = some c ∧ s.engRuns 0 = true ∧ s.tileFirst 0 c = true ∧ s.tileHeld c = false ∧ s.gather 0 9 = (true, s)
    ∧ c.buf.get? 0x400000 = some (.denied, []) ∧ foldable c pass1 0 = 0 ∧ s.mustStop 0 c = true ∧ (s.thread c.tid).wait = .none
    ∧ (s.groups.get? c.own).isSome = true
    ∧ (let t : Thread := { member (thr []) with wait := .op (.cmd c.tag) }
       let q : State := { s with slots := (oneAs .stall t).slots }
       q.cmd? 0 9 = some c ∧ q.engRuns 0 = true ∧ q.gather 0 9 = (true, q) ∧ q.mustStop 0 c = true ∧ (q.slot c.tid).st.live = true
       ∧ (q.slot c.tid).gen = c.gen ∧ canTrap (q.thread c.tid) = true) := by decide +kernel

theorem wit_EngineAndBarrierEvents_barriers :
    let far : Target := { chip := 0, pa := localPa 255 0x1FFEF0, bwc := some 0, loc := false }
    let s := oneAs .stall { thr [] with wait := .op (.bar .arr far 0x400000 (some 1) none none []) }
    let w (d : Option (Option Cause)) : State :=
      { oneAs .wait { thr [] with wait := .block (.bwait far true 0x400000 []), bwaitDone := d } with now := 820, mem := Memory.puts [] far.pa bar1.bytes }
    (s.slot T0).st = .stall ∧ (s.thread T0).wait = .op (.bar .arr far 0x400000 (some 1) none none []) ∧ s.barShut T0 far.pa = false ∧ (s.core (homeCore far.pa)).clockRuns = true ∧ (s.core 0).clockRuns = true
    ∧ ((w (some none)).thread T0).bwaitDone = some none ∧ ((w (some none)).slot T0).st = .wait ∧ ((w (some (some .bpend))).thread T0).bwaitDone = some (some .bpend)
    ∧ ((w none).thread T0).bwaitDone = none ∧ ((w none).slot T0).st = .wait ∧ ((w none).thread T0).askAt ≤ (w none).now ∧ ((w none).core (homeCore far.pa)).clockRuns = true ∧ (w none).barShut T0 far.pa = false ∧ ((w none).core (homeCore far.pa)).bwt = []
    ∧ (match ((w none).at_ T0).barOp (.wait true) far.pa ((w none).at_ T0).myParty ((w none).handle T0) none with | .ok _ _ => true | _ => false) = true
    ∧ ({ s with cores := [(255, { Core.reset with boxes := [(0, { box1 [] with base := 0x1FFE00 })] })] } : State).barShut T0 far.pa = true := by
  decide +kernel

theorem wit_VectorMemory_full :
    let s : State := { vec1 with stores := [{ store1 .sent with inst := 4 }], nextStore := 5 }
    MemoryCanonical s ∧ vecRuns s g0 Ty.f32.lanes [63, 0] [2] = true ∧ s.unacked T0 < 32 ∧ 32 < s.unacked T0 + 32
    ∧ ((List.range Ty.f32.lanes).filter fun i => s.me.laneOn g0 i).length = 32 ∧ (∀ x ∈ s.stores, x.inst < s.nextStore)
    ∧ ((List.range Ty.f32.lanes).all fun i => ownSpad s (s.me.xr 2 + BitVec.ofNat 64 (VReg.lane (s.vr 0) 32 i * 2 ^ 0)) 4 4) = true := by
  unfold MemoryCanonical; decide +kernel

/-- The group of `imaged` has a TSAVE of the tile in flight, to an address behind the image. -/
def saving1 : State :=
  let s := imaged
  { s with cores := [(4, { core1 with cmds := [{ cmd1 (.tsave 3 0x1F0000 [s.localSeg 4 0x1F0000 2048] none) false false with copy := false }] })] }

theorem wit_TileCommands_saving :
    let s := saving1
    runs s g0 [2, 3] = true ∧ (s.tile 5 3).st ≠ .opened ∧ s.tileSaving 5 3 = true ∧ s.portRoom s.cur false 1 = true ∧ s.me.fetched = none
    ∧ imageOk (s.bytes (localPa 4 0) 2048) = true ∧ ownRange s 0 (2048 + 16384 * 16) = true ∧ ownRange s 0 2048 = true
    ∧ s.imagePending s.cur 0 2048 (locksOf false [s.localSeg 4 0 2048]) = false ∧ s.eccHit (localPa 4 0) 2048 = false
    ∧ 16 ≤ (s.freeBlocks 4).length ∧ s.blocksOf s.me.ctx 4 + 16 ≤ (s.ctx s.me.ctx).quota.blocks := by decide +kernel

/-! #### Events of puts, messages and threads -/

/-- An item of slot 0's thread. -/
def item1 (k : ItemKind) (st : ItemSt) : Item :=
  { id := 6, kind := k, tid := some T0, gen := 1, ctx := 0, tag := 7, hnd := 1, priv := false, ev := none, st := st, pkt := none }
/-- A device with that item. -/
def sending (k : ItemKind) (st : ItemSt) (g : Group) : State := { inGroup (thr []) g with items := [item1 k st], nextItem := 7 }

theorem wit_SendAndReceive_due :
    let s : State := { withBox [] with items := [item1 (.send 63 32 2 (zeros 32)) (.flying 0)], agenda := [(0, .messageArrival 6)] }
    s.msgDue 0 63 = true ∧ runs s g0 (1 :: 2 :: 4 :: srcRegs (.reg 3)) = true ∧ (s.me.src (.reg 3)).toNat = 63 ∧ s.box? 0 63 = some (box1 [])
    ∧ (box1 []).ctx = s.me.ctx ∧ ownSpad s (s.me.xr 2) 32 32 = true ∧ waitsUntrapped s.me := by
  unfold waitsUntrapped; decide +kernel

theorem wit_MessageEvents_puts :
    let k : ItemKind := .vput 5 63 9
    let s := sending k (.flying 0) { grp1 with arm := [(63, 1)] }
    let r := sending (.vput (2 ^ 22 + 5) 63 9) (.answered .ok 0) grp1
    let f := sending k (.answered .dead 0) grp1
    s.item? 6 = some (item1 k (.flying 0)) ∧ s.putsBefore (item1 k (.flying 0)) 0 5 = [] ∧ (s.core 0).clockRuns = true ∧ realGroup 5 = true ∧ 5 % 256 ≠ 0
    ∧ (s.groups.get? 5).map (fun g => decide (g.core = 0 ∧ g.st = .running ∧ g.saving = false ∧ 63 < g.vregs ∧ g.armOf 63 = 1)) = some true
    ∧ (s.ctx 0).tag = 7 ∧ (s.ctx 0).st = .opened ∧ (s.vbank 0 0).st = .on ∧ grp1.armOf 63 = 0
    ∧ (sending k (.flying 0) { grp1 with saving := true }).groups.get? 5 = some { grp1 with saving := true }
    ∧ (sending k (.queued 0 true 2) grp1).item? 6 = some (item1 k (.queued 0 true 2)) ∧ r.item? 6 = some (item1 (.vput (2 ^ 22 + 5) 63 9) (.answered .ok 0)) ∧ f.locate 1 = .slot T0 ∧ (f.thread T0).putfail.getLsbD 63 = false
    ∧ (sending k (.later 0) grp1).itemGoal (item1 k (.later 0)) = .ok 0 := by decide +kernel

theorem wit_MessageEvents_messages :
    let k : ItemKind := .send 63 32 2 (zeros 32)
    let s (st : ItemSt) (b : Mailbox) : State := { sending k st grp1 with cores := [(0, { core1 with boxes := [(63, b)] })] }
    let m := s (.flying 0) (box1 [])
    m.item? 6 = some (item1 k (.flying 0)) ∧ (m.core 0).clockRuns = true ∧ (m.core 0).clockRuns = true ∧ 63 / 2 ^ 6 % 2 ^ 8 = 0 ∧ m.tagKilling 7 = false ∧ m.box? 0 (63 % 2 ^ 6) = some (box1 [])
    ∧ (box1 []).tag = 7 ∧ (box1 []).msgs.length < (box1 []).depth ∧ (s (.answered .ok 0) (box1 [])).item? 6 = some (item1 k (.answered .ok 0))
    ∧ (s (.answered .denied 0) (box1 [])).locate 1 = .slot T0 ∧ ((s (.answered .denied 0) (box1 [])).slot T0).st = .ready
    ∧ m.itemGoal (item1 k (.later 0)) = .ok 0
    ∧ (s (.flying 0) { box1 [] with resv := [(6, 0)] }).box? 0 63 = some { box1 [] with resv := [(6, 0)] }
    ∧ (let b : Mailbox := { box1 [] with resv := [(9, 0)], waits := [6] }
       (s (.later 0) b).box? 0 63 = some b ∧ 0 ≤ (s (.later 0) b).now ∧ b.msgs.length < b.depth) := by decide +kernel

theorem wit_MessageEvents_spawns :
    let k : ItemKind := .spnr 0 0 255 [1, 2, 3, 4] (localPa 0 0x1FFEF8)
    let s (st : ItemSt) : State := { sending k st grp1 with cores := [(0, { core1 with chans := [(255, chan1)] })] }
    let m := s (.flying 0)
    m.item? 6 = some (item1 k (.flying 0)) ∧ (m.core 0).clockRuns = true ∧ m.tagKilling 7 = false ∧ (m.core 0).chans.get? 255 = some chan1
    ∧ (m.ctx chan1.ctx).tag = 7 ∧ chan1.blocked = false ∧ chan1.loose = true ∧ m.slotBlock chan1.ctx 0 = none ∧ m.pickSlot 0 = some 1
    ∧ place (localPa 0 0x1FFEF8) = .spad 0 0x1FFEF8 ∧ ((s (.answered .ok 9)).core 0).clockRuns = true
    ∧ ((oneAs .stall { thr [] with wait := .op (.sema 1 0 1 1 1 2) }).slot T0).st = .stall
    ∧ ((oneAs .stall { thr [] with wait := .op (.post 1 0 1 1 2) }).thread T0).wait = .op (.post 1 0 1 1 2) ∧ (m.core (1 / 2 ^ 16 % 2 ^ 8)).clockRuns = true := by decide +kernel

theorem wit_MovingEvents_migration :
    let m : Move := { tid := T0, dest := 255, xd := some 1, pd := 1, pe := 2 }
    let s : State := { oneAs .stall (thr []) with moves := [m] }
    let f : State := { one (thr []) with cores := [(255, { Core.reset with fwd := [(3, .group 5 0 0)] })] }
    s.moves = [m] ∧ m.dest ≠ 0 ∧ (s.core 255).clockRuns = true ∧ (s.core 0).clockRuns = true ∧ (s.slot T0).st = .stall ∧ (s.thread T0).owed = [] ∧ s.moveQuota 0 255 = true
    ∧ s.pickSlot 255 = some 0 ∧ ({ core := 255, slot := 0 } : Tid).key ≠ T0.key ∧ (f.core 255).fwd.get? 3 = some (.group 5 0 0) ∧ 0 ≤ f.now := by decide +kernel

theorem wit_MovingEvents_outrider :
    let s : State := { one (thr []) with outrider := [(0, 255, 1)] }
    s.outrider = [(0, 255, 1)] ∧ s.moves = [] ∧ s.readyLoose 0 = [T0] ∧ s.moveQuota 0 255 = true
    ∧ ({ State.reset with outrider := [(0, 255, 64)] } : State).readyLoose 0 = [] := by decide +kernel

/-- A continuation record at 0x400 of the page at 0x400000: three legal PCs. -/
def contState1 : State :=
  { tight with
      mem := Memory.puts leaves1 0x2000400 (zeros 8 ++ bytesOf 8 0x400000 ++ bytesOf 8 0x40000C ++ bytesOf 8 0x400018),
      cores := [(0, { core1 with taskq := [(0x400400, 0)] })] }

theorem wit_MovingEvents_tasks :
    let s := contState1
    let r := ((s.acquireAt 0 .dev).modCore 0 fun k => { k with taskq := [] }).agentBytes 0 2 0x400400 256
    (s.core 0).taskq = [(0x400400, 0)] ∧ (s.core 0).clockRuns = true ∧ s.slotQuota 0 0 1 = true ∧ s.pickSlot 0 = some 1
    ∧ (match r.1 with | .data d => contOk d | _ => false) = true ∧ r.2.pickSlot 0 = some 1 := by decide +kernel

/-! #### Events of the Starter, evictions and restores -/

/-- An empty launch queue of 64 records. -/
def lq1 (l : List (List Byte)) : LaunchQ := { paused := false, depth := 64, base := 0, head := 0, tail := l.length, drops := 0, recs := l, taken := [] }

theorem wit_PlacementEvents_queues :
    let s (l : List (List Byte)) : State := { one (thr []) with ctxs := [(0, { ctx1 with queues := [(3, lq1 l)] })] }
    (0x37FC0 : Nat) < 0x400000 ∧ 0x37FC0 % 0x10000 < 0x8000 ∧ 0x37FC0 % 64 = 0 ∧ 3 = 0x37FC0 / 0x10000 % 4 ∧ (zeros 64).length = 64
    ∧ (s []).ctxAt 1 (0x37FC0 / 0x40000) = some 0 ∧ ((s []).ctx 0).queues.get? 3 = some (lq1 []) ∧ (lq1 []).tail - (lq1 []).head < (lq1 []).depth
    ∧ ((s [rec1]).shapeImage 0 (recOf rec1)).1 ≠ .wait ∧ (s [rec1]).nextCtx = some 0 ∧ ((s [rec1]).ctx 0).nextQueue = some 3 ∧ ((s [rec1]).ctx 0).queues.get? 3 = some (lq1 [rec1])
    ∧ (recOf (zeros 64)).formOk 16 = true ∧ (recOf (zeros 55 ++ [1] ++ zeros 8)).formOk 16 = false := by decide +kernel

/-- A launch of one group of one thread that waits to be placed. -/
def launch2 : Launch :=
  { launch1 with rcd := { recOf rec1 with vregs := 64 }, st := .queued, names := [], since := some 0, noCore := some 0 }

theorem wit_PlacementEvents_place :
    let s : State := { one (thr []) with launches := [(9, launch2)] }
    s.launches = [(9, launch2)] ∧ launch2.placing = true ∧ s.chooseCore 0 (s.coresFor 9 launch2) = some 0 ∧ (s.core 0).clockRuns = true ∧ s.freeIndex 0 = some 0
    ∧ s.findWindow 0 0 64 = some (0, 0) ∧ s.pickSlot 0 = some 1 ∧ 0 < launch2.rcd.threadCount := by decide +kernel

theorem wit_PlacementEvents_fairness :
    ({ one (thr []) with launches := [(9, launch2)], now := 100000 } : State).launches.get? 9 = some launch2 ∧ launch2.since = some 0
    ∧ 0 + 100000 ≤ ({ one (thr []) with launches := [(9, launch2)], now := 100000 } : State).now := by decide +kernel

/-- A launch of one thread that needs a narrow core, when a WAITing loose thread of its context holds its one slot. -/
def pending : State :=
  { oneAs .wait { thr [] with wait := .block (.recv 0) } with
      now := 10000, ctxs := [(0, { ctx1 with quota := { quota1 with slotsCore := 1, slotsDev := 1 } })], launches := [(9, launch2)] }

theorem wit_PlacementEvents_pending :
    pending.launches.get? 9 = some launch2 ∧ launch2.placing = true ∧ pending.writesDone launch2 = true ∧ launch2.pendCore = none ∧ launch2.noCore = some 0 ∧ 0 + 10000 ≤ pending.now ∧ pending.coresFor 9 launch2 = []
    ∧ pending.chooseCore 0 ((List.range 256).filter fun x => pending.couldTake (launch2.need 9) x) = some 0 := by decide +kernel

/-- A loose thread in WAIT. -/
def waiting1 : Thread := { thr [] with wait := .block (.recv 0) }
/-- Its image. -/
def image1 (spill : Bool) : Image := { th := waiting1.record, hnd := 1, core := 0, spill := spill, complete := true, since := none }
/-- Slot 0 as slot `i` with a thread that waits for slots. -/
def crowd : State :=
  { State.reset with
      ctxs := [(0, { ctx1 with quota := { quota1 with slotsCore := 2 } })],
      slots := [(0, { slotOf1 waiting1 with st := .wait }), (1, { slotOf1 { thr [] with wait := .retry .slot } with st := .stall })] }

theorem wit_PlacementEvents_evict :
    (crowd.core 0).evict = none ∧ (crowd.core 0).clockRuns = true ∧ crowd.moveCand 0 = none ∧ crowd.wants 0 = [(some 0, .slot)]
    ∧ firstCand (crowd.cands 0 (some 0) .slot) = some (false, T0.key, 0, 0) := by decide +kernel

theorem wit_PlacementEvents_commit :
    let s : State := { oneAs .saving waiting1 with cores := [(0, { core1 with cyc := 1, evict := some (false, T0.key, 1) })] }
    let q : State := { s with images := [(imageKey 1, { image1 true with complete := false })] }
    (s.core 0).evict = some (false, T0.key, 1) ∧ 1 ≤ (s.core 0).cyc ∧ (s.core 0).clockRuns = true ∧ s.images.get? (imageKey (s.handle T0)) = none
    ∧ (s.spillUnits 0 256).isSome = true ∧ q.images.get? (imageKey (q.handle T0)) = some { image1 true with complete := false }
    ∧ (q.core 0).evict = some (false, T0.key, 1) := by decide +kernel

theorem wit_PlacementEvents_spill :
    let s : State := { crowd with images := [(imageKey 9, image1 true)] }
    s.images.get? (imageKey 9) = some (image1 true) ∧ (∀ r : XReg, (image1 true).th.wait ≠ .block (.owed r)) ∧ s.spillWanted 0 = true
    ∧ s.spillMarked 0 (imageKey 9) 256 = false
    ∧ (s.touchSpill 0 (imageKey 9)).1 = true ∧ (s.ctx 0).saveGap 256 = some 0 := by
  decide +kernel

theorem wit_PlacementEvents_restore :
    let i : Image := { image1 false with since := some 0 }
    let s : State := { one (thr []) with now := 1000, images := [(imageKey 9, i)], cores := [(0, { core1 with boxes := [(0, box1 [{ prio := 0, sender := 1, data := zeros 32 }])] })] }
    let d := (searchOrder 0).find? fun x => isNarrowCore x == isNarrowCore 0 && !(s.freeSlots x).isEmpty && s.slotQuota 0 x 1
    s.images.get? (imageKey 9) = some i ∧ s.imageReady i = true ∧ s.saveMarked 0 (imageKey 9) = false ∧ (s.touchSpill 0 (imageKey 9)).1 = true ∧ i.th.owed = []
    ∧ s.pickSlot 0 = some 1 ∧ s.slotQuota 0 0 1 = true ∧ (s.core 0).clockRuns = true
    ∧ 0 + 1000 ≤ s.now ∧ s.cores.all (fun e => e.2.cmds.isEmpty) = true ∧ d.isSome = true
    ∧ s.pickSlot (d.getD 0) = (if d = some 0 then some 1 else some 0) ∧ s.slotQuota 0 (d.getD 0) 1 = true ∧ (s.core (d.getD 0)).clockRuns = true := by decide +kernel

theorem wit_PlacementEvents_groups :
    let g (st : GroupSt) : Group := { grp1 with st := st, saved := [({ member waiting1 with wait := .block (.recv 0) }, 1)] }
    let s (st : GroupSt) : State := { inGroup (thr []) (g st) with
      cores := [(0, { core1 with boxes := [(0, box1 [{ prio := 0, sender := 1, data := zeros 32 }])] })] }
    realGroup 5 = true ∧ (s .spilled).groups.get? 5 = some (g .spilled) ∧ (s .spilled).groupWakes (g .spilled) = true
    ∧ (s .spilled).saveMarked 0 5 = false ∧ (g .spilled).moveTo = none ∧ ((s .spilled).touchSpill 0 5).1 = true
    ∧ (s .spilled).lacks (g .spilled).need 0 0 = none ∧ ((s .spilled).core 0).clockRuns = true ∧ (s .spilled).groupMarked 5 = false ∧ (s .evicted).saveMarked 0 5 = false ∧ (s .evicted).groupWakes (g .evicted) = true := by decide +kernel

/-! #### Requests of the Farrier -/

/-- The Farrier takes requests. -/
def run1 (s : State) : State := { s with far := { s.far with st := .run } }
/-- A request of interface 1 for context 0, or of no context. -/
def req1 (code : Nat) (args : List Word) : Req := { code := code, reqId := 3, ctx := 0, args := args, clean := true, buf := none }
/-- The changes that a request makes of what the Farrier journals. -/
def served (s : State) (iface : Nat) (r : Req) : List (Nat × JVal × JVal) :=
  pieceChanges s.pieces (Serve.answer serveAny iface (s.reqBox iface).head r
    ((s.postReq iface r).modReqBox iface fun b => { b with head := b.head + 1 })).s.pieces
/-- What a request meets beside its room in the journal, where it makes few changes. -/
def readyBut (s : State) (code iface : Nat) (r : Req) : Bool :=
  let b := s.reqBox iface
  decide (r.code = code) && r.clean && decide (iface < 64) && s.far.takes && decide (s.far.order = [])
  && decide (b.tail = b.head) && decide (b.waiting = []) && decide (b.rptail - b.rphead < 32)

/-- Few changes have room in the journal. -/
theorem ready_of {s : State} {code iface : Nat} {r : Req} (h : readyBut s code iface r = true) (hl : (served s iface r).length ≤ 61) :
    reqReady s code iface r = true := by
  have hj : journalRoom s iface r = true := Farrier.journalTx_isSome _ _ _ _ hl
  unfold reqReady; rw [hj]; simpa [readyBut, and_assoc] using h

theorem ready {s : State} {code iface : Nat} {r : Req} (h : (readyBut s code iface r && decide ((served s iface r).length ≤ 61)) = true) :
    reqReady s code iface r = true := by
  rw [Bool.and_eq_true, decide_eq_true_eq] at h; exact ready_of h.1 h.2

/-- What a request of an OPEN context meets beside its room in the journal. -/
def readyCtxBut (s : State) (code iface : Nat) (r : Req) : Bool :=
  readyBut s code iface r && decide (r.ctx < 256) && decide ((s.ctx r.ctx).st = .opened) && decide ((s.ctx r.ctx).iface = iface)

theorem readyCtx_of {s : State} {code iface : Nat} {r : Req} (h : readyCtxBut s code iface r = true) (hl : (served s iface r).length ≤ 61) :
    ctxReady s code iface r = true := by
  simp only [readyCtxBut, Bool.and_eq_true, decide_eq_true_eq] at h
  simp [ctxReady, ready_of h.1.1.1 hl, h]

theorem readyCtx {s : State} {code iface : Nat} {r : Req} (h : (readyCtxBut s code iface r && decide ((served s iface r).length ≤ 61)) = true) :
    ctxReady s code iface r = true := by
  rw [Bool.and_eq_true, decide_eq_true_eq] at h; exact readyCtx_of h.1 h.2

/-- An accepted CTX_OPEN: pod tag 9, a watchdog of 1 ms, a ring of 64 records, frames, contexts and slots within the least of their ranges. -/
def open1 : Req := req1 0x01 [9, 0x400000, 1000, 0, 64, 0, 0, 0, 0, 0, 1, 0]

/-- The one element that a search accepts is what it finds. -/
theorem find_only {p : Nat → Bool} {l : List Nat} {a : Nat} (h : a ∈ l) (ha : p a = true) (hu : ∀ x, p x = true → x = a) : l.find? p = some a := by
  cases hf : l.find? p with
  | none => exact absurd ha (by simpa using List.find?_eq_none.mp hf a h)
  | some b => rw [hu b (List.find?_some hf)]

/-- In `tight` the one free 4 KiB frame is that at 0. -/
theorem tight_frame : tight.pickFrame 4096 = some 0 := by
  refine find_only (by simp) (by decide +kernel) fun x hx => ?_
  simp [State.frameFree, State.usedFrames, tight, hbmSize, Tab.vals, State.reset, one] at hx
  omega

/-- So it is wherever the same frames are in use. -/
theorem pick_same (s : State) (hf : s.frames = tight.frames) (hz : s.zeroq = tight.zeroq) (ht : s.tick = tight.tick) : s.pickFrame 4096 = some 0 := by
  rw [← tight_frame]; unfold State.pickFrame State.frameFree State.usedFrames; rw [hf, hz, ht]

/-- `tight` with that frame taken and zeroed. -/
def tight1 : State :=
  ({ tight with frames := tight.frames ++ [{ pa := 0, size := 4096, ctx := 1, use := 1 }], tick := tight.tick + 1 } : State).zero 0 4096

theorem tight_root : (run1 tight).takeFrame 4096 1 1 = some (0, run1 { tight with frames := tight.frames ++ [{ pa := 0, size := 4096, ctx := 1, use := 1 }],
                                                                                  tick := tight.tick + 1 }) := by
  have h : (run1 tight).pickFrame 4096 = some 0 := pick_same _ rfl rfl rfl
  unfold State.takeFrame; rw [h]; rfl

/-- The state in which a request is served: it has been taken from its mailbox. -/
def taken (s : State) (iface : Nat) (r : Req) : State := (s.postReq iface r).modReqBox iface fun b => { b with head := b.head + 1 }

theorem served_eq {s : State} {iface : Nat} {r : Req} {f : Serve} (hc : r.clean = true) (hf : serveOf r.code = some f) :
    served s iface r = pieceChanges s.pieces (f iface (s.reqBox iface).head (Req.whole r) (taken s iface r)).s.pieces := by
  unfold served Serve.answer serveAny
  rw [if_pos hc, show (Req.whole r).code = r.code from rfl, hf]; rfl

/-- Where `tight`'s frames are in use, the one free frame is taken. -/
theorem takeFrame_same {s : State} {n c u : Nat} (hn : n = 4096) (hf : s.frames = tight.frames) (hz : s.zeroq = tight.zeroq) (ht : s.tick = tight.tick) :
    s.takeFrame n c u = some (0, { s with frames := s.frames ++ [{ pa := 0, size := n, ctx := c, use := u }], tick := s.tick + 1 }) := by
  subst hn; unfold State.takeFrame; rw [pick_same s hf hz ht]; rfl

/-- A buffer of no bytes takes no frame. -/
theorem takeBuffer_empty (s : State) (c u : Nat) : ∃ pa, s.takeBuffer 0 65536 c u = some (pa, s) := by
  unfold State.takeBuffer
  obtain ⟨x, hx⟩ := Option.isSome_iff_exists.mp (List.find?_isSome.mpr ⟨0, List.mem_cons_of_mem _ (List.mem_cons_self ..), by simp⟩ :
    (((Config.frameChoice s.tick % (hbmSize / 65536) * 65536) :: 0 :: s.usedFrames.map fun u => ceilDiv (u.1 + u.2) 65536 * 65536).find? fun pa =>
      decide (pa % 65536 = 0) && decide (pa + 0 ≤ hbmSize) && s.usedFrames.all fun u => decide (u.1 + u.2 ≤ pa) || decide (pa + 0 ≤ u.1)).isSome = true)
  exact ⟨x, by simp only [hx, Option.map_some, if_true]⟩

/-- Where `tight1`'s frames are in use, a ring of 64 records takes the free 2 KiB. -/
theorem takeBuffer_ring {s : State} {n c u : Nat} (hn : n = 2048) (hf : s.frames = tight1.frames) (hz : s.zeroq = tight.zeroq) :
    s.takeBuffer n 64 c u = some (0x2000, { s with frames := s.frames ++ [{ pa := 0x2000, size := n, ctx := c, use := u }], tick := s.tick + 1 }) := by
  subst hn
  have hu : s.usedFrames = tight1.usedFrames := by unfold State.usedFrames; rw [hf, hz]; rfl
  unfold State.takeBuffer
  rw [hu]
  dsimp only
  rw [find_only (a := 0x2000) ?_ ?_ ?_]
  · rfl
  · exact List.mem_cons_of_mem _ (List.mem_cons_of_mem _ (by decide +kernel))
  · decide +kernel
  · intro x hx
    simp [State.usedFrames, tight1, tight, hbmSize, Tab.vals, State.reset, one, State.zero] at hx
    omega

theorem open_room : (served (run1 tight) 0 open1).length ≤ 61 := by
  have h := (takeBuffer_empty (({ taken (run1 tight) 0 open1 with
    frames := tight.frames ++ [{ pa := 0, size := 4096, ctx := 1, use := 1 }], tick := tight.tick + 1 } : State).zero 0 4096) 1 3).choose_spec
  have e := serveOpen_eq (f := 0) (k := ((run1 tight).reqBox 0).head) (r := Req.whole open1) (s := taken (run1 tight) 0 open1) (n := 1) (pos := 0) (ring := 0) rfl (by decide +kernel)
    (by decide +kernel) (by decide +kernel) (by decide +kernel) (by decide +kernel) (by decide +kernel) (takeFrame_same rfl rfl rfl rfl) h
    (takeBuffer_ring rfl rfl rfl)
  rw [served_eq rfl rfl, e]; decide +kernel

theorem wit_ContextRequests_open :
    let s := run1 tight
    reqReady s 0x01 0 open1 = true ∧ openOk open1 = true ∧ s.ctxs.lowestFree 256 = some 1 ∧ s.freePos 0 = some 0 ∧ s.rings.lowestFree 65536 = some 0
    ∧ s.ctxOfTag 9 = none ∧ s.budgetOk 0 (quotaOf open1) = true :=
  ⟨ready_of (by decide +kernel) open_room, by decide +kernel⟩

theorem wit_ContextRequests_frames :
    (∃ pa1, (run1 tight1).takeBuffer 0 65536 1 3 = some (pa1, run1 tight1)) ∧ ∃ s3, (run1 tight1).takeBuffer (64 * 32) 64 256 2 = some (0x2000, s3) :=
  ⟨takeBuffer_empty _ _ _, _, takeBuffer_ring rfl rfl rfl⟩

/-- Context 0 with launch queue 3. -/
def queued (l : LaunchQ) : State := run1 { tight with ctxs := [(0, { ctx1 with root := 0x10000, queues := [(3, l)] })] }

theorem lqCreate_room : (served (run1 tight) 1 (req1 0x10 [3, 64])).length ≤ 61 := by
  have e := serveLqCreate_eq (f := 1) (k := ((run1 tight).reqBox 1).head) (r := Req.whole (req1 0x10 [3, 64])) (s := taken (run1 tight) 1 (req1 0x10 [3, 64]))
    (by decide +kernel) (by decide +kernel) (by decide +kernel) (by decide +kernel) (by decide +kernel) (by decide +kernel) (by decide +kernel)
    (takeFrame_same rfl rfl rfl rfl)
  rw [served_eq rfl rfl, e]; decide +kernel

theorem wit_ContextRequests_context :
    let s := run1 tight
    let r := req1 0x10 [3, 64]
    ctxReady s 0x02 1 (req1 0x02 []) = true ∧ ctxReady s 0x03 1 (req1 0x03 [BitVec.ofNat 64 (2 ^ 63 - 1)]) = true ∧ ctxReady s 0x10 1 r = true
    ∧ ctxReady (queued (lq1 [])) 0x11 1 (req1 0x11 [3]) = true ∧ ctxReady (queued { lq1 [] with paused := true }) 0x12 1 (req1 0x12 [3]) = true
    ∧ ctxReady (queued (lq1 [])) 0x13 1 (req1 0x13 [3]) = true ∧ tight.pickFrame (64 * 64) = some 0 ∧ (s.ctx 0).queues = [] ∧ s.closeReady 0 = false
    ∧ pow2In 64 64 4096 = true ∧ (s.ctx 0).queues.get? 3 = none ∧ s.framesHeld 0 + (64 * 64 + 4095) / 4096 ≤ (s.ctx 0).quota.frames
    ∧ ((queued (lq1 [])).ctx 0).queues.get? 3 = some (lq1 []) :=
  ⟨readyCtx (by decide +kernel), readyCtx (by decide +kernel), readyCtx_of (by decide +kernel) lqCreate_room, readyCtx (by decide +kernel),
    readyCtx (by decide +kernel), readyCtx (by decide +kernel), tight_frame, by decide +kernel⟩

theorem tight_leaves : (run1 tight).leaves 0 = [] := by decide +kernel

theorem tight_unmapped (va n : Nat) : (run1 tight).unmapped 0 va n = true := by unfold State.unmapped; rw [tight_leaves]; rfl

/-- A MAP of the page at 0x400000. -/
def map1 : Req := req1 0x20 [0x400000, 0x300, 0]
/-- `tight` with the one free frame taken for it. -/
def tight2 (s : State) : State := { s with frames := s.frames ++ [{ pa := 0, size := 4096, ctx := 0, use := 0 }], tick := s.tick + 1 }

theorem map_writes : (((tight2 (taken (run1 tight) 1 map1)).zero 0 4096).writeLeaf 0 0x400000 0 (leafOf 0 0 0 0x300)).isSome = true := by decide +kernel

theorem map_room : (served (run1 tight) 1 map1).length ≤ 61 := by
  have e := serveMap_eq (f := 1) (k := ((run1 tight).reqBox 1).head) (r := Req.whole map1) (s := taken (run1 tight) 1 map1) (by decide +kernel) (by decide +kernel) (by decide +kernel)
    (by decide +kernel) (by decide +kernel) (by decide +kernel) (by decide +kernel) (takeFrame_same rfl rfl rfl rfl) (Option.some_get map_writes).symm
  rw [served_eq rfl rfl, e]; decide +kernel

theorem wit_ContextRequests_map :
    let s := run1 tight
    ctxReady s 0x20 1 map1 = true ∧ s.unmapped 0 0x400000 4096 = true ∧ s.takeFrame 4096 0 0 = some (0, tight2 s) ∧ mapOk map1 = true
    ∧ s.framesHeld 0 + 1 ≤ (s.ctx 0).quota.frames ∧ ((tight2 s).zero 0 4096).writeLeaf 0 0x400000 0 (leafOf 0 0 0 0x300) ≠ none :=
  ⟨readyCtx_of (by decide +kernel) map_room, tight_unmapped _ _, takeFrame_same rfl rfl rfl rfl, by decide +kernel⟩

/-- Context 0 with the page at 0x400000 mapped. -/
def mapped : State := run1 { tight with mem := leaves1 }
/-- A MOVE of that page to a frame of the Farrier's choice. -/
def move1 : Req := req1 0x23 [0x400FFF, 0]

theorem move_writes : ((tight2 (taken mapped 1 move1)).writeLeaf 0 0x400000 (pteSz pte1.toNat) (word (pte1.toNat + 8))).isSome = true := by decide +kernel

theorem move_room : (served mapped 1 move1).length ≤ 61 := by
  have e := serveMove_eq (f := 1) (k := (mapped.reqBox 1).head) (r := Req.whole move1) (s := taken mapped 1 move1) (va := 0x400000) (n := 4096) (fr := 0) (pte := pte1)
    (by decide +kernel) (by decide +kernel) (by decide +kernel) (by decide +kernel) (by decide +kernel) (by decide +kernel) (by decide +kernel)
    (pick_same _ rfl rfl rfl) (by decide +kernel) (by decide +kernel) (Option.some_get move_writes).symm
  rw [served_eq rfl rfl, e]; decide +kernel

theorem wit_ContextRequests_pages :
    let s := mapped
    ctxReady s 0x21 1 (req1 0x21 [0x400FFF]) = true ∧ ctxReady s 0x22 1 (req1 0x22 [0x400FFF, 0x100]) = true ∧ ctxReady s 0x23 1 move1 = true
    ∧ s.pickFrame 4096 = some 0 ∧ s.pageAt 0 0x400FFF = some (0x400000, 4096, pte1) ∧ pteM pte1.toNat = false
    ∧ s.writeLeaf 0 0x400000 0 (leafOf 0 0x2000000 0 0x100) ≠ none ∧ pteChip pte1.toNat = s.chip ∧ pteFrame pte1.toNat < hbmSize
    ∧ (tight2 s).writeLeaf 0 0x400000 0 (BitVec.ofNat 64 (pte1.toNat + 8)) ≠ none :=
  ⟨readyCtx (by decide +kernel), readyCtx (by decide +kernel), readyCtx_of (by decide +kernel) move_room, pick_same _ rfl rfl rfl, by decide +kernel⟩

/-- A region of the least size. -/
def region1 (serving : Bool) : Region := { ctx := 0, size := wsUnit, va := 0x400000, serving := serving, sealing := none }
/-- Context 0 with that region and with `t` as root. -/
def regioned (serving : Bool) (t : Nat) : State :=
  { run1 tight with regions := [(wsBase, region1 serving)], ctxs := [(0, { ctx1 with root := t })] }

theorem wit_ContextRequests_regions :
    let r (code : Nat) := req1 code [BitVec.ofNat 64 wsBase]
    ctxReady (regioned false 0) 0x31 1 (r 0x31) = true ∧ ctxReady (regioned true 0) 0x32 1 (r 0x32) = true
    ∧ ctxReady (regioned false 0) 0x33 1 (r 0x33) = true ∧ (regioned false 0).regions.get? wsBase = some (region1 false)
    ∧ (regioned false 0).cpywInto wsBase wsUnit = false ∧ (regioned true 0).regionHeld 0 wsBase wsUnit = false ∧ (regioned false 0).leaves 0 = [] :=
  ⟨readyCtx (by decide +kernel), readyCtx (by decide +kernel), readyCtx (by decide +kernel), by decide +kernel⟩

/-- `tight` with all of die 1's weight store but its first 256 KiB in use by another context. -/
def crammed : State :=
  { run1 tight with regions := [(wsBase + wsDie + wsUnit, { ctx := 1, size := wsDie - wsUnit, va := 0, serving := true, sealing := none })] }
/-- A WR_ALLOC of 256 KiB on die 1. -/
def alloc1 : Req := req1 0x30 [1, BitVec.ofNat 64 wsUnit, 0]

theorem pick_region (s : State) (hr : s.regions = crammed.regions) (hz : s.zeroq = []) : s.pickRegion 1 wsUnit = some (wsBase + wsDie) := by
  unfold State.pickRegion State.wsUsed
  rw [hr, hz]
  refine find_only (List.mem_cons_of_mem _ (by simp)) (by decide +kernel) fun x hx => ?_
  simp [crammed, meets, wsDie, wsUnit, Tab.vals] at hx ⊢
  omega

/-- `crammed` with the free 256 KiB given to context 0. -/
def alloced (s : State) : State :=
  { s with regions := s.regions.set (wsBase + wsDie) { ctx := 0, size := wsUnit, va := 0, serving := false, sealing := none }, tick := s.tick + 1 }

theorem alloc_writes : ((alloced (taken crammed 1 alloc1)).writeLeaf 0 0 3 (leafOf 0 (wsBase + wsDie) 3 768)).isSome = true := by decide +kernel

theorem alloc_room : (served crammed 1 alloc1).length ≤ 61 := by
  have e := serveWrAlloc_eq (f := 1) (k := (crammed.reqBox 1).head) (r := Req.whole alloc1) (s := taken crammed 1 alloc1) (by decide +kernel) (by decide +kernel) (by decide +kernel)
    (by decide +kernel) (by decide +kernel) (by decide +kernel) (by decide +kernel) (by decide +kernel) (by decide +kernel) (pick_region _ rfl rfl)
    (Option.some_get alloc_writes).symm
  rw [served_eq rfl rfl, e]; decide +kernel

theorem wit_ContextRequests_alloc :
    let s := crammed
    ctxReady s 0x30 1 alloc1 = true ∧ s.pickRegion 1 wsUnit = some (wsBase + wsDie) ∧ s.unmapped 0 0 wsUnit = true
    ∧ ((s.wsUsed.filter fun u => decide (u.2.2 = 0) && decide (wsBase + 1 * wsDie ≤ u.1) && decide (u.1 < wsBase + 1 * wsDie + wsDie)).map (·.2.1)).sum + wsUnit
        ≤ (s.ctx 0).quota.wstore * wsUnit
    ∧ ((alloced s).writeLeaf 0 0 3 (leafOf s.chip (wsBase + wsDie) 3 768)).isSome = true :=
  ⟨readyCtx_of (by decide +kernel) alloc_room, pick_region _ rfl rfl, by decide +kernel⟩

/-- A completion ring of context 0 with three records. -/
def ring1 (live : Bool) : Ring :=
  let r : Rec := { item := 0, kind := 1, status := .ok, cause := 0, reason := 0, ctx := 0, tag := 7, addr := 0, time := 0 }
  { ctx := 0, iface := 1, size := 64, base := 0x2000, rtail := 3, rhead := 0, recs := [r, r, r], waiting := [], live := live }

theorem wit_ContextRequests_rings :
    let s (live : Bool) : State := { run1 tight with rings := [(2, ring1 live)] }
    reqReady (s true) 0x60 1 (req1 0x60 [2, 0, 3]) = true ∧ reqReady (s false) 0x61 1 (req1 0x61 [2]) = true
    ∧ reqReady (s true) 0x70 0 (req1 0x70 [63, 10, 5]) = true ∧ (s true).rings.get? 2 = some (ring1 true) ∧ (ring1 true).iface = 1
    ∧ 0 + 3 ≤ (ring1 true).rtail ∧ (ring1 true).rtail ≤ 0 + (ring1 true).size ∧ (ring1 false).live = false :=
  ⟨ready (by decide +kernel), ready (by decide +kernel), ready (by decide +kernel), by decide +kernel⟩

/-- A queue pair of context 0 in a state. -/
def qp1 (st : QpSt) : Qp := { Qp.fresh 0 0xFFF 0 with st := st }
/-- A memory region of context 0 on that domain. -/
def mr1 : MemRegion := { ctx := 0, pd := 0xFFF, va := 0x400000, len := 0x1000, perm := 15, keyTag := 255 }

/-- Context 0 with a protection domain, a memory region and a queue pair. -/
def adapter (l : List (Nat × MemRegion)) (q : List (Nat × Qp)) : State := { run1 tight with pds := [(0xFFF, 0)], regionsMr := l, qps := q }

theorem wit_DeviceRequests_adapter :
    let s := adapter [] []
    let q (st : QpSt) : State := adapter [] [(0xFFFF, qp1 st)]
    let b : State := { queued (lq1 []) with pds := [(0xFFF, 0)], qps := [(0xFFFF, qp1 .init)] }
    reqReady s 0x40 1 (req1 0x40 [1023, 15, 0, 0xFFFFFFFFFFFFFFFF, 15, 7]) = true ∧ ctxReady (run1 tight) 0x50 1 (req1 0x50 []) = true
    ∧ ctxReady s 0x51 1 (req1 0x51 [0xFFF]) = true ∧ ctxReady s 0x52 1 (req1 0x52 [0xFFFFFFFFFFFF, 1, 0xF0FFF]) = true
    ∧ ctxReady (adapter [(9, mr1)] []) 0x53 1 (req1 0x53 [0x9FF]) = true ∧ ctxReady s 0x54 1 (req1 0x54 [0x10FFF]) = true
    ∧ ctxReady (q .reset) 0x55 1 (req1 0x55 [0x1FFFF, 1]) = true ∧ ctxReady (q .error) 0x55 1 (req1 0x55 [0x1FFFF, 0]) = true
    ∧ ctxReady (q .rts) 0x55 1 (req1 0x55 [0x1FFFF, 2]) = true ∧ ctxReady (q .rts) 0x56 1 (req1 0x56 [0x1FFFF]) = true
    ∧ ctxReady b 0x57 1 (req1 0x57 [0x1FFFF, 3]) = true
    ∧ (0xFFFFFFFFFFFFFFFF : Word).toNat % 4096 = 4095 ∧ s.ctxOfTag 7 = some 0 ∧ s.ranges.get? (1023 * 16 + 15) = none ∧ (run1 tight).pds = []
    ∧ s.pds.get? 0xFFF = some 0 ∧ s.regionsMr = [] ∧ s.qps = [] ∧ 0xF0FFF = 0xF0FFF % 2 ^ 12 + 0xF0FFF / 2 ^ 16 % 16 * 2 ^ 16
    ∧ mr1.keyTag = 0x9FF % 256 ∧ 0 < (s.ctx 0).quota.qps ∧ (q .reset).qps.get? 0xFFFF = some (qp1 .reset)
    ∧ modifyOk (req1 0x55 [0x1FFFF, 1]) = true ∧ (q .reset).qpsOf 0 ≤ ((q .reset).ctx 0).quota.qps ∧ modifyOk (req1 0x55 [0x1FFFF, 0]) = true
    ∧ modifyOk (req1 0x55 [0x1FFFF, 2]) = true ∧ (qp1 .rts).work = [] ∧ (q .rts).qps.wf = true ∧ ((b.ctx 0).queues.get? 3).isSome = true :=
  ⟨ready (by decide +kernel), readyCtx (by decide +kernel), readyCtx (by decide +kernel), readyCtx (by decide +kernel), readyCtx (by decide +kernel),
    readyCtx (by decide +kernel), readyCtx (by decide +kernel), readyCtx (by decide +kernel), readyCtx (by decide +kernel), readyCtx (by decide +kernel),
    readyCtx (by decide +kernel), by decide +kernel⟩

/-- A request with a buffer of zeros. -/
def zeroBuf (code n : Nat) : Req := { req1 code [1, 2, 3, 4, 0, 0, 0, 0, 0, 0, 0, 0, 64, BitVec.ofNat 64 n] with buf := some (zeros n) }

theorem wit_DeviceRequests_module :
    let s := run1 (inGroup (thr []) grp1)
    let u : State := { s with far := { s.far with st := .unowned } }
    reqReady s 0x71 0 (req1 0x71 [0x80000000]) = true ∧ reqReady s 0x72 0 (req1 0x72 [0x80000000]) = true ∧ reqReady s 0x73 0 (req1 0x73 [255]) = true
    ∧ ctxReady s 0x74 1 (req1 0x74 [5, 255]) = true ∧ reqReady s 0x80 1 (zeroBuf 0x80 4096) = true ∧ reqReady s 0x81 0 (req1 0x81 [7]) = true
    ∧ reqReady u 0x84 0 (zeroBuf 0x84 1952) = true ∧ reqReady s 0x85 0 (req1 0x85 [1]) = true ∧ reqReady s 0x86 0 (req1 0x86 [1]) = true
    ∧ bitN 0x80000000 (clusterOf 255) = true ∧ (s.core 255).stop = none ∧ s.groups.get? 5 = some grp1 ∧ s.launches.get? grp1.launch = some launch1
    ∧ kindOk launch1.rcd.ckind 255 = true ∧ bufOk 4096 (zeroBuf 0x80 4096) = true ∧ bufOk 1952 (zeroBuf 0x84 1952) = true ∧ u.far.ownerKey = none
    ∧ s.far.select ≠ 1 ∧ (s.reqBox 0).replies.get? 0 = none ∧ (s.reqBox 0).waiting = [] :=
  ⟨ready (by decide +kernel), ready (by decide +kernel), ready (by decide +kernel), readyCtx (by decide +kernel), ready (by decide +kernel),
    ready (by decide +kernel), ready (by decide +kernel), ready (by decide +kernel), ready (by decide +kernel), by decide +kernel⟩

/-- The first reply that an outcome leaves at interface 1. -/
def firstReply (o : Host.Outcome State Fault Refusal) : Option Reply :=
  match o with
  | .next u => (u.reqBox 1).replies.get? 0
  | _ => none

/-- A request for a protection domain that is not there is refused. -/
theorem wit_DeviceRequests_refused :
    (firstReply (exec (.pdFree 1 (req1 0x51 [0xFFF])) (run1 tight))).map (·.status) = some .denied := by decide +kernel

theorem wit_DeviceRequests_checked :
    let f : Farrier := { Farrier.reset with st := .run, check := some (.write 1 0 0, 7) }
    let s : State := { State.reset with now := 7, far := f }
    s.far.check = some (.write 1 0 0, 7) ∧ 7 ≤ s.now ∧ 1 < 2 := by decide +kernel

/-- A transfer request that names the device: what the signature says of it is the configuration's. -/
def transferBuf : List Byte := slice Config.deviceIdentity 0 64 ++ zeros 3373

theorem slice_length (l : List Byte) : (slice l 0 64).length = 64 := by simp [slice, zeros]

theorem slice_left (a b : List Byte) (h : a.length = 64) : slice (a ++ b) 0 64 = a := by
  unfold slice
  rw [List.drop_zero, List.take_append_of_le_length (le_of_eq h.symm), List.take_of_length_le (le_of_eq h)]
  simp [h, zeros]

/-- That request. -/
def transferReq (code : Nat) : Req := { req1 code [0, 0, 0, 0, 0, 0, 0, 0, 0, 0, 0, 0, 64, 3437] with buf := some transferBuf }

theorem pieceChanges_le (old new : Tab JVal) : (pieceChanges old new).length ≤ old.length + new.length := by
  unfold pieceChanges; rw [List.length_append]; exact Nat.add_le_add (List.length_filterMap_le _ _) (List.length_filterMap_le _ _)

/-- A module without contexts and what hangs on them has at most the pieces of its owner. -/
theorem pieces_bare {s : State} (h : s.ctxs = [] ∧ s.frames = [] ∧ s.regions = [] ∧ s.ranges = [] ∧ s.pds = [] ∧ s.regionsMr = [] ∧ s.qps = []
    ∧ s.far.budgets = [] ∧ s.rings = []) : s.pieces.length ≤ 2 := by
  obtain ⟨h1, h2, h3, h4, h5, h6, h7, h8, h9⟩ := h
  simp only [State.pieces, State.tablePages, asPieces, h1, h2, h3, h4, h5, h6, h7, h8, h9, List.map_nil, List.flatMap_nil, List.foldl_nil, List.nil_append,
    List.length_append]
  split <;> split <;> simp

/-- A transfer changes the owner alone. -/
theorem transfer_state (key : Option (List Byte)) (r : Req) (s : State) :
    (transfer key r s).s = s ∨ (transfer key r s).s = { s with far := { s.far with ownerKey := none, counter := s.far.counter + 1 } } := by
  unfold transfer
  simp only
  split
  · exact .inl rfl
  · cases key with
    | none => exact .inl rfl
    | some k => simp only; split; exacts [.inl rfl, .inr rfl]

theorem bufOk_transfer (code : Nat) : bufOk 3437 (transferReq code) = true := by
  have ht : transferBuf.length = 3437 := by unfold transferBuf; rw [List.length_append, slice_length]; rfl
  simp [bufOk, Req.arg, transferReq, req1, ht]

/-- A module with an owner. -/
def owned (key : List Byte) : State := run1 { State.reset with frames := [], far := { State.reset.far with ownerKey := some key } }

theorem transfer_room (key : List Byte) (k : Option (List Byte)) (code : Nat) :
    (pieceChanges (owned key).pieces (transfer k (Req.whole (transferReq code)) (taken (owned key) 0 (transferReq code))).s.pieces).length ≤ 61 := by
  refine (pieceChanges_le _ _).trans (Nat.le_trans (Nat.add_le_add (pieces_bare ⟨rfl, rfl, rfl, rfl, rfl, rfl, rfl, rfl, rfl⟩) ?_ : _ ≤ 2 + 2) (by decide))
  rcases transfer_state k (Req.whole (transferReq code)) (taken (owned key) 0 (transferReq code)) with h | h <;> rw [h]
  · exact pieces_bare ⟨rfl, rfl, rfl, rfl, rfl, rfl, rfl, rfl, rfl⟩
  · exact pieces_bare ⟨rfl, rfl, rfl, rfl, rfl, rfl, rfl, rfl, rfl⟩

theorem wit_DeviceRequests_transfer (key : List Byte)
    (h : Config.mldsaVerify key (slice (Config.shake256 (slice transferBuf 0 128)) 0 64) (slice transferBuf 128 3309) = true) :
    let s := owned key
    reqReady s 0x82 0 (transferReq 0x82) = true ∧ reqReady s 0x83 0 (transferReq 0x83) = true ∧ bufOk 3437 (transferReq 0x82) = true ∧ s.anyOpen = false
    ∧ (slice transferBuf 72 56).all (fun v => v = 0) = true
    ∧ slice transferBuf 0 64 = slice Config.deviceIdentity 0 64 ∧ getLe transferBuf 64 8 = s.far.counter ∧ s.far.ownerKey = some key
    ∧ Config.mldsaVerify key (slice (Config.shake256 (slice transferBuf 0 128)) 0 64) (slice transferBuf 128 3309) = true := by
  have hl := slice_length Config.deviceIdentity
  have hd : ∀ n, transferBuf.drop (64 + n) = (zeros 3373).drop n := by
    intro n; unfold transferBuf; rw [← List.drop_drop, List.drop_left' hl]
  have e (code : Nat) (g : State → Option (List Byte)) (f : Serve) (hf : f = ofPf (inRange (bufOk 3437) fun _ _ r s => transfer (g s) r s)) :
      f 0 ((owned key).reqBox 0).head (Req.whole (transferReq code)) (taken (owned key) 0 (transferReq code))
        = transfer (g (taken (owned key) 0 (transferReq code))) (Req.whole (transferReq code)) (taken (owned key) 0 (transferReq code)) := by
    subst hf; unfold ofPf noCtx inRange
    have h0 : (Req.whole (transferReq code)).ctx = 0 := rfl
    have h1 : bufOk 3437 (Req.whole (transferReq code)) = true := bufOk_transfer code
    simp [h0, h1]
  refine ⟨ready_of rfl ?_, ready_of rfl ?_, bufOk_transfer _, rfl, ?_, slice_left _ _ hl, ?_, rfl, h⟩
  · rw [served_eq rfl rfl, e 0x82 (fun s => s.far.ownerKey) serveOwnRelease rfl]; exact transfer_room key _ _
  · rw [served_eq rfl rfl, e 0x83 (fun _ => some Config.makerKey) serveOwnRecover rfl]; exact transfer_room key _ _
  · unfold slice; rw [hd 8]; decide +kernel
  · unfold getLe; rw [hd 0]; rfl

/-! #### Events of the adapter, of kills and of the Farrier -/

theorem wit_AdapterEvents :
    let e : Eth := { Eth.reset with st := .up }
    let x : Qp := { qp1 .rts with bound := some 3 }
    let l : LaunchQ := { lq1 [] with tail := 63, recs := List.replicate 63 rec1 }
    let s : State := { run1 tight with eths := [(0, e)], qps := [(0xFFFF, x)], regionsMr := [(9, mr1)], mem := leaves1, rings := [(0, ring1 true)],
                                       ctxs := [(0, { ctx1 with root := 0x10000, queues := [(3, l)] })] }
    s.ctxAt 1 0 = some 0 ∧ s.rings.get? (s.ctx 0).ring = some (ring1 true) ∧ s.qps.get? 0xFFFF = some x ∧ x.ctx = 0 ∧ (s.eth x.eth).st = .up
    ∧ 0x400000 % 4096 + 4096 ≤ 4096 ∧ s.keyOk x 0x9FF 0x400000 4096 2 = true ∧ s.keyOk x 0x9FF 0x400001 4096 1 = false ∧ x.work = []
    ∧ s.xlateFor 0 0x400000 .write = .ok { chip := 0, pa := 0x2000000, bwc := some 0, loc := false } ∧ place 0x2000000 = .hbm ∧ MemoryCanonical s
    ∧ (s.ctx 0).queues.get? 3 = some l ∧ (s.ctx 0).st = .opened ∧ l.depth - (l.tail - l.head) < 128 / 64 ∧ 1 ≤ l.depth - (l.tail - l.head)
    ∧ x.rsp = [] ∧ s.moving = [] ∧ (qp1 .init).st = .init ∧ (qp1 .init).bound = none ∧ (s.eth (qp1 .init).eth).st = .up
    ∧ { x with work := [zeros 1] }.work ≠ [] ∧ { x with retries := 1 }.tries < { x with retries := 1 }.retries ∧ x.retries ≤ x.tries
    ∧ s.dark 0 = false ∧ x.recvs = [] ∧ x.own = false ∧ x.st = .rts ∧ s.eccHit 0x2000000 4096 = false ∧ (s.bwClass 0).unl = true
    ∧ s.xlateFor 0 0x400000 .read = .ok { chip := 0, pa := 0x2000000, bwc := some 0, loc := false } ∧ s.keyOk x 0x9FF 0x400000 4096 1 = true
    ∧ { x with bound := none }.bound = none
    ∧ (let p : RdmaPkt := { qp := 0xFFFF, op := .write, key := 0x9FF, va := 0x400000, len := 4096, data := zeros 4096, a := 0, b := 0, imm := none,
                            udp := 4791, ecn := true }
       s.qps.get? p.qp = some x ∧ p.udp = 4791 ∧ p.imm = none ∧ 0 < p.data.length ∧ p.va % 4096 + p.data.length ≤ 4096 ∧ { p with data := [] }.data = []) := by
  unfold MemoryCanonical; decide +kernel

theorem wit_AdapterEvents_receive (d : List Byte) (h : Config.isReceive d = true) :
    let x : Qp := { qp1 .rts with bound := some 3 }
    let s : State := { one (thr []) with qps := [(0xFFFF, x)] }
    s.ctxAt 1 0 = some 0 ∧ s.qps.get? 0xFFFF = some x ∧ x.ctx = 0 ∧ x.bound.isSome = true ∧ Config.isReceive d = true :=
  ⟨by decide +kernel, by decide +kernel, by decide +kernel, by decide +kernel, h⟩

theorem wit_KillEvents :
    let s : State := { one (thr []) with now := 1000000, ctxs := [(0, { ctx1 with period := 1000 })] }
    let k : Context := { ctx1 with st := .killing, killAt := 996723 }
    let q : State := { one (thr []) with now := 1000000, ctxs := [(0, k)], rings := [(0, ring1 true)] }
    let z : ZeroBuf := { ctx := 1, pa := 0, size := 4096, frames := 0 }
    let c : State := { one (thr []) with ctxs := [(0, { ctx1 with st := .zeroing })], rings := [(0, ring1 true)], zeroq := [(4, z)] }
    (s.ctx 0).st = .opened ∧ (s.ctx 0).wdStart + (s.ctx 0).period * 1000 ≤ s.now ∧ (s.ctx 0).wdHold = none ∧ s.heldCtx 0 = false ∧ s.savingCtx 0 = false
    ∧ ({ s with slots := [(0, { slotOf1 (thr []) with st := .saving })] } : State).savingCtx 0 = true
    ∧ (q.ctx 0).killAt + 3277 ≤ q.now ∧ (q.ctx 0).units = [] ∧ (q.ctx 0).routers = [] ∧ (q.ctx 0).partners = [] ∧ q.rings.get? (q.ctx 0).ring = some (ring1 true)
    ∧ (ring1 true).rtail - (ring1 true).rhead < (ring1 true).size ∧ (ring1 true).waiting = [] ∧ (∀ e ∈ q.spads, e.2 ≠ 0) ∧ (ring1 true).base + 32 * (ring1 true).size ≤ hbmSize
    ∧ MemoryCanonical q ∧ (q.ctx 0).kackTo = [] ∧ c.zeroq.get? 4 = some z ∧ c.bufferBusy z = false ∧ MemoryCanonical c
    ∧ (c.ctx 0).st = .zeroing ∧ (∀ e ∈ c.zeroq, e.2.ctx ≠ 0) ∧ c.rings.get? (c.ctx 0).ring = some (ring1 true) ∧ s.ctxs = [(0, s.ctx 0)]
    ∧ c.writesLeft 0 = false ∧ (s.ctx 0).period ≠ 0 ∧ (s.ctx 0).iface < 64 := by
  unfold MemoryCanonical; decide +kernel

theorem wit_FarrierEvents :
    let b : ReqBox := { ReqBox.reset with tail := 30, head := 30, rptail := 30, rphead := 29, slots := [(30, req1 0x99 [])] }
    let s (st : FarSt) : State := { State.reset with now := 10000000, far := { Farrier.reset with st := st, boxes := [(63, b)], order := [63] } }
    ((s .run).reqBox 63) = b ∧ b.tail ≤ 62 ∧ 62 ≤ b.head + 32 ∧ b.rphead ≤ 30 ∧ 30 ≤ b.rptail ∧ 63 > b.head + 32
    ∧ (s .run).far.takes = true ∧ (s .run).far.journal = [] ∧ (s .run).far.order = [63] ∧ b.rptail - b.rphead < 32
    ∧ b.slots.get? (b.head % 32) = some (req1 0x99 []) ∧ (serveOf 0x99).isNone = true ∧ (s .run).far.lastBeat + 10000000 ≤ (s .run).now
    ∧ (let p : ReqBox := { b with slots := [(30, req1 0x86 [1])] }
       let u : State := { s .run with far := { Farrier.reset with st := .run, boxes := [(0, p)], order := [0] } }
       u.far.takes = true ∧ u.reqBox 0 = p ∧ u.far.order = [0] ∧ p.waiting = [] ∧ p.slots.get? (p.head % 32) = some (req1 0x86 [1])
       ∧ (req1 0x86 [1]).clean = true ∧ (req1 0x86 [1]).ctx = 0)
    ∧ 0 + 1000000 ≤ 9999999 ∧ (s .bootfail).far.lck = false ∧ ([] : List Byte).length ≤ 0x800000
    ∧ (let h (st : FarSt) : State := { s st with now := 1000000 }
       (h .run).far.lastBeat + 1000000 ≤ (h .run).now ∧ (h .run).now < (h .run).far.lastBeat + 10000000 ∧ (h .recovering).far.st = .recovering)
    ∧ (let t (k : Nat) : State := { s .recovering with now := 1010000001, far := { (s .recovering).far with lastReset := some k } }
       (t 10000001).now ≤ 10000001 + 1000000000 ∧ 10000000 + 1000000000 < (t 10000000).now ∧ (t 10000001).far.lastBeat + 10000000 ≤ (t 10000001).now)
    ∧ (let g (st : FarSt) (l : Bool) : State := { s st with far := { (s st).far with lck := l, check := if l then some (.go, 10000000) else none } }
       (g .bootfail false).far.check = none ∧ (g .unowned true).far.check = some (.go, 10000000) ∧ 10000000 ≤ (g .unowned true).now
       ∧ (g .unowned true).far.lck = true ∧ (g .unowned true).far.check ≠ none)
    ∧ (let j (k : JKind) (i : Option (Nat × JVal × JVal)) : JRec := { lsn := 0, tx := 1, kind := k, iface := 0, reqId := 3, image := i, size := 0 }
       (j .begin_ none).kind = .begin_ ∧ (j .update (some (0, .absent, .budget 1))).kind = .update ∧ (j .commit none).tx = (j .begin_ none).tx) := by decide +kernel

/-! #### Events of the links, of packets, of the Ethernet ports and of power -/

/-- A link port in a state, with eight lanes each way. -/
def link1 (st : LinkSt) : Link := { Link.reset with st := st, peer := true, en := true, txMask := 0xFF, rxMask := 0xFF, txw := 8, rxw := 8, fails := 7 }

theorem wit_LinkEvents :
    let s (st : LinkSt) : State := { State.reset with now := 100000000, links := [(5, link1 st)] }
    (∀ q, q < 6 → (State.reset.link q).st = .down) ∧ State.reset.ctxs = [] ∧ ((s .down).link 5).st = .down ∧ ((s .down).link 5).peer = true
    ∧ ((s .active).link 5).up = true ∧ ((s .active).link 5).replay = [] ∧ ((s .active).link 5).queue = [] ∧ ((s .failed).link 5).st = .failed
    ∧ ((s .narrow).link 5).st = .narrow ∧ ((s .train).link 5).stateAt + 100000000 ≤ (s .train).now ∧ ((s .train).link 5).fails = 7
    ∧ ((s .down).link 5).en = true ∧ (link1 .active).txMask.getLsbD 7 = true ∧ (link1 .active).txMask &&& ~~~(BitVec.ofNat 8 (2 ^ 7)) ≠ 0
    ∧ ((0x80 : BitVec 8) &&& ~~~(BitVec.ofNat 8 (2 ^ 7))) = 0 ∧ (link1 .active).rxNext = 4096 % 4096 ∧ 1 % 4096 ≠ (link1 .active).rxNext
    ∧ (link1 .active).lastTrailer + 10000 ≤ (s .active).now ∧ (link1 .active).fits = true
    ∧ ((s .train).link 5).stateAt + 100000000 ≤ (s .train).now ∧ { link1 .retrain with stateAt := 99500000 }.stateAt + 500000 ≤ (s .retrain).now
    ∧ (s .retrain).now ≤ { link1 .retrain with stateAt := 99500000 }.stateAt + 500000 ∧ (link1 .active).rxMask.getLsbD 7 = true
    ∧ 65536 < { link1 .active with fixed := [(100000000, 7, 65537)] }.corrected 7 100000000
    ∧ 4 ≤ { link1 .active with badRun := [0, 0, 0, 0, 0, 0, 0, 4] }.badRun.getD 7 0
    ∧ { link1 .narrow with lmap := some (true, 0x0F) }.lmap = some (true, 0x0F) ∧ (s .down).dark 0 = false ∧ 0 < (link1 .active).lastTrailer + 10000 := by decide +kernel

/-- A packet from chip 1 to the last 8 bytes of a scratchpad. -/
def packet1 (k : PKind) (sub : PSub) : Packet :=
  { kind := k, dst := 0, src := 1, tag := 7, cls := 0, sub := sub, addr := localPa 255 0x1FFEF8, bytes := 8, hnd := 0, seq := 3, status := .ok, aux := 0,
    data := zeros 8, clean := true }
/-- A pod of two chips with that packet at this one, and a range-table entry of its source for it. -/
def receiving (p : Packet) : State :=
  { one (thr []) with
      hvpod := 0x1000000, transit := [{ pkt := p, port := some 0, buf := some 0, got := [] }],
      ranges := [(16, { base := 0, limit := ones, perm := 15, ctag := 7 })] }
/-- The packet has its turn, its checks let it go, and its home performs it. -/
def serves (p : Packet) : Bool :=
  let s := receiving p
  decide (s.arrived p p.kind = some 0) && (s.packetCheck p).isNone
  && (match s.gate 256 (.far p.src p.seq) ((s.ctxOfTag p.tag).getD 256) { chip := s.chip, pa := p.addr, bwc := some p.cls, loc := false } p.bytes
      (Packet.writes p) with | .go _ m => decide (m = s) | _ => false)
/-- The word of the packet that comes next, when `got` of its bytes have been performed, goes the same way. -/
def servesWord (p : Packet) (got : Nat) : Bool :=
  let s := receiving p
  let a := p.addr + got
  decide (s.arrived p p.kind = some 0) && (s.packetCheck p).isNone
  && (match s.gateFor 256 (.far p.src p.seq) ((s.ctxOfTag p.tag).getD 256) { chip := s.chip, pa := a, bwc := if got = 0 then some p.cls else none, loc := false }
      (Nat.min (8 - a % 8) (p.bytes - got)) p.bytes (Packet.writes p) with | .go _ m => decide (m = s) | _ => false)

theorem wit_RequestPackets :
    servesWord (packet1 .rd .plain) 0 = true ∧ servesWord (packet1 .wr .plain) 0 = true ∧ servesWord { packet1 .rd .plain with addr := localPa 255 0x1FFEF0, bytes := 16 } 8 = true
    ∧ servesWord (packet1 .wr .plain) 3 = true ∧ serves (packet1 .at_ (.atom .add 8 true .ar)) = true ∧ serves (packet1 .fe .stf) = true
    ∧ serves (packet1 .fe .empt) = true ∧ serves (packet1 .fe .feq) = true ∧ serves (packet1 .fe (.lde true)) = true
    ∧ (receiving (packet1 .rd .plain)).isFull (localPa 255 0x1FFEF8) = false
    ∧ ({ receiving (packet1 .rd .plain) with full := [localPa 255 0x1FFEF8 / 16] } : State).isFull (localPa 255 0x1FFEF8) = true
    ∧ ({ receiving (packet1 .rd .plain) with ranges := [] } : State).packetCheck (packet1 .rd .plain) = some .denied
    ∧ (let q (aux : Nat) : Packet := { packet1 .put .plain with aux := aux }
       let r (aux : Nat) : State := { receiving (q aux) with groups := [(5, grp1)] }
       (r 5).arrived (q 5) .put = some 0 ∧ (r 5).liveGroup 5 = some grp1 ∧ grp1.onCore = true ∧ (r 7).arrived (q 7) .put = some 0 ∧ (r 7).liveGroup 7 = none
       ∧ 7 / 2 ^ 22 % 2 ^ 10 = (r 7).chip ∧ (2 ^ 22 + 5) / 2 ^ 22 % 2 ^ 10 ≠ (r (2 ^ 22 + 5)).chip ∧ (r (2 ^ 22 + 5)).liveGroup (2 ^ 22 + 5) = none
       ∧ (r 7).inPod ((2 ^ 22 + 5) / 2 ^ 22 % 2 ^ 10) = true)
    ∧ (receiving (packet1 .msg .plain)).arrived (packet1 .msg .plain) .msg = some 0 ∧ (receiving (packet1 .spn .plain)).arrived (packet1 .spn .plain) .spn = some 0
    ∧ (receiving (packet1 .spn .plain)).items = [] := by decide +kernel

theorem wit_RequestPackets_bar :
    let p := { packet1 .bar (.bar .arr 0) with addr := localPa 255 0x1FFEF0, bytes := 16 }
    let s : State := { receiving p with mem := Memory.puts [] (localPa 255 0x1FFEF0) { bar1 with scp := 4 }.bytes }
    s.arrived p .bar = some 0 ∧ s.packetCheck p = none
    ∧ (match s.barOp .arr p.addr { tag := p.tag, chip := p.src, core := fld p.hnd 16 8, group := none } p.hnd (some p) with | .ok _ _ => true | _ => false) = true := by
  decide +kernel

theorem wit_AnswerPackets :
    let f := { packet1 .rd .plain with dst := 1 }
    let s : State := { one (thr []) with hvpod := 0x1000000, transit := [{ pkt := f, port := none, buf := none, got := [] }], links := [(4, link1 .active), (5, link1 .active)] }
    let a := packet1 .rsp .plain
    let t (w : TxFor) : Tx := { seq := 3, ctx := 0, what := w, pkt := { packet1 .put .plain with src := 0, dst := 1 }, due := 0, drops := 0 }
    let x := store1 .sent
    let q : State := { receiving a with txs := [t (.store 4)], stores := [x], items := [item1 (.vput (2 ^ 22 + 5) 0 9) .far] }
    s.transit[0]? = some { pkt := f, port := none, buf := none, got := [] } ∧ f.dst ≠ s.chip ∧ s.behindPacket 0 f = false ∧ s.inPod f.dst = true ∧ (s.route f.dst).isSome = true
    ∧ (s.link ((s.route f.dst).getD 0)).up = true ∧ PKind.asks f.kind = true ∧ (({ s with links := [] } : State).route f.dst).isSome = true
    ∧ (({ s with links := [] } : State).link ((s.route f.dst).getD 0)).st = .down ∧ ({ s with hvpod := 0 } : State).inPod f.dst = false
    ∧ ({ s with hvpod := 0 } : State).behindPacket 0 f = false ∧ ({ receiving (packet1 .kill .plain) with ranges := [] } : State).arrived (packet1 .kill .plain) .kill = some 0
    ∧ (receiving (packet1 .kill .plain)).arrived (packet1 .kill .plain) .kill = some 0
    ∧ (receiving (packet1 .kill .plain)).ranges.get? 16 = some { base := 0, limit := ones, perm := 15, ctag := 7 } ∧ s.ctxOfTag 7 = some 0 ∧ (s.ctx 0).st = .opened
    ∧ (receiving (packet1 .kack .plain)).arrived (packet1 .kack .plain) .kack = some 0 ∧ q.arrived a .rsp = some 0 ∧ q.tx? 3 = some (t (.store 4))
    ∧ (t (.store 4)).pkt.tag = a.tag ∧ (t (.store 4)).due ≤ q.now ∧ q.stores.find? (fun y => y.id = 4) = some x ∧ place x.tgt.pa = .spad 255 16
    ∧ (q.items.find? fun j => j.id = 6) = some (item1 (.vput (2 ^ 22 + 5) 0 9) .far) ∧ (receiving a).tx? 3 = none
    ∧ (receiving (packet1 .rty .plain)).arrived (packet1 .rty .plain) .rty = some 0 ∧ { packet1 .rty .plain with aux := rtyListed }.aux = rtyListed
    ∧ (let l : State := { receiving a with txs := [t (.item 6)], items := [item1 (.send 63 32 2 (zeros 32)) .listed] }
       l.tx? 3 = some (t (.item 6)) ∧ l.item? 6 = some (item1 (.send 63 32 2 (zeros 32)) .listed) ∧ (t (.item 6)).due ≤ l.now)
    ∧ (∀ k, q.txCore (t (.store 4)) = some k → (q.core k).clockRuns = true)
    ∧ (∀ k, q.txCore (t (.load T0 0)) = some k → (q.core k).clockRuns = true) ∧ (∀ k, q.txCore (t (.bar 0)) = some k → (q.core k).clockRuns = true)
    ∧ ({ receiving { packet1 .rty .plain with aux := rtyListed } with txs := [t (.load T0 0)] } : State).tx? 3 = some (t (.load T0 0)) := by decide +kernel

theorem wit_EthernetEvents :
    let s (st : EthSt) : State := { State.reset with now := 1000000000, eths := [(1, { Eth.reset with st := st, retry := true })] }
    ((s .down).eth 1).st = .down ∧ ((s .neg).eth 1).st = .neg ∧ ((s .train).eth 1).since + 500000000 ≤ (s .train).now ∧ ((s .down).eth 1).retry = true
    ∧ ((s .down).eth 1).since + 1000000000 ≤ (s .down).now ∧ ((s .up).eth 1).st = .up ∧ ((s .fault).eth 1).since + 100000000 ≤ (s .fault).now
    ∧ ({ s .fault with now := 99999999 } : State).now < ((s .fault).eth 1).since + 100000000 := by decide +kernel

/-- A core that sleeps, wakes or ramps. -/
def power1 (k : Core) : State := { State.reset with now := 2560000, cores := [(255, k)] }

theorem wit_PowerEvents :
    let d : Die := { Die.reset with shares := [(1000, [(255, 20)])] }
    let c := Core.reset
    (State.reset.die 1).divs * 10000 ≤ 0 ∧ d.shares = [(1000, [(255, 20)])] ∧ 1000 ≤ (power1 c).now ∧ d.pw ≠ 0
    ∧ c.freqRamp = false ∧ bitN (0 : Word).toNat 3 = false ∧ { c with freqRamp := true, freqNew := some 40 }.freqNew = some 40
    ∧ c.clockRuns = true ∧ c.dthr ≠ 0 ∧ c.dthr < 51 ∧ { c with paused := true }.pauseEnd ≤ (power1 c).now ∧ { c with cyc := 1 }.halve < 1
    ∧ (power1 { c with cyc := 64 }).coreBusy 255 = false ∧ { c with cyc := 64 }.busyAt + 64 ≤ 64
    ∧ { c with pow := .idle, reti := 255 }.idleSince + 255 * 10000 ≤ (power1 c).now ∧ (power1 { c with pow := .idle }).coreEmpty 255 = true
    ∧ (∀ j, j < 256 → clusterOf j = clusterOf 255 → ((power1 { c with pow := .gated, wakePend := true }).core j).ramping = false
        ∧ (j ≠ 255 → ((power1 { c with pow := .gated, wakePend := true }).core j).wakePend = false))
    ∧ { c with pow := .gated, wakePend := true }.entered + 20000 ≤ (power1 c).now ∧ { c with ramping := true }.rampAt + 500 ≤ (power1 c).now
    ∧ (power1 c).dark 0 = false := by decide +kernel

end Sys2Proof.Tests
end

section
/-! SUPPORT. SWR (R303): a write of a special register as one update of the state, followed by the commit. -/

namespace Sys2Proof.Machine

open Sys2Proof.Safety

/-- The x registers, the predicates and the chain are those of `t`. -/
def Thread.sameChain (t u : Thread) : Prop :=
  (u.x, u.p, u.npc, u.nnpc, u.a1, u.k1, u.k2) = (t.x, t.p, t.npc, t.nnpc, t.a1, t.k1, t.k2)

theorem Thread.sameChain_iff {t u : Thread} : t.sameChain u ↔
    u.x = t.x ∧ u.p = t.p ∧ u.npc = t.npc ∧ u.nnpc = t.nnpc ∧ u.a1 = t.a1 ∧ u.k1 = t.k1 ∧ u.k2 = t.k2 := by
  simp [Thread.sameChain]

/-- `m` is `s` but for the special registers of the executing thread, which becomes `th`, the cores and the groups. -/
def WritesSpecial (s m : State) (th : Thread) : Prop :=
  m.cur = s.cur ∧ m.slot s.cur = { s.slot s.cur with th := th } ∧ othersSame s m ∧ m.mem = s.mem ∧ s.me.sameChain th

theorem writesSpecial_modMe (s : State) {f : Thread → Thread} (h : s.me.sameChain (f s.me)) : WritesSpecial s (s.modMe f) (f s.me) :=
  ⟨rfl, s.modMe_slot_cur f, fun _ hid => Tab.getD_set_ne _ _ _ (Ne.symm hid), rfl, h⟩

theorem writesSpecial_of_slots {s m : State} (hc : m.cur = s.cur) (hs : m.slots = s.slots) (hm : m.mem = s.mem) :
    WritesSpecial s m s.me := by
  have hslot : ∀ id, m.slot id = s.slot id := fun id => by unfold State.slot; rw [hs]
  exact ⟨hc, hslot _, fun id _ => hslot id, hm, rfl⟩

/-- What a SWR of a special register ends with: `sets` of `Obligations.SystemWrites`. -/
def SetsSpecial (i : Instr) (s : State) (post : State → Prop) : Prop :=
  ∃ t, exec i s = .next t ∧ advanced s t ∧ post t
    ∧ (∀ r, t.me.xr r = s.me.xr r) ∧ (∀ q, t.me.pr q = s.me.pr q) ∧ t.mem = s.mem ∧ othersSame s t

/-- The commit of a READY thread after a write of special registers, of cores or of groups. -/
theorem setsSpecial_of_commit {i : Instr} {s m : State} {th : Thread} {post : State → Prop} (hr : (s.slot s.cur).st = .ready)
    (he : exec i s = .next m.commit) (hm : WritesSpecial s m th)
    (hpost : ∀ t : State, t.cur = s.cur → t.cores = m.cores → t.groups = m.groups → t.me = th.committed none false → post t) :
    SetsSpecial i s post := by
  obtain ⟨hc, hslot, hothers, hmem, hsame⟩ := hm
  obtain ⟨hx, hp, hnpc, hnnpc, ha1, hk1, hk2⟩ := Thread.sameChain_iff.1 hsame
  have hms : m.slot m.cur = { s.slot s.cur with th := th } := by rw [hc]; exact hslot
  have hmm : m.me = th := by unfold State.me State.thread; rw [hms]
  have hcommit : m.commit = { m.modMe (fun t => t.committed none false) with issueq := markRest m m.me.pairRest } :=
    State.commitTaken_ready (by rw [hms]; exact hr) none false
  rw [hcommit] at he
  have hslot' : State.slot { m.modMe (fun t => t.committed none false) with issueq := markRest m m.me.pairRest } m.cur
      = { s.slot s.cur with th := th.committed none false } := by
    have := m.modMe_slot_cur fun t => t.committed none false
    rw [hmm, hms] at this
    exact this
  have hme : State.me { m.modMe (fun t => t.committed none false) with issueq := markRest m m.me.pairRest }
      = th.committed none false := congrArg Slot.th hslot'
  refine ⟨_, he, ?_, hpost _ hc rfl rfl hme, fun r => ?_, fun q => ?_, hmem, fun id hid => ?_⟩
  · unfold advanced
    rw [hme]
    refine ⟨hnpc, hnnpc, congrArg nextPc hnnpc, ?_, rfl, hk1, hk2, rfl, ?_⟩
    · simp [Thread.committed, Thread.advance, ha1]
    · exact (congrArg Slot.st hslot').trans hr
  · rw [hme]; exact congrArg (·[r]) hx
  · rw [hme]; unfold Thread.pr; exact congrArg (fun p => if q = 0 then ones else p[q]) hp
  · exact (Tab.getD_set_ne _ _ _ (by rw [hc]; exact Ne.symm hid)).trans (hothers id hid)

theorem privileged_of {b : Bool} {s : State} (h : b = true → s.me.priv = true) (o : Host.Outcome State Fault Refusal) :
    privileged b s o = o := by
  unfold privileged
  cases b with
  | false => rfl
  | true => rw [h rfl]; rfl

/-- SWR of a register that is there and can be written, by a thread that may write it, is the write and the commit. -/
theorem exec_swr_of_runs {s : State} {g : Guard} {xa : XReg} (h : runs s g [xa] = true) {n : BitVec 12}
    (hn : srKnown n = true ∧ srReadOnly n = false) (hp : srPrivWrite n.toNat = true → s.me.priv = true)
    (hg : srGroup n.toNat = true → s.myGroup?.isNone = false) :
    exec (.swr g n xa) s = .next (s.srWrite n.toNat (s.me.xr xa)).commit := by
  have hgrp : (srGroup n.toNat && s.myGroup?.isNone) = false := by
    cases hb : srGroup n.toNat with
    | false => rfl
    | true => exact hg hb
  show execSwr g n xa s = _
  unfold execSwr
  rw [hn.1, hn.2, privileged_of hp, guarded_runs h (List.Subset.refl _)]
  simp only [Bool.not_true, Bool.or_self, Bool.false_eq_true, if_false, hgrp]

section
variable {s : State} {g : Guard} {xa : XReg} (h : runs s g [xa] = true) {n : BitVec 12} {post : State → Prop}
include h

/-- SWR of a register of the thread. -/
theorem swr_thread (f : Thread → Thread) (hn : (srKnown n && !srReadOnly n && !srGroup n.toNat) = true)
    (hp : srPrivWrite n.toNat = true → s.me.priv = true) (hw : s.srWrite n.toNat (s.me.xr xa) = s.modMe f)
    (hf : s.me.sameChain (f s.me)) (hpost : ∀ t : State, t.me = (f s.me).committed none false → post t) :
    SetsSpecial (.swr g n xa) s post := by
  simp only [Bool.and_eq_true, Bool.not_eq_true'] at hn
  have he := exec_swr_of_runs h hn.1 hp (by simp [hn.2])
  rw [hw] at he
  exact setsSpecial_of_commit (freeRegs_ready (runs_freeRegs h)) he (writesSpecial_modMe s hf) fun t _ _ _ hme => hpost t hme

/-- SWR of a register of the core. -/
theorem swr_core (f : Core → Core) (hn : (srKnown n && !srReadOnly n && !srGroup n.toNat) = true) (hp : s.me.priv = true)
    (hw : s.srWrite n.toNat (s.me.xr xa) = s.modMyCore f) (hpost : ∀ t : State, t.myCore = f s.myCore → post t) :
    SetsSpecial (.swr g n xa) s post := by
  simp only [Bool.and_eq_true, Bool.not_eq_true'] at hn
  have he := exec_swr_of_runs h hn.1 (fun _ => hp) (by simp [hn.2])
  rw [hw] at he
  refine setsSpecial_of_commit (freeRegs_ready (runs_freeRegs h)) he (writesSpecial_of_slots rfl rfl rfl) fun t hc hk _ _ => hpost t ?_
  unfold State.myCore State.core
  rw [hc, hk]
  exact Tab.getD_set_self _ _ _ _

/-- SWR of a register of the group `k`, which is there. -/
theorem swr_group {k : Nat} (hk : s.me.group = some k) (hs : (s.groups.get? k).isSome = true) (f : Group → Group)
    (hn : (srKnown n && !srReadOnly n && !srPrivWrite n.toNat) = true)
    (hw : s.srWrite n.toNat (s.me.xr xa) = match s.me.group with | some g => s.modGroup g f | none => s)
    (hpost : ∀ t : State, t.group k = f (s.group k) → post t) : SetsSpecial (.swr g n xa) s post := by
  simp only [Bool.and_eq_true, Bool.not_eq_true'] at hn
  have hmy : s.myGroup?.isNone = false := by
    unfold State.myGroup?
    rw [hk, Option.bind_some, Option.isNone_eq_false_iff]
    exact hs
  have he := exec_swr_of_runs h hn.1 (by simp [hn.2]) fun _ => hmy
  simp only [hw, hk] at he
  refine setsSpecial_of_commit (freeRegs_ready (runs_freeRegs h)) he (writesSpecial_of_slots rfl rfl rfl) fun t _ _ hg _ => hpost t ?_
  unfold State.group
  rw [hg]
  exact Tab.getD_set_self _ _ _ _

end

/-- A value is never below 0, so only the upper bound of sr.agecap clips (R234). -/
theorem clip_zero (hi v : Nat) : clip 0 hi v = Nat.min hi v := congrArg (Nat.min hi) (Nat.zero_max v)

/-- Settles O23: each register is one update of the thread, of its core or of its group, followed by the commit. -/
theorem systemWrites : Obligations.SystemWrites := by
  intro s g xa h v sets
  refine ⟨fun hp => ?_, ?_, fun n hn hs => ?_⟩
  · have priv : ∀ {n : Nat}, srPrivWrite n = true → s.me.priv = true := fun _ => hp
    refine ⟨?_, ?_, ?_, ?_, ?_, ?_, ?_, ?_, ?_, ?_, ?_, ?_, ?_, ?_, ?_⟩
    · exact swr_thread h (fun t => { t with tvec := v }) rfl priv rfl rfl fun t ht => by rw [ht]; rfl
    · exact swr_thread h (fun t => { t with tcause := v &&& 0x1FF }) rfl priv rfl rfl fun t ht => by rw [ht]; rfl
    · exact swr_thread h (fun t => { t with taddr := v }) rfl priv rfl rfl fun t ht => by rw [ht]; rfl
    · exact swr_thread h (fun t => { t with tpc0 := v }) rfl priv rfl rfl fun t ht => by rw [ht]; rfl
    · exact swr_thread h (fun t => { t with tpc1 := v }) rfl priv rfl rfl fun t ht => by rw [ht]; rfl
    · exact swr_thread h (fun t => { t with tpc2 := v }) rfl priv rfl rfl fun t ht => by rw [ht]; rfl
    · exact swr_thread h (fun t => { t with tann := v &&& 0x1F }) rfl priv rfl rfl fun t ht => by rw [ht]; rfl
    · exact swr_thread h (fun t => { t with tsave0 := v }) rfl priv rfl rfl fun t ht => by rw [ht]; rfl
    · exact swr_thread h (fun t => { t with tsave1 := v }) rfl priv rfl rfl fun t ht => by rw [ht]; rfl
    · exact swr_thread h (fun t => { t with bkpt := v &&& 0x8000FFFFFFFFFFFF }) rfl priv rfl rfl fun t ht => by rw [ht]; rfl
    · exact swr_thread h (fun t => { t with watch := v &&& 0xE000FFFFFFFFFFC0 }) rfl priv rfl rfl fun t ht => by rw [ht]; rfl
    · refine swr_thread h (fun t => { t with ne := v.getLsbD 1, bsk := v.getLsbD 3 }) rfl priv rfl rfl fun t ht => ?_
      rw [ht]
      exact ⟨rfl, rfl, hp⟩
    · exact swr_core h (fun k => { k with ageq := clip 16 65536 v.toNat }) rfl hp rfl fun t ht => by rw [ht]; rfl
    · exact swr_core h (fun k => { k with agecap := clip 0 127 v.toNat }) rfl hp rfl fun t ht => by rw [ht]; exact clip_zero _ _
    · exact swr_core h (fun k => { k with dthr := v.toNat % 256 }) rfl hp rfl fun t ht => by rw [ht]
  · exact swr_thread h (fun t => { t with putfail := v &&& 0x80FFFF3FFFFFFFFF }) rfl nofun rfl rfl fun t ht => by rw [ht]; rfl
  · refine ⟨?_, ?_, ?_, ?_⟩
    · exact swr_group h hn hs (fun g => { g with mfmt := v &&& 0x1FF }) rfl rfl fun t ht => by rw [ht]
    · exact swr_group h hn hs (fun g => { g with ascl := v }) rfl rfl fun t ht => by rw [ht]
    · exact swr_group h hn hs (fun g => { g with bscl := v }) rfl rfl fun t ht => by rw [ht]
    · exact swr_group h hn hs (fun g => { g with vflags := v &&& 0x1F }) rfl rfl fun t ht => by rw [ht]

end Sys2Proof.Machine
end

section
/-! SUPPORT. The canonical form of memory (log 3) is kept by every function of the model that a step is made of. Memory changes through
`State.store` and `State.zero` alone, which keep it; for every other function the lemma `<function>_canonical` follows the branches of
the function and cites the lemmas of those it calls. A function that leaves the memory field alone has its hypothesis as proof. The
lemmas stand in the order of the model. -/

namespace Sys2Proof.Machine

open Sys2Proof.Safety

/-! ### Results that carry a state

Each predicate says that the state a result carries, if it carries one, has canonical memory. The lemmas `of_eq` read it off where a
match has named the result of a call. -/

/-- The next state, if there is one, has canonical memory. -/
def NextCanonical : Host.Outcome State Fault Refusal → Prop
  | .next s => MemoryCanonical s
  | .fault _ | .refused _ => True

/-- The state next to a value has canonical memory. -/
def PairCanonical {α : Type} (p : α × State) : Prop := MemoryCanonical p.2

/-- The state next to two values has canonical memory. -/
def TripleCanonical {α β : Type} (p : α × β × State) : Prop := MemoryCanonical p.2.2

/-- The state, if there is one, has canonical memory. -/
def OptionCanonical : Option State → Prop
  | some s => MemoryCanonical s
  | none => True

/-- The state next to a value, if there is one, has canonical memory. -/
def OptionPairCanonical {α : Type} : Option (α × State) → Prop
  | some p => PairCanonical p
  | none => True

/-- The state, unless there is a cause instead, has canonical memory. -/
def ExceptCanonical : Except Cause State → Prop
  | .ok s => MemoryCanonical s
  | .error _ => True

/-- The state has canonical memory, of the check that passed as of the one that trapped. -/
def ExceptPairCanonical {α : Type} : Except State (α × State) → Prop
  | .ok p => PairCanonical p
  | .error s => MemoryCanonical s

/-- What the issue position made ready carries canonical memory. -/
def Prepared.Canonical : Prepared → Prop
  | .stop s | .run _ s => MemoryCanonical s

/-- What a part of an access gives carries canonical memory. -/
def PartRes.Canonical : PartRes → Prop
  | .data _ s | .later s => MemoryCanonical s
  | .err _ => True

/-- What the walk over a range gives carries canonical memory. -/
def Ranged.Canonical : Ranged → Prop
  | .ok _ s | .stop s => MemoryCanonical s

/-- The answer to a request carries canonical memory. -/
def Answer.Canonical (a : Answer) : Prop := MemoryCanonical a.s

/-- What a write of a command gives carries canonical memory. -/
def Put.Canonical : Put → Prop
  | .done s | .later s | .err _ s => MemoryCanonical s

/-- What a fetch gives carries canonical memory. -/
def Fetched.Canonical : Fetched → Prop
  | .line _ s | .stop s => MemoryCanonical s

/-- What an operation on a barrier gives carries canonical memory. -/
def BarRes.Canonical : BarRes → Prop
  | .ok _ s | .wait s => MemoryCanonical s
  | .err _ => True

/-- What the checks of an access give carries canonical memory. -/
def Checked.Canonical : Checked → Prop
  | .go _ s | .stop s => MemoryCanonical s

/-- What the admission of an access gives carries canonical memory. -/
def Gate.Canonical : Gate → Prop
  | .go _ s | .later s => MemoryCanonical s
  | .full | .refused _ => True

/-- What serving a packet gives carries canonical memory. -/
def Served.Canonical : Served → Prop
  | .answer _ _ _ s | .retry s | .queued s | .later s | .more _ s => MemoryCanonical s

/-- What a read of a command gives carries canonical memory. -/
def Got.Canonical : Got → Prop
  | .data _ s | .later s | .err _ s => MemoryCanonical s

/-- What a step of a queue pair gives carries canonical memory. -/
def Rdma.Canonical : Rdma → Prop
  | .ok s | .wait s => MemoryCanonical s
  | .denied => True

/-- What a translation gives carries canonical memory. -/
def Xlated.Canonical : Xlated → Prop
  | .ok _ s | .fault _ _ s | .wait s => MemoryCanonical s

/-- What a put gives carries canonical memory. -/
def PutRes.Canonical : PutRes → Prop
  | .reply _ _ s | .queue _ s => MemoryCanonical s
  | .goOn _ | .away _ => True

theorem NextCanonical.of_eq {o o'} (h : NextCanonical o) (e : o = o') : NextCanonical o' := e ▸ h
theorem PairCanonical.of_eq {α : Type} {o o' : α × State} (h : PairCanonical o) (e : o = o') :
    PairCanonical o' := e ▸ h
theorem TripleCanonical.of_eq {α β : Type} {o o' : α × β × State} (h : TripleCanonical o) (e : o = o') :
    TripleCanonical o' := e ▸ h
theorem OptionCanonical.of_eq {o o'} (h : OptionCanonical o) (e : o = o') : OptionCanonical o' := e ▸ h
theorem OptionPairCanonical.of_eq {α : Type} {o o' : Option (α × State)} (h : OptionPairCanonical o) (e : o = o') :
    OptionPairCanonical o' := e ▸ h
theorem ExceptCanonical.of_eq {o o'} (h : ExceptCanonical o) (e : o = o') : ExceptCanonical o' := e ▸ h
theorem ExceptPairCanonical.of_eq {α : Type} {o o' : Except State (α × State)} (h : ExceptPairCanonical o) (e : o = o') :
    ExceptPairCanonical o' := e ▸ h
theorem Prepared.Canonical.of_eq {o o'} (h : Prepared.Canonical o) (e : o = o') : o'.Canonical := e ▸ h
theorem PartRes.Canonical.of_eq {o o'} (h : PartRes.Canonical o) (e : o = o') : o'.Canonical := e ▸ h
theorem Ranged.Canonical.of_eq {o o'} (h : Ranged.Canonical o) (e : o = o') : o'.Canonical := e ▸ h
theorem Put.Canonical.of_eq {o o'} (h : Put.Canonical o) (e : o = o') : o'.Canonical := e ▸ h
theorem Fetched.Canonical.of_eq {o o'} (h : Fetched.Canonical o) (e : o = o') : o'.Canonical := e ▸ h
theorem BarRes.Canonical.of_eq {o o'} (h : BarRes.Canonical o) (e : o = o') : o'.Canonical := e ▸ h
theorem Checked.Canonical.of_eq {o o'} (h : Checked.Canonical o) (e : o = o') : o'.Canonical := e ▸ h
theorem Gate.Canonical.of_eq {o o'} (h : Gate.Canonical o) (e : o = o') : o'.Canonical := e ▸ h
theorem Served.Canonical.of_eq {o o'} (h : Served.Canonical o) (e : o = o') : o'.Canonical := e ▸ h
theorem Got.Canonical.of_eq {o o'} (h : Got.Canonical o) (e : o = o') : o'.Canonical := e ▸ h
theorem Rdma.Canonical.of_eq {o o'} (h : Rdma.Canonical o) (e : o = o') : o'.Canonical := e ▸ h
theorem Xlated.Canonical.of_eq {o o'} (h : Xlated.Canonical o) (e : o = o') : o'.Canonical := e ▸ h
theorem PutRes.Canonical.of_eq {o o'} (h : PutRes.Canonical o) (e : o = o') : o'.Canonical := e ▸ h

/-! ### Conditionals and folds -/

theorem ite_holds {α : Type} {P : α → Prop} {c : Prop} [Decidable c] {a b : α} (ha : P a) (hb : P b) :
    P (if c then a else b) := by
  split
  · exact ha
  · exact hb

theorem foldl_holds {α β : Type} {P : α → Prop} {f : α → β → α} {l : List β} {a : α} (h : P a)
    (hf : ∀ a, P a → ∀ b, P (f a b)) : P (l.foldl f a) := by
  induction l generalizing a with
  | nil => exact h
  | cons x l ih => exact ih (hf a h x)

theorem getD_holds {o : Option State} {s : State} (ho : OptionCanonical o) (h : MemoryCanonical s) :
    MemoryCanonical (o.getD s) := by
  cases o with
  | none => exact h
  | some t => exact ho

/-- A request's meaning keeps memory canonical. -/
def ServeCanonical (f : Serve) : Prop := ∀ i k r s, MemoryCanonical s → Answer.Canonical (f i k r s)

theorem map_canonical {α : Type} {o : Option (α × State)} {f : α × State → State} (ho : OptionPairCanonical o)
    (hf : ∀ p, PairCanonical p → MemoryCanonical (f p)) : OptionCanonical (o.map f) := by
  cases o with
  | none => exact trivial
  | some p => exact hf p ho

theorem foldlM_canonical {α : Type} {f : State → α → Option State} {l : List α} {s} (h : MemoryCanonical s)
    (hf : ∀ t, MemoryCanonical t → ∀ b, OptionCanonical (f t b)) : OptionCanonical (l.foldlM f s) := by
  induction l generalizing s with
  | nil => exact h
  | cons x l ih =>
    rw [List.foldlM_cons]
    cases e : f s x with
    | none => exact trivial
    | some t => exact ih ((hf s h x).of_eq e)

/-- A state whose memory is canonical, whatever its other fields are. -/
theorem State.mk_canonical {
    now mem full ecc spads eccAcc eccV slots cores clusters groups dir stores nextStore ldeq items nextItem images moves
    outrider ctxs rings nextRing launches nextLaunch lastCtx regions frames zeroq nextZero shoots moving holdq fullq bw
    refills bwq nextBw hvpod links ranges txs nextSeq transit eths pds regionsMr qps dies far cur issueq agenda hostw turn
    tick}
    (h : Memory.wf mem = true) : MemoryCanonical (.mk
    now mem full ecc spads eccAcc eccV slots cores clusters groups dir stores nextStore ldeq items nextItem images moves
    outrider ctxs rings nextRing launches nextLaunch lastCtx regions frames zeroq nextZero shoots moving holdq fullq bw
    refills bwq nextBw hvpod links ranges txs nextSeq transit eths pds regionsMr qps dies far cur issueq agenda hostw turn
    tick) := h

theorem State.store_canonical {s a d} (h : MemoryCanonical s) : MemoryCanonical (s.store a d) :=
  State.store_mem_wf h a d

theorem State.zero_canonical {s a n} (h : MemoryCanonical s) : MemoryCanonical (s.zero a n) :=
  State.zero_mem_wf h a n

/-! ### `Sys2Proof/Machine/Mem.lean` -/

theorem State.claim_canonical {s c a n} (h : MemoryCanonical s) : MemoryCanonical (s.claim c a n) := by
  unfold State.claim
  split <;> exact h

theorem State.storeFor_canonical {s c a d} (h : MemoryCanonical s) : MemoryCanonical (s.storeFor c a d) :=
  State.claim_canonical (State.store_canonical h)

theorem State.setFull_canonical {s a v} (h : MemoryCanonical s) : MemoryCanonical (s.setFull a v) := ite_holds h h

theorem State.zeroSpads_canonical {s c} (h : MemoryCanonical s) : MemoryCanonical (s.zeroSpads c) :=
  State.mk_canonical (foldl_holds h (fun _ h1 _ => State.zero_canonical h1))

/-! ### `Sys2Proof/Machine/Acc.lean` -/

theorem State.choose_canonical {s l} (h : MemoryCanonical s) : PairCanonical (s.choose l) := h

theorem State.setCore_canonical {s c k} (h : MemoryCanonical s) : MemoryCanonical (s.setCore c k) := h

theorem State.modCore_canonical {s c f} (h : MemoryCanonical s) : MemoryCanonical (s.modCore c f) := h

theorem State.setSlot_canonical {s t x} (h : MemoryCanonical s) : MemoryCanonical (s.setSlot t x) := h

theorem State.modSlot_canonical {s t f} (h : MemoryCanonical s) : MemoryCanonical (s.modSlot t f) := h

theorem State.modMe_canonical {s f} (h : MemoryCanonical s) : MemoryCanonical (s.modMe f) := h

theorem State.atTid_canonical {s t} (h : MemoryCanonical s) : MemoryCanonical (s.at_ t) := h

theorem State.modGroup_canonical {s n f} (h : MemoryCanonical s) : MemoryCanonical (s.modGroup n f) := h

theorem State.modCtx_canonical {s c f} (h : MemoryCanonical s) : MemoryCanonical (s.modCtx c f) := h

theorem State.modLaunch_canonical {s k f} (h : MemoryCanonical s) : MemoryCanonical (s.modLaunch k f) := by
  unfold State.modLaunch
  split <;> exact h

theorem State.modLink_canonical {s p f} (h : MemoryCanonical s) : MemoryCanonical (s.modLink p f) := h

theorem State.irq_canonical {s} (h : MemoryCanonical s) : MemoryCanonical s.irq := h

theorem State.irqIf_canonical {s c} (h : MemoryCanonical s) : MemoryCanonical (s.irqIf c) := ite_holds h h

theorem State.setRing_canonical {s k r} (h : MemoryCanonical s) : MemoryCanonical (s.setRing k r) :=
  foldl_holds h (fun _ h1 _ => State.store_canonical h1)

theorem State.record_canonical {s c kind item st cause reason addr} (h : MemoryCanonical s) :
    MemoryCanonical (s.record c kind item st cause reason addr) := by
  unfold State.record
  extract_lets
  split
  · exact h
  · exact ite_holds (State.setRing_canonical h) (State.irq_canonical (State.setRing_canonical h))

/-! ### `Sys2Proof/Machine/Kill.lean` -/

theorem State.post_canonical {s p} (h : MemoryCanonical s) : MemoryCanonical (s.post p) := h

theorem State.dirDead_canonical {s name} (h : MemoryCanonical s) : MemoryCanonical (s.dirDead name) := by
  unfold State.dirDead
  split
  · exact ite_holds h h
  · exact h

theorem State.dropBindRec_canonical {s name c} (h : MemoryCanonical s) : MemoryCanonical (s.dropBindRec name c) := by
  unfold State.dropBindRec
  extract_lets _ s1
  have h1 : MemoryCanonical s1 := by
    unfold s1
    split
    · exact State.zero_canonical h
    · exact h
  exact h1

theorem State.dropGroup_canonical {s name} (h : MemoryCanonical s) : MemoryCanonical (s.dropGroup name) := by
  unfold State.dropGroup
  split
  · exact h
  · exact ite_holds (State.dropBindRec_canonical h) h

theorem State.dropVia_canonical {s l} (h : MemoryCanonical s) : MemoryCanonical (s.dropVia l) :=
  foldl_holds h (fun _ h1 _ => h1)

theorem killSlots_canonical {c s} (h : MemoryCanonical s) : MemoryCanonical (killSlots c s) := h

theorem killFar_canonical {c s} (h : MemoryCanonical s) : MemoryCanonical (killFar c s) :=
  State.mk_canonical (foldl_holds h (fun _ h1 _ => h1))

theorem killWaiters_canonical {c s} (h : MemoryCanonical s) : MemoryCanonical (killWaiters c s) := h

theorem killCmds_canonical {c s} (h : MemoryCanonical s) : MemoryCanonical (killCmds c s) :=
  State.mk_canonical (foldl_holds h (fun _ h1 _ => State.record_canonical h1))

theorem killLaunches_canonical {c s} (h : MemoryCanonical s) : MemoryCanonical (killLaunches c s) :=
  foldl_holds (foldl_holds h (fun _ h1 _ => State.record_canonical h1)) (fun _ h1 _ => State.modLaunch_canonical h1)

theorem killOps_canonical {c s} (h : MemoryCanonical s) : MemoryCanonical (killOps c s) :=
  State.mk_canonical
    (foldl_holds (foldl_holds h (fun _ h1 _ => State.record_canonical h1)) (fun _ h1 _ => State.record_canonical h1))

theorem killQueues_canonical {c s} (h : MemoryCanonical s) : MemoryCanonical (killQueues c s) := by
  unfold killQueues
  extract_lets one _
  have hone : ∀ u, MemoryCanonical u → ∀ t, MemoryCanonical (one u t) := by
    intro t h1 x
    unfold one
    extract_lets
    refine foldl_holds
      (foldl_holds h1 (fun _ h2 _ =>
        ite_holds (State.zero_canonical (foldl_holds h2 (fun _ h3 _ => State.record_canonical h3))) h2))
      fun t1 h2 x1 => ?_
    split
    · exact ite_holds (State.record_canonical h2) h2
    · exact h2
  exact State.mk_canonical (foldl_holds h (fun _ h1 _ => hone _ h1 _))

theorem dropQueues_canonical {c cause s} (h : MemoryCanonical s) : MemoryCanonical (dropQueues c cause s) :=
  State.modCtx_canonical (foldl_holds h (fun _ h1 _ => foldl_holds h1 (fun _ h2 _ => State.record_canonical h2)))

theorem killQps_canonical {c s} (h : MemoryCanonical s) : MemoryCanonical (killQps c s) :=
  State.mk_canonical
    (foldl_holds h (fun _ h1 _ => ite_holds (foldl_holds h1 (fun _ h2 _ => State.record_canonical h2)) h1))

theorem killGroups_canonical {c s} (h : MemoryCanonical s) : MemoryCanonical (killGroups c s) :=
  State.mk_canonical (foldl_holds h (fun _ h1 _ => State.dropGroup_canonical (State.dirDead_canonical h1)))

theorem killPartners_canonical {c s} (h : MemoryCanonical s) : MemoryCanonical (killPartners c s) :=
  foldl_holds h (fun _ h1 _ => h1)

theorem State.kill_canonical {s c reason cause addr} (h : MemoryCanonical s) :
    MemoryCanonical (s.kill c reason cause addr) := by
  unfold State.kill
  extract_lets k s0 s1 s2 s3 s4 s5 s6 s7 s8 s9
  split
  case h_1 | h_2 =>
    have h1 : MemoryCanonical s1 := killCmds_canonical h
    have h2 : MemoryCanonical s2 := killLaunches_canonical h1
    have h3 : MemoryCanonical s3 := killOps_canonical h2
    have h4 : MemoryCanonical s4 := killQueues_canonical h3
    have h5 : MemoryCanonical s5 := dropQueues_canonical h4
    have h6 : MemoryCanonical s6 := killQps_canonical h5
    have h7 : MemoryCanonical s7 := killWaiters_canonical (killFar_canonical h6)
    have h8 : MemoryCanonical s8 := killGroups_canonical h7
    have h9 : MemoryCanonical s9 := killSlots_canonical (State.dropVia_canonical h8)
    exact killPartners_canonical h9
  all_goals exact h

/-! ### `Sys2Proof/Machine/Ops.lean` -/

theorem State.ready_canonical {s} (h : MemoryCanonical s) : MemoryCanonical s.ready := by
  unfold State.ready
  extract_lets
  split <;> exact h

theorem State.commitTaken_canonical {s taken ann} (h : MemoryCanonical s) :
    MemoryCanonical (s.commitTaken taken ann) :=
  ite_holds (State.mk_canonical (State.ready_canonical h)) (State.ready_canonical h)

theorem State.commit_canonical {s} (h : MemoryCanonical s) : MemoryCanonical s.commit := State.commitTaken_canonical h

theorem State.stallOn_canonical {s r} (h : MemoryCanonical s) : MemoryCanonical (s.stallOn r) := h

theorem State.stallOp_canonical {s o} (h : MemoryCanonical s) : MemoryCanonical (s.stallOp o) := h

theorem State.trapWith_canonical {s code addr async keepA0} (h : MemoryCanonical s) :
    MemoryCanonical (s.trapWith code addr async keepA0) :=
  ite_holds (State.kill_canonical h) (State.ready_canonical h)

theorem State.trap_canonical {s c addr} (h : MemoryCanonical s) : MemoryCanonical (s.trap c addr) :=
  State.trapWith_canonical h

theorem State.trapi_canonical {s v} (h : MemoryCanonical s) : MemoryCanonical (s.trapi v) :=
  ite_holds (State.kill_canonical h) (State.ready_canonical h)

theorem State.asyncTrap_canonical {s} (h : MemoryCanonical s) : MemoryCanonical s.asyncTrap := by
  unfold State.asyncTrap
  split
  · exact h
  · exact State.trapWith_canonical h

theorem State.blockOn_canonical {s b} (h : MemoryCanonical s) : MemoryCanonical (s.blockOn b) :=
  ite_holds (State.asyncTrap_canonical h) h

theorem State.trapFetch_canonical {s c addr} (h : MemoryCanonical s) : MemoryCanonical (s.trapFetch c addr) :=
  ite_holds (State.kill_canonical h) (State.trap_canonical h)

theorem State.modHandle_canonical {s n f} (h : MemoryCanonical s) : MemoryCanonical (s.modHandle n f) := by
  unfold State.modHandle
  split
  · exact h
  · split <;> exact h
  · exact h
  · exact h

theorem State.raise_canonical {s n c v} (h : MemoryCanonical s) : MemoryCanonical (s.raise n c v) := by
  unfold State.raise
  extract_lets
  split
  · exact ite_holds
      (State.atTid_canonical (State.asyncTrap_canonical (State.atTid_canonical (State.modHandle_canonical h))))
      (State.modHandle_canonical h)
  · exact State.modHandle_canonical h

theorem State.addEvent_canonical {s n k byHandler} (h : MemoryCanonical s) :
    MemoryCanonical (s.addEvent n k byHandler) := by
  unfold State.addEvent
  split
  · exact h
  · exact ite_holds (State.raise_canonical h) (State.modHandle_canonical h)

theorem State.raiseFloor_canonical {s c} (h : MemoryCanonical s) : MemoryCanonical (s.raiseFloor c) := h

theorem State.wakeCore_canonical {s c} (h : MemoryCanonical s) : MemoryCanonical (s.wakeCore c) := h

theorem State.rouse_canonical {s c} (h : MemoryCanonical s) : PairCanonical (s.rouse c) := ite_holds h h

theorem State.atRunning_canonical {s c} {f : State → State} (h : MemoryCanonical s)
    (hf : ∀ t, MemoryCanonical t → MemoryCanonical (f t)) : MemoryCanonical (s.atRunning c f) := by
  unfold State.atRunning
  split
  next e => exact hf _ ((State.rouse_canonical h).of_eq e)
  next e => exact (State.rouse_canonical h).of_eq e

theorem State.onlyWakes_canonical {s done} (h : MemoryCanonical s) : MemoryCanonical (s.onlyWakes done) := h

theorem State.create_canonical {s core t} (h : MemoryCanonical s) : OptionPairCanonical (s.create core t) := by
  unfold State.create
  split
  · exact trivial
  · exact h

theorem State.leaveSlot_canonical {s t d} (h : MemoryCanonical s) : MemoryCanonical (s.leaveSlot t d) := h

theorem State.refuse_canonical {s xd pd pe st} (h : MemoryCanonical s) : MemoryCanonical (s.refuse xd pd pe st) :=
  State.commit_canonical h

theorem State.accept_canonical {s xd pd pe v} (h : MemoryCanonical s) : MemoryCanonical (s.accept xd pd pe v) :=
  State.commit_canonical h

theorem guarded_canonical {g regs s} {effect : State → State} (h : MemoryCanonical s)
    (heffect : ∀ t, MemoryCanonical t → MemoryCanonical (effect t)) : NextCanonical (guarded g regs s effect) := by
  unfold guarded
  show MemoryCanonical _
  refine ite_holds ?_ (State.commit_canonical h)
  split
  · exact State.blockOn_canonical h
  · exact heffect _ h

theorem State.eret_canonical {s} (h : MemoryCanonical s) : MemoryCanonical s.eret := by
  unfold State.eret
  extract_lets
  split
  · exact State.trap_canonical h
  · exact ite_holds (State.ready_canonical h) (State.ready_canonical h)

/-! ### `Sys2Proof/Machine/Page.lean` -/

theorem State.tlbLook_canonical {s core c a} (h : MemoryCanonical s) : OptionPairCanonical (s.tlbLook core c a) := by
  unfold State.tlbLook
  split
  · exact h
  · split
    · exact h
    · exact trivial

theorem State.startWalk_canonical {s c a} (h : MemoryCanonical s) : MemoryCanonical (s.startWalk c a) := by
  unfold State.startWalk
  extract_lets
  split
  · exact h
  · exact ite_holds h h

theorem State.xlate_canonical {s a} (h : MemoryCanonical s) : Xlated.Canonical (s.xlate a) := by
  unfold State.xlate
  extract_lets
  split
  next e => exact ((State.tlbLook_canonical h).of_eq e :)
  · split
    · exact ite_holds h (State.startWalk_canonical h)
    · exact State.startWalk_canonical h

/-! ### `Sys2Proof/Machine/Access.lean` -/

theorem State.checkTarget_canonical {s ea n o t} (h : MemoryCanonical s) :
    Checked.Canonical (s.checkTarget ea n o t) := by
  unfold State.checkTarget
  extract_lets own shape bad ring w
  clear_value bad ring
  refine ite_holds (State.trap_canonical h) ?_
  split
  · exact State.trap_canonical h
  · split
    · exact State.trap_canonical h
    · exact ite_holds (State.trap_canonical h)
        (ite_holds (State.trap_canonical h) (ite_holds (State.trap_canonical h) h))

theorem State.check_canonical {s ea n al o} (h : MemoryCanonical s) : Checked.Canonical (s.check ea n al o) := by
  unfold State.check
  refine ite_holds (State.trap_canonical h) ?_
  refine ite_holds (State.trap_canonical h) ?_
  refine ite_holds (State.checkTarget_canonical h) ?_
  split
  next e => exact ((State.xlate_canonical h).of_eq e :)
  next e => exact State.trap_canonical ((State.xlate_canonical h).of_eq e)
  next e =>
    have he := (State.xlate_canonical h).of_eq e
    split
    · exact State.trap_canonical he
    · exact State.checkTarget_canonical he

theorem State.bandGone_canonical {s key} (h : MemoryCanonical s) : MemoryCanonical (s.bandGone key) := ite_holds h h

theorem State.admitBand_canonical {s key ctx cls pa n} (h : MemoryCanonical s) :
    PairCanonical (s.admitBand key ctx cls pa n) := by
  unfold State.admitBand
  split
  · exact State.bandGone_canonical h
  · exact ite_holds (State.bandGone_canonical h) (ite_holds h (ite_holds h h))

theorem State.chargeBand_canonical {s cls pa n} (h : MemoryCanonical s) : PairCanonical (s.chargeBand cls pa n) := by
  unfold State.chargeBand
  split
  · exact h
  · exact ite_holds h (ite_holds h h)

theorem State.fullHold_canonical {s key} (h : MemoryCanonical s) : Gate.Canonical (s.fullHold key) := by
  unfold State.fullHold
  split
  · exact trivial
  · exact trivial
  · exact h

theorem State.fullGone_canonical {s key} (h : MemoryCanonical s) : MemoryCanonical (s.fullGone key) := h

theorem State.gateFor_canonical {s from_ key ctx t n cost write} (h : MemoryCanonical s) :
    Gate.Canonical (s.gateFor from_ key ctx t n cost write) := by
  unfold State.gateFor
  split
  · exact trivial
  · exact trivial
  · refine ite_holds trivial ?_
    split
    next e1 => exact ((State.rouse_canonical h).of_eq e1 :)
    next e1 => exact ((State.rouse_canonical h).of_eq e1 :)
  · exact ite_holds h h
  · extract_lets
    split
    · refine ite_holds h ?_
      refine ite_holds (ite_holds (State.fullHold_canonical h) h) ?_
      split
      next e2 => exact State.fullGone_canonical ((State.admitBand_canonical h).of_eq e2)
      next e2 => exact ((State.admitBand_canonical h).of_eq e2 :)
    · split
      next e2 => exact State.fullGone_canonical ((State.admitBand_canonical h).of_eq e2)
      next e2 => exact ((State.admitBand_canonical h).of_eq e2 :)

theorem State.gate_canonical {s from_ key ctx t n write} (h : MemoryCanonical s) :
    Gate.Canonical (s.gate from_ key ctx t n write) :=
  State.gateFor_canonical h

theorem State.agentGate_canonical {s t n write} (h : MemoryCanonical s) : Gate.Canonical (s.agentGate t n write) := by
  unfold State.agentGate
  split
  · exact trivial
  · exact trivial
  · refine ite_holds trivial ?_
    split
    next e1 => exact ((State.rouse_canonical h).of_eq e1 :)
    next e1 => exact ((State.rouse_canonical h).of_eq e1 :)
  · exact ite_holds h h
  · extract_lets
    refine ite_holds h ?_
    split
    next e1 => exact ((State.chargeBand_canonical h).of_eq e1 :)
    next e1 => exact ((State.chargeBand_canonical h).of_eq e1 :)

theorem State.fetchGate_canonical {s t line} (h : MemoryCanonical s) : Gate.Canonical (s.fetchGate t line) := by
  unfold State.fetchGate
  split
  · split
    next e1 => exact ((State.rouse_canonical h).of_eq e1 :)
    next e1 => exact ((State.rouse_canonical h).of_eq e1 :)
  · exact State.gate_canonical h

theorem State.fillLine_canonical {s k chip line d} (h : MemoryCanonical s) :
    MemoryCanonical (s.fillLine k chip line d) :=
  h

theorem State.dropLine_canonical {s k chip line} (h : MemoryCanonical s) : MemoryCanonical (s.dropLine k chip line) :=
  h

theorem State.updateLine_canonical {s k chip pa b} (h : MemoryCanonical s) :
    MemoryCanonical (s.updateLine k chip pa b) :=
  h

/-! ### `Sys2Proof/Machine/Operands.lean` -/

theorem State.writeElems_canonical {s i w l} (h : MemoryCanonical s) : MemoryCanonical (s.writeElems i w l) := by
  unfold State.writeElems
  split <;> exact h

theorem State.touchBank_canonical {s c b} (h : MemoryCanonical s) : PairCanonical (s.touchBank c b) := by
  unfold State.touchBank
  extract_lets
  split <;> exact h

theorem State.bankThen_canonical {s} {k : State → State} (h : MemoryCanonical s)
    (hk : ∀ t, MemoryCanonical t → MemoryCanonical (k t)) : MemoryCanonical (s.bankThen k) := by
  unfold State.bankThen
  split
  next e => exact hk _ ((State.touchBank_canonical h).of_eq e)
  next e => exact State.stallOn_canonical ((State.touchBank_canonical h).of_eq e)

theorem State.readVThen_canonical {s l} {k : State → State} (h : MemoryCanonical s)
    (hk : ∀ t, MemoryCanonical t → MemoryCanonical (k t)) : MemoryCanonical (s.readVThen l k) :=
  ite_holds (State.trap_canonical h) (hk _ h)

/-! ### `Sys2Proof/Machine/Flags.lean` -/

theorem State.orVflags_canonical {s f} (h : MemoryCanonical s) : MemoryCanonical (s.orVflags f) := by
  unfold State.orVflags
  split <;> exact h

/-! ### `Sys2Proof/Machine/MemOps.lean` -/

theorem State.doAtom_canonical {s op pa n b c} (h : MemoryCanonical s) : PairCanonical (s.doAtom op pa n b c) :=
  ite_holds h (ite_holds (State.store_canonical h) h)

theorem State.ldeDone_canonical {s w} (h : MemoryCanonical s) : MemoryCanonical (s.ldeDone w) := by
  unfold State.ldeDone
  extract_lets
  split
  · exact h
  · split
    · exact State.atTid_canonical (ite_holds (State.trap_canonical h) (State.commit_canonical h))
    · exact h

theorem serveLde_canonical {g l s} (h : MemoryCanonical s) : MemoryCanonical (serveLde g l s) := by
  induction l generalizing s with
  | nil => exact h
  | cons w rest ih =>
    unfold serveLde
    split
    · exact ih (ite_holds (State.setFull_canonical (State.ldeDone_canonical h)) (State.ldeDone_canonical h))
    · exact ih h

theorem State.fill_canonical {s pa} (h : MemoryCanonical s) : MemoryCanonical (s.fill pa) :=
  ite_holds h (serveLde_canonical (State.setFull_canonical h))

theorem State.perform_canonical {s x pa} (h : MemoryCanonical s) : PairCanonical (s.perform x pa) := by
  unfold State.perform
  split
  · exact State.storeFor_canonical h
  · exact State.fill_canonical (State.storeFor_canonical h)
  · exact State.setFull_canonical h
  · split
    next e1 => exact State.claim_canonical ((State.doAtom_canonical h).of_eq e1)
    next e1 => exact ((State.doAtom_canonical h).of_eq e1 :)

theorem State.setPhase_canonical {s id p} (h : MemoryCanonical s) : MemoryCanonical (s.setPhase id p) := h

theorem State.goHome_canonical {s x} (h : MemoryCanonical s) : MemoryCanonical (s.goHome x) :=
  ite_holds h (ite_holds h h)

theorem State.send_canonical {s x} (h : MemoryCanonical s) : MemoryCanonical (s.send x) := State.goHome_canonical h

theorem State.drain_canonical {s p} (h : MemoryCanonical s) : MemoryCanonical (s.drain p) :=
  foldl_holds h (fun _ h1 _ => State.send_canonical h1)

theorem State.drainBuffers_canonical {s p} (h : MemoryCanonical s) : MemoryCanonical (s.drainBuffers p) :=
  State.drain_canonical h

theorem State.addStore_canonical {s x} (h : MemoryCanonical s) : MemoryCanonical (s.addStore x) := h

theorem State.drainLine_canonical {s chip line} (h : MemoryCanonical s) : MemoryCanonical (s.drainLine chip line) :=
  State.drainBuffers_canonical h

theorem State.putStore_canonical {s inst ea va t kind d n} (h : MemoryCanonical s) :
    MemoryCanonical (s.putStore inst ea va t kind d n) := by
  unfold State.putStore
  refine ite_holds ?_ ?_
  · extract_lets
    split
    next e => exact State.addStore_canonical ((State.perform_canonical h).of_eq e)
  · refine ite_holds (ite_holds (State.drain_canonical h) h) ?_
    extract_lets _ s2 _ _
    have h1 : MemoryCanonical s2 := by
      unfold s2
      split
      · exact State.dropLine_canonical (State.drainLine_canonical h)
      · exact State.drainLine_canonical h
    exact State.goHome_canonical (ite_holds h1 h1)

theorem State.issueStore_canonical {s va t kind d n} {k : State → State} (h : MemoryCanonical s)
    (hk : ∀ t, MemoryCanonical t → MemoryCanonical (k t)) : MemoryCanonical (s.issueStore va t kind d n k) :=
  ite_holds h (hk _ (State.putStore_canonical h))

theorem State.putPiecesOf_canonical {s inst ea l} (h : MemoryCanonical s) :
    MemoryCanonical (s.putPiecesOf inst ea l) := by
  induction l generalizing s with
  | nil => exact State.commit_canonical h
  | cons p rest ih =>
    unfold State.putPiecesOf
    split
    · exact ih (State.putStore_canonical h)
    · exact State.stallOp_canonical h

theorem State.release_canonical {s} {k : State → State} (h : MemoryCanonical s)
    (hk : ∀ t, MemoryCanonical t → MemoryCanonical (k t)) : MemoryCanonical (s.release k) :=
  ite_holds (hk _ h) (State.stallOn_canonical (State.drainBuffers_canonical h))

theorem State.acquireWait_canonical {s} {k : State → State} (h : MemoryCanonical s)
    (hk : ∀ t, MemoryCanonical t → MemoryCanonical (k t)) : MemoryCanonical (s.acquireWait k) :=
  ite_holds (hk _ h) h

theorem State.acquireAt_canonical {s core sc} (h : MemoryCanonical s) : MemoryCanonical (s.acquireAt core sc) := by
  unfold State.acquireAt
  split <;> exact h

theorem State.readPart_canonical {s t core th key p cost} (h : MemoryCanonical s) :
    PartRes.Canonical (s.readPart t core th key p cost) := by
  unfold State.readPart
  extract_lets
  refine ite_holds h ?_
  split
  · exact h
  · refine ite_holds h ?_
    split
    next e1 => exact ((State.gateFor_canonical h).of_eq e1 :)
    · exact h
    · exact trivial
    next e1 =>
      have he1 := (State.gateFor_canonical h).of_eq e1
      exact ite_holds trivial (ite_holds (State.fillLine_canonical he1) he1)

theorem State.finish_canonical {s parts d} (h : MemoryCanonical s) : MemoryCanonical (s.finish parts d) := by
  unfold State.finish
  extract_lets
  split
  · exact State.commit_canonical h
  · extract_lets _ s2 s3
    have h1 : MemoryCanonical s2 := by
      unfold s2
      split <;> exact h
    have h2 : MemoryCanonical s3 := by
      unfold s3
      split
      · exact State.acquireAt_canonical h1
      · exact h1
    exact State.commit_canonical h2
  · exact State.commit_canonical h
  · exact State.commit_canonical h
  · exact State.commit_canonical (State.writeElems_canonical h)
  · exact State.commit_canonical (State.acquireAt_canonical h)
  · exact State.ready_canonical h

theorem State.dropLoads_canonical {s t i} (h : MemoryCanonical s) : MemoryCanonical (s.dropLoads t i) := h

theorem State.tryFinish_canonical {s parts d} (h : MemoryCanonical s) : MemoryCanonical (s.tryFinish parts d) := by
  unfold State.tryFinish
  refine ite_holds ?_ h
  split
  · exact State.trap_canonical h
  · exact State.finish_canonical h

theorem State.sendPart_canonical {s t d i p} (h : MemoryCanonical s) : MemoryCanonical (s.sendPart t d i p) :=
  ite_holds h h

theorem State.sendLde_canonical {s t ea tgt xd clear} (h : MemoryCanonical s) :
    MemoryCanonical (s.sendLde t ea tgt xd clear) :=
  ite_holds h h

theorem State.sendParts_canonical {s tid parts d} (h : MemoryCanonical s) :
    MemoryCanonical (s.sendParts tid parts d) := by
  unfold State.sendParts
  refine foldl_holds h fun t h1 x => ?_
  split
  · exact State.sendPart_canonical h1
  · exact h1

theorem State.waitParts_canonical {s parts d} (h : MemoryCanonical s) : MemoryCanonical (s.waitParts parts d) :=
  State.sendParts_canonical h

theorem State.sendLdn_canonical {s t n o} (h : MemoryCanonical s) : MemoryCanonical (s.sendLdn t n o) := ite_holds h h

theorem State.performPart_canonical {s t p d cost} (h : MemoryCanonical s) :
    PartRes.Canonical (s.performPart t p d cost) := by
  unfold State.performPart
  split
  · refine ite_holds h ?_
    split
    next e => exact ((State.gate_canonical h).of_eq e :)
    · exact h
    · exact trivial
    next e =>
      split
      next e1 => exact State.claim_canonical ((State.doAtom_canonical ((State.gate_canonical h).of_eq e)).of_eq e1)
      · exact trivial
  · refine ite_holds h ?_
    split
    next e => exact ((State.gate_canonical h).of_eq e :)
    · exact h
    · exact trivial
    next e => exact ((State.gate_canonical h).of_eq e :)
  · refine ite_holds h ?_
    split
    next e => exact ((State.gate_canonical h).of_eq e :)
    · exact h
    · exact trivial
    next e =>
      have he := (State.gate_canonical h).of_eq e
      exact ite_holds (ite_holds trivial (ite_holds (State.setFull_canonical he) he)) he
  · exact State.readPart_canonical h

theorem State.readRecord_canonical {s ea t n} {k : List Byte → State → State} (h : MemoryCanonical s)
    (hk : ∀ a t, MemoryCanonical t → MemoryCanonical (k a t)) : MemoryCanonical (s.readRecord ea t n k) := by
  unfold State.readRecord
  split
  · exact ite_holds (hk _ _ h) (State.waitParts_canonical h)
  · exact ite_holds (ite_holds (hk _ _ h) (ite_holds (State.trap_canonical h) (hk _ _ h)))
      (State.waitParts_canonical h)

/-! ### `Sys2Proof/Machine/Room.lean` -/

theorem State.wakeBank_canonical {s core bank} (h : MemoryCanonical s) : MemoryCanonical (s.wakeBank core bank) :=
  State.touchBank_canonical h

theorem State.spillFresh_canonical {s core key lo hi} (h : MemoryCanonical s) :
    MemoryCanonical (s.spillFresh core key lo hi) :=
  h

theorem State.takeSpill_canonical {s core key n u} (h : MemoryCanonical s) :
    MemoryCanonical (s.takeSpill core key n u) :=
  State.spillFresh_canonical (State.modCore_canonical (foldl_holds h (fun _ h1 _ => State.wakeBank_canonical h1)))

theorem State.freeSpill_canonical {s core key} (h : MemoryCanonical s) : MemoryCanonical (s.freeSpill core key) := h

theorem State.touchSpill_canonical {s core key} (h : MemoryCanonical s) : PairCanonical (s.touchSpill core key) := by
  unfold State.touchSpill
  refine foldl_holds h fun t h1 x => ?_
  split
  next e => exact ((State.touchBank_canonical h1).of_eq e :)

theorem State.unuseSave_canonical {s c key} (h : MemoryCanonical s) : MemoryCanonical (s.unuseSave c key) := h

theorem State.decideFrom_canonical {s core c} (h : MemoryCanonical s) : MemoryCanonical (s.decide_ core c) :=
  State.modCore_canonical (foldl_holds h (fun _ h1 _ => h1))

theorem State.startEvict_canonical {s core only room} (h : MemoryCanonical s) :
    MemoryCanonical (s.startEvict core only room) := by
  unfold State.startEvict
  refine ite_holds h ?_
  split
  · exact State.decideFrom_canonical h
  · exact h

/-! ### `Sys2Proof/Machine/Barrier.lean` -/

theorem State.setBar_canonical {s pa b} (h : MemoryCanonical s) : MemoryCanonical (s.setBar pa b) :=
  State.store_canonical h

theorem State.dropRegions_canonical {s c core rs} (h : MemoryCanonical s) :
    MemoryCanonical (s.dropRegions c core rs) :=
  ite_holds h h

theorem State.barAcquire_canonical {s rs} (h : MemoryCanonical s) : MemoryCanonical (s.barAcquire rs) :=
  State.dropRegions_canonical h

theorem State.wakeWaiter_canonical {s w broken} (h : MemoryCanonical s) : MemoryCanonical (s.wakeWaiter w broken) := by
  unfold State.wakeWaiter
  split
  · exact h
  · split
    · exact State.modHandle_canonical h
    · exact h

theorem State.wakeBar_canonical {s pa p broken} (h : MemoryCanonical s) : MemoryCanonical (s.wakeBar pa p broken) :=
  foldl_holds h (fun _ h1 _ => State.wakeWaiter_canonical h1)

theorem State.complete_canonical {s pa b} (h : MemoryCanonical s) : MemoryCanonical (s.complete pa b) :=
  State.wakeBar_canonical (State.setBar_canonical h)

theorem State.barOp_canonical {s op pa p n far} (h : MemoryCanonical s) : BarRes.Canonical (s.barOp op pa p n far) := by
  unfold State.barOp
  extract_lets
  refine ite_holds trivial ?_
  split
  · exact ite_holds trivial
      (ite_holds trivial (ite_holds trivial (ite_holds trivial (State.claim_canonical (State.setBar_canonical h)))))
  · refine ite_holds ?_ ?_
    · split
      · exact h
      · exact trivial
    · refine ite_holds trivial ?_
      split
      · exact ite_holds trivial
          (ite_holds (State.setBar_canonical h) (ite_holds (State.complete_canonical h) (State.setBar_canonical h)))
      · exact ite_holds trivial
          (ite_holds (ite_holds (State.complete_canonical h) (State.setBar_canonical h)) (State.setBar_canonical h))
      · exact ite_holds h (ite_holds h h)
      · exact h
      · exact h

theorem State.barSub_canonical {s pa n} (h : MemoryCanonical s) : MemoryCanonical (s.barSub pa n) :=
  ite_holds h
    (ite_holds (State.setBar_canonical h)
      (ite_holds (ite_holds (State.complete_canonical h) (State.setBar_canonical h))
        (State.wakeBar_canonical (State.setBar_canonical h))))

theorem State.barName_canonical {s pa n} (h : MemoryCanonical s) : ExceptCanonical (s.barName pa n) :=
  ite_holds trivial (ite_holds trivial (ite_holds trivial (ite_holds trivial (State.setBar_canonical h))))

theorem State.bindTo_canonical {s scp len a xd pd pe} (h : MemoryCanonical s) :
    MemoryCanonical (s.bindTo scp len a xd pd pe) := by
  unfold State.bindTo
  extract_lets
  split
  · refine ite_holds (State.refuse_canonical h) ?_
    split
    · exact State.refuse_canonical h
    · exact ite_holds (State.refuse_canonical h) (State.accept_canonical (State.modGroup_canonical (ite_holds h h)))
  · exact State.refuse_canonical h

theorem State.barDone_canonical {s op t va xd pd pe rs r} (h : MemoryCanonical s) (h1 : BarRes.Canonical r) :
    MemoryCanonical (s.barDone op t va xd pd pe rs r) := by
  unfold State.barDone
  split
  · exact State.trap_canonical h
  · split
    · exact State.blockOn_canonical h1
    · exact h1
  · split
    · exact State.commit_canonical (State.modMe_canonical (ite_holds (State.barAcquire_canonical h1) h1))
    · exact State.commit_canonical (State.barAcquire_canonical h1)
    · exact State.bindTo_canonical h1
    · refine State.commit_canonical ?_
      split <;> exact h1

theorem State.barIssue_canonical {s op t va xd pd pe rs} (h : MemoryCanonical s) :
    MemoryCanonical (s.barIssue op t va xd pd pe rs) := by
  unfold State.barIssue
  refine ite_holds (State.barDone_canonical h (State.barOp_canonical h)) ?_
  refine ite_holds h ?_
  extract_lets
  split
  · exact State.blockOn_canonical h
  · exact h

theorem barIns_canonical {g regs xa s} {k : Word → Target → State → State} (h : MemoryCanonical s)
    (hk : ∀ a b t, MemoryCanonical t → MemoryCanonical (k a b t)) : NextCanonical (barIns g regs xa s k) := by
  unfold barIns
  refine guarded_canonical h (fun t h1 => ?_)
  extract_lets
  split
  next e => exact (State.check_canonical h1).of_eq e
  next e => exact hk _ _ _ ((State.check_canonical h1).of_eq e)

theorem execBarr_canonical {g xd xa s} (h : MemoryCanonical s) : NextCanonical (execBarr g xd xa s) :=
  barIns_canonical h (fun _ _ _ h1 =>
    ite_holds (State.stallOp_canonical (State.drainBuffers_canonical h1)) (State.barIssue_canonical h1))

theorem execBwait_canonical {g xa b s} (h : MemoryCanonical s) : NextCanonical (execBwait g xa b s) := by
  unfold execBwait
  refine barIns_canonical h (fun _ _ _ h1 => ?_)
  split
  · exact State.trap_canonical h1
  · exact State.commit_canonical (State.barAcquire_canonical h1)
  · exact State.barIssue_canonical h1

theorem execUnbind_canonical {g xd pd pe b s} (h : MemoryCanonical s) : NextCanonical (execUnbind g xd pd pe b s) := by
  unfold execUnbind
  refine guarded_canonical h (fun _ h1 => ?_)
  extract_lets
  refine ite_holds (State.refuse_canonical h1) ?_
  split
  · exact State.accept_canonical h1
  · exact State.refuse_canonical h1

/-! ### `Sys2Proof/Machine/SendPort.lean` -/

theorem State.modItem_canonical {s id f} (h : MemoryCanonical s) : MemoryCanonical (s.modItem id f) := h

theorem State.launchItem_canonical {s i} (h : MemoryCanonical s) : MemoryCanonical (s.launchItem i) := by
  unfold State.launchItem
  split
  · exact h
  · split
    · exact h
    · exact ite_holds h h

theorem State.addItem_canonical {s kind ev bad} (h : MemoryCanonical s) : MemoryCanonical (s.addItem kind ev bad) :=
  ite_holds h (State.launchItem_canonical h)

theorem State.answerItem_canonical {s id st n} (h : MemoryCanonical s) : MemoryCanonical (s.answerItem id st n) := by
  unfold State.answerItem
  split
  · exact h
  · split <;> exact h

theorem State.setBox_canonical {s core k m} (h : MemoryCanonical s) : MemoryCanonical (s.setBox core k m) := h

theorem State.signalNext_canonical {s core k} (h : MemoryCanonical s) : MemoryCanonical (s.signalNext core k) := by
  unfold State.signalNext
  split
  · exact h
  · split
    · exact h
    · refine ite_holds ?_ h
      extract_lets
      split
      · split <;> exact h
      · exact h

theorem State.deliverMsg_canonical {s t addr xd pd pe size m} (h : MemoryCanonical s) :
    MemoryCanonical (s.deliverMsg t addr xd pd pe size m) :=
  State.atTid_canonical
    (State.commit_canonical (State.modMe_canonical (State.atTid_canonical (State.storeFor_canonical h))))

theorem State.serveRecv_canonical {s core k} (h : MemoryCanonical s) : MemoryCanonical (s.serveRecv core k) := by
  unfold State.serveRecv
  split
  · exact h
  · split
    · exact State.signalNext_canonical (State.deliverMsg_canonical h)
    · exact h

theorem State.serveRecvs_canonical {s core k} (h : MemoryCanonical s) : MemoryCanonical (s.serveRecvs core k) := by
  unfold State.serveRecvs
  split
  · exact ite_holds h (foldl_holds h (fun _ h1 _ => State.serveRecv_canonical h1))
  · exact h

theorem State.mboxAccept_canonical {s core k id m} (h : MemoryCanonical s) :
    MemoryCanonical (s.mboxAccept core k id m) := by
  unfold State.mboxAccept
  split
  · exact h
  · exact State.serveRecvs_canonical h

theorem State.arriveMsg_canonical {s id} (h : MemoryCanonical s) : MemoryCanonical (s.arriveMsg id) := by
  unfold State.arriveMsg
  split
  · exact h
  · split
    · extract_lets
      refine ite_holds (State.answerItem_canonical h) ?_
      split
      · exact State.answerItem_canonical (State.mboxAccept_canonical h)
      · split
        · extract_lets
          refine ite_holds ?_ ?_ <;> split <;> exact h
        · exact h
      · exact State.answerItem_canonical h
    · exact h

theorem State.spawnMsg_canonical {s core ch tag regs} (h : MemoryCanonical s) :
    PairCanonical (s.spawnMsg core ch tag regs) := by
  unfold State.spawnMsg
  refine ite_holds h ?_
  split
  · exact h
  · refine ite_holds h ?_
    refine ite_holds h ?_
    refine ite_holds h ?_
    refine ite_holds h ?_
    split
    · exact State.startEvict_canonical h
    · exact h
    · split
      next e2 => exact ((State.create_canonical h).of_eq e2 :)
      · exact h

theorem State.putAt_canonical {s name idx core d} (h : MemoryCanonical s) :
    PutRes.Canonical (s.putAt name idx core d) :=
  ite_holds h
    (ite_holds h
      (ite_holds (ite_holds (State.touchBank_canonical h) (State.touchSpill_canonical h))
        (State.modGroup_canonical
          (ite_holds (State.mk_canonical (ite_holds (State.touchBank_canonical h) (State.touchSpill_canonical h)))
            (State.spillFresh_canonical
              (State.mk_canonical (ite_holds (State.touchBank_canonical h) (State.touchSpill_canonical h))))))))

theorem State.putHome_canonical {s core name idx d} (h : MemoryCanonical s) :
    PutRes.Canonical (s.putHome core name idx d) := by
  unfold State.putHome
  split
  · exact h
  · refine ite_holds h ?_
    refine ite_holds h ?_
    split
    · exact State.putAt_canonical h
    · exact ite_holds h trivial

theorem State.putMeets_canonical {s core name idx tag d} (h : MemoryCanonical s) :
    PutRes.Canonical (s.putMeets core name idx tag d) := by
  unfold State.putMeets
  extract_lets _ fwd
  refine ite_holds trivial ?_
  refine ite_holds trivial ?_
  split
  · exact h
  · refine ite_holds (ite_holds h (State.putAt_canonical h)) ?_
    clear_value fwd
    split
    · exact trivial
    · exact State.putHome_canonical h

/-! ### `Sys2Proof/Machine/ThreadOps.lean` -/

theorem spawnOp_canonical {loose g xd pd pe xa b s} (h : MemoryCanonical s) :
    NextCanonical (spawnOp loose g xd pd pe xa b s) := by
  unfold spawnOp
  refine guarded_canonical h (fun _ h1 => ?_)
  extract_lets
  refine ite_holds (State.refuse_canonical h1) ?_
  refine ite_holds (State.refuse_canonical h1) ?_
  refine ite_holds (State.refuse_canonical h1) ?_
  split
  · exact ite_holds h1 (State.refuse_canonical h1)
  · split
    next e2 => exact State.accept_canonical ((State.create_canonical h1).of_eq e2)
    · exact State.refuse_canonical h1

theorem execSpnr_canonical {g xa xb ev s} (h : MemoryCanonical s) : NextCanonical (execSpnr g xa xb ev s) := by
  unfold execSpnr
  refine guarded_canonical h (fun _ h1 => ?_)
  extract_lets
  refine ite_holds (State.trap_canonical h1) ?_
  refine ite_holds (State.trap_canonical h1) ?_
  refine ite_holds (State.trap_canonical h1) ?_
  split
  · exact State.trap_canonical h1
  · exact ite_holds (State.trap_canonical h1) (ite_holds h1 (State.commit_canonical (State.addItem_canonical h1)))

theorem State.exitThread_canonical {s t} (h : MemoryCanonical s) : MemoryCanonical (s.exitThread t) := by
  unfold State.exitThread
  extract_lets _ grp _ _ _ _
  clear_value grp
  split
  · exact State.leaveSlot_canonical (State.mk_canonical (State.dropVia_canonical h))
  · exact ite_holds
      (State.modGroup_canonical
        (State.dirDead_canonical
          (State.modGroup_canonical (State.leaveSlot_canonical (State.mk_canonical (State.dropVia_canonical h))))))
      (State.modGroup_canonical (State.leaveSlot_canonical (State.mk_canonical (State.dropVia_canonical h))))

theorem execExit_canonical {g s} (h : MemoryCanonical s) : NextCanonical (execExit g s) :=
  guarded_canonical h (fun _ h1 =>
    ite_holds (State.exitThread_canonical h1) (State.stallOn_canonical (State.drainBuffers_canonical h1)))

theorem State.joinTest_canonical {s n xd pd pe} (h : MemoryCanonical s) : OptionCanonical (s.joinTest n xd pd pe) := by
  unfold State.joinTest
  extract_lets
  refine ite_holds (ite_holds (State.refuse_canonical h) trivial) ?_
  split
  · refine ite_holds (State.refuse_canonical h) ?_
    split
    · exact State.accept_canonical h
    · exact State.commit_canonical h
    · exact trivial
  · exact State.refuse_canonical h

theorem execJoin_canonical {g xd pd pe xa s} (h : MemoryCanonical s) : NextCanonical (execJoin g xd pd pe xa s) := by
  unfold execJoin
  refine guarded_canonical h (fun _ h1 => ?_)
  extract_lets
  refine ite_holds (State.refuse_canonical h1) ?_
  refine ite_holds (State.refuse_canonical h1) ?_
  split
  next e => exact (State.joinTest_canonical h1).of_eq e
  · exact State.blockOn_canonical h1

theorem execYield_canonical {g b s} (h : MemoryCanonical s) : NextCanonical (execYield g b s) :=
  guarded_canonical h (fun _ h1 =>
    ite_holds (State.modMe_canonical (State.commit_canonical h1))
      (State.setSlot_canonical (State.modMe_canonical (State.commit_canonical h1))))

theorem execPrio_canonical {g xd pd pe xa b s} (h : MemoryCanonical s) : NextCanonical (execPrio g xd pd pe xa b s) := by
  unfold execPrio
  refine guarded_canonical h (fun _ h1 => ?_)
  extract_lets
  refine ite_holds (State.refuse_canonical h1) ?_
  refine ite_holds (State.accept_canonical h1) ?_
  refine ite_holds (State.refuse_canonical h1) ?_
  refine ite_holds (State.refuse_canonical h1) ?_
  split
  · exact State.refuse_canonical h1
  · exact ite_holds (State.refuse_canonical h1)
      (ite_holds (State.refuse_canonical h1) (State.accept_canonical (State.modHandle_canonical h1)))

theorem execSlot_canonical {g xd pd pe b s} (h : MemoryCanonical s) : NextCanonical (execSlot g xd pd pe b s) := by
  unfold execSlot
  refine guarded_canonical h fun t ht => ?_
  extract_lets q k mine want slot
  clear_value mine want
  refine ite_holds (State.refuse_canonical ht) (ite_holds ?_ (ite_holds (State.refuse_canonical ht) ?_))
  · split
    · exact State.refuse_canonical ht
    · exact State.accept_canonical ht
  · split
    · exact State.refuse_canonical ht
    · exact State.accept_canonical ht

theorem execMigr_canonical {g xd pd pe xa s} (h : MemoryCanonical s) : NextCanonical (execMigr g xd pd pe xa s) :=
  guarded_canonical h (fun _ h1 =>
    ite_holds (State.trap_canonical h1)
      (ite_holds (State.refuse_canonical h1)
        (ite_holds (State.accept_canonical h1)
          (ite_holds (State.stallOn_canonical (State.drainBuffers_canonical h1)) h1))))

theorem State.semaTo_canonical {s c m k n} (h : MemoryCanonical s) : PairCanonical (s.semaTo c m k n) := by
  unfold State.semaTo
  split
  · exact h
  · exact ite_holds h (ite_holds h (State.modHandle_canonical h))

theorem State.semaDone_canonical {s m k n xd pd pe} (h : MemoryCanonical s) :
    MemoryCanonical (s.semaDone m k n xd pd pe) := by
  unfold State.semaDone
  split
  next e => exact State.accept_canonical ((State.semaTo_canonical h).of_eq e)
  next e => exact State.refuse_canonical ((State.semaTo_canonical h).of_eq e)

theorem execSema_canonical {g xd pd pe k xa b s} (h : MemoryCanonical s) :
    NextCanonical (execSema g xd pd pe k xa b s) :=
  guarded_canonical h (fun _ h1 =>
    ite_holds (State.refuse_canonical h1)
      (ite_holds (ite_holds (State.trap_canonical h1) (State.accept_canonical h1))
        (ite_holds (State.refuse_canonical h1)
          (ite_holds (State.refuse_canonical h1) (ite_holds (State.semaDone_canonical h1) h1)))))

theorem chanKey_canonical {s xd pd pe k} {f : ℕ → ℕ → State} (h : MemoryCanonical s)
    (hf : ∀ a t, MemoryCanonical (f a t)) : MemoryCanonical (chanKey s xd pd pe k f) :=
  ite_holds (State.refuse_canonical h) (hf _ _)

theorem State.installChan_canonical {s core i d xd pd pe} (h : MemoryCanonical s) :
    MemoryCanonical (s.installChan core i d xd pd pe) := by
  unfold State.installChan
  extract_lets
  refine ite_holds (State.refuse_canonical h) ?_
  split
  · exact State.refuse_canonical h
  · exact ite_holds (State.trap_canonical h) (State.accept_canonical h)

theorem State.changeChan_canonical {s core i f r xd pd pe} (h : MemoryCanonical s) :
    MemoryCanonical (s.changeChan core i f r xd pd pe) := by
  unfold State.changeChan
  split
  · exact State.refuse_canonical h
  · exact State.accept_canonical h

theorem State.chanDone_canonical {s r core i xd pd pe} (h : MemoryCanonical s) :
    MemoryCanonical (s.chanDone r core i xd pd pe) := by
  unfold State.chanDone
  split
  · exact State.installChan_canonical h
  · exact State.changeChan_canonical h
  · exact State.changeChan_canonical h
  · exact State.changeChan_canonical h
  · exact State.changeChan_canonical h

theorem State.askChan_canonical {s r core i xd pd pe} (h : MemoryCanonical s) :
    MemoryCanonical (s.askChan r core i xd pd pe) :=
  ite_holds (State.chanDone_canonical h) h

theorem execChanInstall_canonical {g xd pd pe xa b s} (h : MemoryCanonical s) :
    NextCanonical (execChanInstall g xd pd pe xa b s) := by
  unfold execChanInstall
  refine guarded_canonical h (fun _ h1 => ?_)
  refine chanKey_canonical h1 (fun _ _ => ?_)
  extract_lets
  split
  next e => exact (State.check_canonical h1).of_eq e
  next e =>
    exact State.readRecord_canonical ((State.check_canonical h1).of_eq e) (fun _ _ h2 => State.askChan_canonical h2)

theorem chanOp_canonical {r g xd pd pe b s} (h : MemoryCanonical s) : NextCanonical (chanOp r g xd pd pe b s) :=
  guarded_canonical h (fun _ h1 => chanKey_canonical h1 (fun _ _ => State.askChan_canonical h1))

/-! ### `Sys2Proof/Machine/Engine.lean` -/

theorem State.modCmd_canonical {s core id f} (h : MemoryCanonical s) : MemoryCanonical (s.modCmd core id f) := h

theorem State.engRoom_canonical {s copy need} {k : State → State} (h : MemoryCanonical s)
    (hk : ∀ t, MemoryCanonical t → MemoryCanonical (k t)) : MemoryCanonical (s.engRoom copy need k) :=
  ite_holds (hk _ h) (State.stallOn_canonical (ite_holds h h))

theorem State.xlateEng_canonical {s a} (h : MemoryCanonical s) : Xlated.Canonical (s.xlateEng a) := by
  unfold State.xlateEng
  split
  · exact h
  · exact State.xlate_canonical h

theorem State.rangeFrom_canonical {s u fuel va n acc} (h : MemoryCanonical s) :
    Ranged.Canonical (s.rangeFrom u fuel va n acc) := by
  induction fuel generalizing s va n acc with
  | zero => exact h
  | succ fuel ih =>
    unfold State.rangeFrom
    refine ite_holds h (ite_holds (State.trap_canonical h) (ite_holds ?_ (ite_holds h ?_)))
    · refine ite_holds (State.trap_canonical h) (ite_holds (State.trap_canonical h) ?_)
      extract_lets
      split
      · exact State.trap_canonical h
      · exact h
    · split
      next e => exact (State.xlateEng_canonical h).of_eq e
      next e => exact State.trap_canonical ((State.xlateEng_canonical h).of_eq e)
      next e =>
        have ht := (State.xlateEng_canonical h).of_eq e
        extract_lets
        split
        · exact State.trap_canonical ht
        · split
          · exact State.trap_canonical ht
          · exact ih ht

theorem State.range_canonical {s u va n} (h : MemoryCanonical s) : Ranged.Canonical (s.range u va n) :=
  State.rangeFrom_canonical h

theorem State.rangeThen_canonical {s u va n} {k : List Seg → State → State} (h : MemoryCanonical s)
    (hk : ∀ a t, MemoryCanonical t → MemoryCanonical (k a t)) : MemoryCanonical (s.rangeThen u va n k) := by
  unfold State.rangeThen
  split
  next e => exact (State.range_canonical h).of_eq e
  next e => exact hk _ _ ((State.range_canonical h).of_eq e)

theorem State.cmdIssued_canonical {s dn tag} (h : MemoryCanonical s) : MemoryCanonical (s.cmdIssued dn tag) := by
  unfold State.cmdIssued
  split
  · exact State.commit_canonical h
  · exact h

theorem State.startCmd_canonical {s core c} (h : MemoryCanonical s) : MemoryCanonical (s.startCmd core c) := by
  unfold State.startCmd
  extract_lets
  refine ite_holds h ?_
  refine foldl_holds h fun t h1 x => ?_
  split
  · exact ite_holds h1 h1
  · exact h1

theorem State.engRead_canonical {s core c t va n} (h : MemoryCanonical s) : Got.Canonical (s.engRead core c t va n) := by
  unfold State.engRead
  refine ite_holds ?_ ?_
  · split <;> exact h
  · split
    next e => exact ((State.gateFor_canonical h).of_eq e :)
    · exact h
    · exact h
    next e =>
      have he := (State.gateFor_canonical h).of_eq e
      exact ite_holds he he

theorem State.takeWord_canonical {s core id p} (h : MemoryCanonical s) : PairCanonical (s.takeWord core id p) := by
  unfold State.takeWord
  split
  · exact h
  · refine ite_holds h ?_
    split
    · exact h
    · split
      next e2 => exact ((State.engRead_canonical h).of_eq e2 :)
      next e2 => exact State.modCmd_canonical ((State.engRead_canonical h).of_eq e2)
      next e2 => exact State.modCmd_canonical ((State.engRead_canonical h).of_eq e2)

theorem State.gather_canonical {s core id} (h : MemoryCanonical s) : PairCanonical (s.gather core id) := by
  unfold State.gather
  split
  · exact h
  · refine foldl_holds h fun t h1 x2 => ?_
    split
    next e1 => exact ((State.takeWord_canonical h1).of_eq e1 :)

theorem State.fillLineBits_canonical {s pa n} (h : MemoryCanonical s) : MemoryCanonical (s.fillLineBits pa n) :=
  foldl_holds h (fun _ h1 _ => State.fill_canonical h1)

theorem State.engWrite_canonical {s core c t va d full paid} (h : MemoryCanonical s) :
    Put.Canonical (s.engWrite core c t va d full paid) := by
  unfold State.engWrite
  refine ite_holds (ite_holds h h) ?_
  split
  next e => exact ((State.gateFor_canonical h).of_eq e :)
  · exact h
  · exact h
  next e =>
    have he := (State.gateFor_canonical h).of_eq e
    exact ite_holds (State.fillLineBits_canonical (State.storeFor_canonical he)) (State.storeFor_canonical he)

theorem State.dropDst_canonical {s core c} (h : MemoryCanonical s) : MemoryCanonical (s.dropDst core c) :=
  ite_holds h h

theorem State.cmdFailed_canonical {s c st va} (h : MemoryCanonical s) : MemoryCanonical (s.cmdFailed c st va) :=
  ite_holds (State.record_canonical h)
    (ite_holds
      (State.atTid_canonical
        (State.trap_canonical (State.atTid_canonical (State.modHandle_canonical (State.record_canonical h)))))
      (State.raise_canonical (State.modHandle_canonical (State.record_canonical h))))

theorem State.finishCmd_canonical {s core c} (h : MemoryCanonical s) : MemoryCanonical (s.finishCmd core c) := by
  unfold State.finishCmd
  extract_lets _ _ _ s4 _ s5 s6
  have h1 : MemoryCanonical s4 := by
    unfold s4
    split
    · exact ite_holds (State.modCore_canonical (State.modCore_canonical (State.dropDst_canonical h)))
        (State.barSub_canonical (State.modCore_canonical (State.modCore_canonical (State.dropDst_canonical h))))
    · exact State.modCore_canonical (State.modCore_canonical (State.dropDst_canonical h))
  have h2 : MemoryCanonical s5 := by
    unfold s5
    split
    · exact State.cmdFailed_canonical h1
    · exact h1
  have h3 : MemoryCanonical s6 := by
    unfold s6
    split
    · exact ite_holds h2 (State.addEvent_canonical h2)
    · exact h2
  exact ite_holds (State.atTid_canonical (State.commit_canonical h3)) h3

/-! ### `Sys2Proof/Machine/Tile.lean` -/

theorem State.modTile_canonical {s own t f} (h : MemoryCanonical s) : MemoryCanonical (s.modTile own t f) := by
  unfold State.modTile
  split <;> exact h

theorem State.tileTable_canonical {s own} (h : MemoryCanonical s) : MemoryCanonical (s.tileTable own) := by
  unfold State.tileTable
  split <;> exact h

theorem State.trapTile_canonical {s t} (h : MemoryCanonical s) : MemoryCanonical (s.trapTile t) :=
  State.trap_canonical h

theorem tileIns_canonical {g regs tile save s} {k : ℕ → State → State} (h : MemoryCanonical s)
    (hk : ∀ a t, MemoryCanonical t → MemoryCanonical (k a t)) : NextCanonical (tileIns g regs tile save s k) := by
  unfold tileIns
  refine guarded_canonical h (fun t h1 => ?_)
  refine ite_holds (State.trapTile_canonical h1) ?_
  split
  · exact State.trapTile_canonical h1
  · exact hk _ _ h1

theorem State.needOpen_canonical {s own t} {k : State → State} (h : MemoryCanonical s)
    (hk : ∀ t, MemoryCanonical t → MemoryCanonical (k t)) : MemoryCanonical (s.needOpen own t k) :=
  ite_holds (hk _ h) (State.trapTile_canonical h)

theorem State.accFresh_canonical {s core x l} (h : MemoryCanonical s) : MemoryCanonical (s.accFresh core x l) := h

theorem State.blocksThen_canonical {s own w} {k : List ℕ → State → State} (h : MemoryCanonical s)
    (hk : ∀ a t, MemoryCanonical t → MemoryCanonical (k a t)) : MemoryCanonical (s.blocksThen own w k) := by
  unfold State.blocksThen
  split
  · exact State.trap_canonical h
  · exact h
  · exact hk _ _ h

theorem State.passChecks_canonical {s p n al a b scales} {k : List Seg → List Lock → State → State}
    (h : MemoryCanonical s) (hk : ∀ a b t, MemoryCanonical t → MemoryCanonical (k a b t)) :
    MemoryCanonical (s.passChecks p n al a b scales k) := by
  unfold State.passChecks
  extract_lets
  split
  · exact State.trap_canonical h
  · split
    · exact State.trap_canonical h
    · split
      · exact State.trap_canonical h
      · refine State.rangeThen_canonical h (fun _ t h1 => ?_)
        extract_lets done
        have hdone : ∀ t, MemoryCanonical t → MemoryCanonical (done t) := by
          intro t1 h2
          unfold done
          exact hk _ _ _ h2
        refine ite_holds (hdone _ h1) ?_
        refine ite_holds (State.trap_canonical h1) ?_
        refine ite_holds (State.trap_canonical h1) ?_
        refine ite_holds (State.trap_canonical h1) ?_
        refine ite_holds (State.trap_canonical h1) ?_
        split
        · exact State.trap_canonical h1
        · exact hdone _ h1

theorem State.passIssue_canonical {s own t p from_ resumed} {k : ℕ → State → State} (h : MemoryCanonical s)
    (hk : ∀ a t, MemoryCanonical t → MemoryCanonical (k a t)) :
    MemoryCanonical (s.passIssue own t p from_ resumed k) :=
  State.engRoom_canonical h (fun _ h1 => State.passChecks_canonical h1 (fun _ _ _ h2 => hk _ _ h2))

theorem State.remop_canonical {s own t} (h : MemoryCanonical s) : MemoryCanonical (s.remop own t) :=
  State.trap_canonical (State.modTile_canonical h)

theorem State.resumePass_canonical {s own t} {k : ℕ → State → State} (h : MemoryCanonical s)
    (hk : ∀ a t, MemoryCanonical t → MemoryCanonical (k a t)) : MemoryCanonical (s.resumePass own t k) := by
  unfold State.resumePass
  extract_lets
  split
  · exact State.commit_canonical h
  · exact ite_holds (State.trap_canonical h)
      (ite_holds (State.trapTile_canonical h)
        (ite_holds (State.trapTile_canonical h)
          (State.passIssue_canonical h (fun _ _ h1 => hk _ _ (State.modMe_canonical (State.modTile_canonical h1))))))

theorem State.observed_canonical {s own t} {k : State → State} (h : MemoryCanonical s)
    (hk : ∀ t, MemoryCanonical t → MemoryCanonical (k t)) : MemoryCanonical (s.observed own t k) :=
  ite_holds (hk _ h) (ite_holds (State.remop_canonical h) (State.resumePass_canonical h (fun _ _ h1 => hk _ h1)))

theorem execTopen_canonical {g t w s} (h : MemoryCanonical s) : NextCanonical (execTopen g t w s) :=
  tileIns_canonical h (fun _ _ h1 =>
    ite_holds (State.trapTile_canonical h1)
      (State.blocksThen_canonical h1 (fun _ _ h2 =>
        State.commit_canonical (State.modTile_canonical (State.tileTable_canonical h2)))))

theorem execTclose_canonical {g t s} (h : MemoryCanonical s) : NextCanonical (execTclose g t s) :=
  tileIns_canonical h (fun _ _ h1 =>
    ite_holds (State.trapTile_canonical h1) (ite_holds h1 (State.commit_canonical (State.modTile_canonical h1))))

theorem execTzero_canonical {g t cb nbm s} (h : MemoryCanonical s) : NextCanonical (execTzero g t cb nbm s) :=
  tileIns_canonical h (fun _ _ h1 =>
    State.needOpen_canonical h1 (fun _ h2 =>
      ite_holds (State.trapTile_canonical h2) (ite_holds h2 (State.commit_canonical (State.modTile_canonical h2)))))

theorem tileMove_canonical {load g f d t xa xb cb nbm rmaj s} (h : MemoryCanonical s) :
    NextCanonical (tileMove load g f d t xa xb cb nbm rmaj s) :=
  tileIns_canonical h (fun _ _ h1 =>
    State.needOpen_canonical h1 (fun _ h2 =>
      ite_holds (State.trapTile_canonical h2)
        (State.observed_canonical h2 (fun _ h3 =>
          State.engRoom_canonical h3 (fun _ h4 =>
            ite_holds (State.trapTile_canonical h4)
              (ite_holds (State.trap_canonical h4)
                (ite_holds (State.trap_canonical h4)
                  (State.rangeThen_canonical h4 (fun _ _ h5 => State.cmdIssued_canonical h5)))))))))

theorem tileLanes_canonical {g tile vi xb xc row s} {k : ℕ → Tile → List (ℕ × ℕ) → State → State}
    (h : MemoryCanonical s) (hk : ∀ a b c t, MemoryCanonical t → MemoryCanonical (k a b c t)) :
    NextCanonical (tileLanes g tile vi xb xc row s k) := by
  unfold tileLanes
  refine tileIns_canonical h (fun _ t h1 => ?_)
  split
  · exact State.trap_canonical h1
  · refine State.needOpen_canonical h1 (fun _ h2 => ?_)
    refine State.observed_canonical h2 (fun _ h3 => ?_)
    extract_lets
    split
    · exact State.trapTile_canonical h3
    · split
      · exact State.blockOn_canonical h3
      · exact ite_holds h3 (State.bankThen_canonical h3 (fun _ h4 => hk _ _ _ _ h4))

theorem execTread_canonical {g t vi xb xc row s} (h : MemoryCanonical s) :
    NextCanonical (execTread g t vi xb xc row s) :=
  tileLanes_canonical h (fun _ _ _ _ h1 =>
    ite_holds (State.trap_canonical h1) (State.commit_canonical (State.writeElems_canonical h1)))

theorem execTwrite_canonical {g t vi xb xc row s} (h : MemoryCanonical s) :
    NextCanonical (execTwrite g t vi xb xc row s) :=
  tileLanes_canonical h (fun _ _ _ _ h1 =>
    State.readVThen_canonical h1 (fun _ h2 => State.commit_canonical (State.modTile_canonical h2)))

theorem execMidx_canonical {g tile vi xa xb s} (h : MemoryCanonical s) : NextCanonical (execMidx g tile vi xa xb s) := by
  unfold execMidx
  refine tileIns_canonical h (fun _ _ h1 => ?_)
  split
  · exact State.trap_canonical h1
  · refine State.needOpen_canonical h1 (fun _ h2 => ?_)
    extract_lets
    refine ite_holds (State.trapTile_canonical h2) ?_
    refine State.observed_canonical h2 (fun _ h3 => ?_)
    extract_lets
    refine ite_holds (State.trap_canonical h3) ?_
    refine ite_holds (State.trap_canonical h3) ?_
    refine ite_holds (State.trap_canonical h3) ?_
    split
    · exact State.blockOn_canonical h3
    · exact State.bankThen_canonical h3 (fun _ h4 =>
        State.readVThen_canonical h4 (fun _ h5 => State.commit_canonical (State.modTile_canonical h5)))

theorem State.newPass_canonical {s own d t xb xc k cb nbm} (h : MemoryCanonical s) :
    MemoryCanonical (s.newPass own d t xb xc k cb nbm) := by
  unfold State.newPass
  extract_lets
  refine ite_holds (State.trapTile_canonical h) ?_
  split
  · exact State.trapTile_canonical h
  · exact State.passIssue_canonical h (fun _ _ h1 => State.cmdIssued_canonical h1)

theorem execMma_canonical {g d t xb xc k cb nbm s} (h : MemoryCanonical s) :
    NextCanonical (execMma g d t xb xc k cb nbm s) :=
  tileIns_canonical h (fun _ _ h1 =>
    ite_holds (State.trap_canonical h1)
      (State.needOpen_canonical h1 (fun _ h2 =>
        ite_holds (State.trapTile_canonical h2)
          (ite_holds (State.newPass_canonical h2)
            (ite_holds (State.remop_canonical h2)
              (State.resumePass_canonical h2 (fun _ _ h3 =>
                ite_holds (State.cmdIssued_canonical h3) (State.newPass_canonical h3))))))))

theorem execMres_canonical {g w t s} (h : MemoryCanonical s) : NextCanonical (execMres g w t s) :=
  tileIns_canonical h (fun _ _ h1 =>
    ite_holds (State.commit_canonical h1)
      (ite_holds (State.trapTile_canonical h1)
        (State.resumePass_canonical h1 (fun _ _ h2 => ite_holds h2 (State.commit_canonical h2)))))

theorem execTsave_canonical {g d t xa s} (h : MemoryCanonical s) : NextCanonical (execTsave g d t xa s) :=
  tileIns_canonical h (fun _ _ h1 =>
    State.engRoom_canonical h1 (fun _ h2 =>
      State.needOpen_canonical h2 (fun _ h3 =>
        ite_holds (State.trap_canonical h3)
          (State.rangeThen_canonical h3 (fun _ _ h4 => State.cmdIssued_canonical (State.modTile_canonical h4))))))

theorem State.headerThen_canonical {s va segs} {k : List Byte → State → State} (h : MemoryCanonical s)
    (hk : ∀ a t, MemoryCanonical t → MemoryCanonical (k a t)) : MemoryCanonical (s.headerThen va segs k) := by
  unfold State.headerThen
  extract_lets
  refine ite_holds (hk _ _ h) ?_
  refine ite_holds h ?_
  refine ite_holds ?_ (State.waitParts_canonical h)
  split
  · exact State.trap_canonical h
  · exact hk _ _ h

theorem execTrest_canonical {g d t xa s} (h : MemoryCanonical s) : NextCanonical (execTrest g d t xa s) :=
  tileIns_canonical h (fun _ _ h1 =>
    State.engRoom_canonical h1 (fun _ h2 =>
      ite_holds (State.trapTile_canonical h2)
        (ite_holds (State.trap_canonical h2)
          (State.rangeThen_canonical h2 (fun _ _ h3 =>
            State.headerThen_canonical h3 (fun _ _ h4 =>
              ite_holds (State.trapTile_canonical h4)
                (State.rangeThen_canonical h4 (fun _ _ h5 =>
                  State.blocksThen_canonical h5 (fun _ _ h6 =>
                    State.cmdIssued_canonical (State.modTile_canonical (State.tileTable_canonical h6)))))))))))

theorem execTqry_canonical {g xa t s} (h : MemoryCanonical s) : NextCanonical (execTqry g xa t s) :=
  tileIns_canonical h (fun _ _ h1 => State.commit_canonical h1)

theorem State.resumeAll_canonical {s} {k : State → State} {l} (h : MemoryCanonical s)
    (hk : ∀ t, MemoryCanonical t → MemoryCanonical (k t)) : MemoryCanonical (s.resumeAll k l) := by
  induction l generalizing s with
  | nil => exact hk _ h
  | cons e l ih => exact State.resumePass_canonical h (fun _ _ ht => ih ht)

theorem State.semwTest_canonical {s k n} (h : MemoryCanonical s) : MemoryCanonical (s.semwTest k n) :=
  ite_holds (State.commit_canonical h) (State.blockOn_canonical h)

theorem execSemw_canonical {g k b s} (h : MemoryCanonical s) : NextCanonical (execSemw g k b s) := by
  unfold execSemw
  refine guarded_canonical h (fun _ h1 => ?_)
  extract_lets
  refine ite_holds (State.trap_canonical h1) ?_
  split
  · exact State.remop_canonical h1
  · exact State.resumeAll_canonical h1 (fun _ h2 => State.semwTest_canonical h2)

/-! ### `Sys2Proof/Machine/Count.lean` -/

theorem countIns_canonical {g regs t s} {k : State → State} (h : MemoryCanonical s)
    (hk : ∀ t, MemoryCanonical t → MemoryCanonical (k t)) : NextCanonical (countIns g regs t s k) :=
  guarded_canonical h (fun _ h1 =>
    ite_holds (State.trapTile_canonical h1) (ite_holds (State.trap_canonical h1) (hk _ h1)))

theorem State.arrayThen_canonical {s} {k : State → State} (h : MemoryCanonical s)
    (hk : ∀ t, MemoryCanonical t → MemoryCanonical (k t)) : MemoryCanonical (s.arrayThen k) :=
  ite_holds (State.trapTile_canonical h) (hk _ h)

theorem State.trapDepth_canonical {s bank k meter} (h : MemoryCanonical s) :
    MemoryCanonical (s.trapDepth bank k meter) :=
  State.trap_canonical h

theorem State.trapScale_canonical {s bank a b} (h : MemoryCanonical s) : MemoryCanonical (s.trapScale bank a b) :=
  State.trap_canonical h

theorem State.keyThen_canonical {s p} {k : List (BitVec 32) → State → State} (h : MemoryCanonical s)
    (hk : ∀ l t, MemoryCanonical t → MemoryCanonical (k l t)) : MemoryCanonical (s.keyThen p k) := by
  unfold State.keyThen
  extract_lets ranges pa
  generalize List.find? (fun r => s.bridleHit s.cur.core s.chip (pa r.1) r.2 true) ranges = hit
  cases hit with
  | some r => exact State.trap_canonical h
  | none =>
    generalize List.find? (fun r => s.eccHit (pa r.1) r.2) ranges = bad
    cases bad with
    | some r => exact State.trap_canonical h
    | none => exact hk _ _ h

theorem execMcnt_canonical {g d bk tile xb xc k nbm s} (h : MemoryCanonical s) :
    NextCanonical (execMcnt g d bk tile xb xc k nbm s) := by
  unfold execMcnt
  refine countIns_canonical h (fun _ h1 => ?_)
  extract_lets
  refine ite_holds (State.trap_canonical h1) ?_
  refine State.arrayThen_canonical h1 (fun _ h2 => ?_)
  split
  · exact State.trapTile_canonical h2
  · refine State.needOpen_canonical h2 (fun _ h3 => ?_)
    refine State.observed_canonical h3 (fun _ h4 => ?_)
    split
    · exact State.trapTile_canonical h4
    · exact State.engRoom_canonical h4 (fun _ h5 =>
        State.passChecks_canonical h5 (fun _ _ _ h6 =>
          State.keyThen_canonical h6 (fun _ _ h7 =>
            ite_holds (State.trapDepth_canonical h7)
              (ite_holds (State.trapScale_canonical h7) (State.cmdIssued_canonical h7)))))

theorem State.countIssue_canonical {s op own d} (h : MemoryCanonical s) : MemoryCanonical (s.countIssue op own d) :=
  State.cmdIssued_canonical h

theorem execMmrg_canonical {g d s} (h : MemoryCanonical s) : NextCanonical (execMmrg g d s) :=
  countIns_canonical h (fun _ h1 =>
    State.arrayThen_canonical h1 (fun _ h2 =>
      State.engRoom_canonical h2 (fun _ h3 =>
        ite_holds (State.countIssue_canonical h3)
          (ite_holds (State.trapDepth_canonical h3)
            (ite_holds (State.trapScale_canonical h3) (State.countIssue_canonical h3))))))

theorem execMdrn_canonical {g d bk tile cb nbm s} (h : MemoryCanonical s) :
    NextCanonical (execMdrn g d bk tile cb nbm s) := by
  unfold execMdrn
  refine countIns_canonical h (fun _ h1 => ?_)
  refine State.arrayThen_canonical h1 (fun _ h2 => ?_)
  split
  · exact State.trapTile_canonical h2
  · exact State.needOpen_canonical h2 (fun _ h3 =>
      State.observed_canonical h3 (fun _ h4 =>
        ite_holds (State.trapTile_canonical h4)
          (State.engRoom_canonical h4 (fun _ h5 => State.countIssue_canonical h5))))

theorem execMclr_canonical {g d bk s} (h : MemoryCanonical s) : NextCanonical (execMclr g d bk s) :=
  countIns_canonical h (fun _ h1 =>
    State.arrayThen_canonical h1 (fun _ h2 => State.engRoom_canonical h2 (fun _ h3 => State.countIssue_canonical h3)))

theorem execMdep_canonical {g xa bk s} (h : MemoryCanonical s) : NextCanonical (execMdep g xa bk s) :=
  countIns_canonical h (fun _ h1 => State.commit_canonical h1)

/-! ### `Sys2Proof/Machine/Port.lean` -/

theorem State.barNamed_canonical {s bar n} {k : Option (Nat × Nat) → State → State} (h : MemoryCanonical s)
    (hk : ∀ l t, MemoryCanonical t → MemoryCanonical (k l t)) : MemoryCanonical (s.barNamed bar n k) := by
  unfold State.barNamed
  split
  · exact hk _ _ h
  · extract_lets off pa
    generalize s.ringHit s.cur.core off 16 = hit
    cases hit with
    | some i => exact State.trap_canonical h
    | none =>
      generalize e : s.barName pa n = named
      cases named with
      | error c => exact State.trap_canonical h
      | ok t => exact hk _ _ ((State.barName_canonical h).of_eq e)

theorem State.copyEnd_canonical {s o op n dst src} (h : MemoryCanonical s) :
    MemoryCanonical (s.copyEnd o op n dst src) := by
  unfold State.copyEnd
  split
  · exact State.trap_canonical h
  · split
    · exact State.trap_canonical h
    · exact State.barNamed_canonical h (fun _ _ h1 => State.cmdIssued_canonical h1)

theorem State.copyMarker_canonical {s o} (h : MemoryCanonical s) : MemoryCanonical (s.copyMarker o) :=
  State.cmdIssued_canonical h

theorem copyIns_canonical {g o xa xb xc addrs len need s} {k : State → State} (h : MemoryCanonical s)
    (hk : ∀ t, MemoryCanonical t → MemoryCanonical (k t)) : NextCanonical (copyIns g o xa xb xc addrs len need s k) := by
  unfold copyIns
  refine guarded_canonical h (fun t h1 => ?_)
  extract_lets
  refine State.engRoom_canonical h1 (fun _ h2 => ?_)
  refine ite_holds (State.trap_canonical h2) ?_
  refine ite_holds (State.trap_canonical h2) ?_
  refine ite_holds (State.copyMarker_canonical h2) ?_
  split
  · exact State.trap_canonical h2
  · exact hk _ h2

theorem execCpym_canonical {g o xa xb xc msk s} (h : MemoryCanonical s) :
    NextCanonical (execCpym g o xa xb xc msk s) := by
  unfold execCpym
  extract_lets
  refine copyIns_canonical h (fun _ h1 => ?_)
  extract_lets
  refine State.rangeThen_canonical h1 (fun _ _ h2 => ?_)
  refine ite_holds (State.trap_canonical h2) ?_
  split
  · exact State.trap_canonical h2
  · exact State.copyEnd_canonical h2

theorem execFill_canonical {g o xa xb xc s} (h : MemoryCanonical s) : NextCanonical (execFill g o xa xb xc s) :=
  copyIns_canonical h (fun _ h1 => State.rangeThen_canonical h1 (fun _ _ h2 => State.copyEnd_canonical h2))

theorem State.combine_canonical {s c op va pa d} (h : MemoryCanonical s) : MemoryCanonical (s.combine c op va pa d) :=
  foldl_holds h (fun _ h1 _ => ite_holds h1 (State.store_canonical h1))

theorem State.unitPut_canonical {s core c va t d paid} (h : MemoryCanonical s) :
    Put.Canonical (s.unitPut core c va t d paid) := by
  unfold State.unitPut
  split
  · refine ite_holds (ite_holds h h) ?_
    split
    next e1 => exact ((State.gateFor_canonical h).of_eq e1 :)
    · exact h
    · exact h
    next e1 =>
      have he1 := (State.gateFor_canonical h).of_eq e1
      exact ite_holds
        (ite_holds (State.fillLineBits_canonical (State.claim_canonical (State.combine_canonical he1)))
          (State.claim_canonical (State.combine_canonical he1)))
        (ite_holds (State.fillLineBits_canonical (State.claim_canonical (State.combine_canonical he1)))
          (State.claim_canonical (State.combine_canonical he1)))
  · exact State.engWrite_canonical h

theorem State.failCmd_canonical {s core id st va} (h : MemoryCanonical s) :
    MemoryCanonical (s.failCmd core id st va) :=
  h

theorem State.putAll_canonical {s core id w d l} (h : MemoryCanonical s) : MemoryCanonical (s.putAll core id w d l) := by
  induction l generalizing s with
  | nil => exact h
  | cons e l ih =>
    unfold State.putAll
    split
    · exact h
    · refine ite_holds (ih h) ?_
      extract_lets mark
      split
      next e => exact ih (State.modCmd_canonical ((State.unitPut_canonical h).of_eq e))
      next e => exact ih ((State.unitPut_canonical h).of_eq e)
      next e => exact ih (State.modCmd_canonical (State.failCmd_canonical ((State.unitPut_canonical h).of_eq e)))

theorem State.doUnit_canonical {s core id w} (h : MemoryCanonical s) : MemoryCanonical (s.doUnit core id w) := by
  unfold State.doUnit
  split
  · exact h
  · split
    extract_lets missing
    clear_value missing
    split
    next t e =>
      have ht : MemoryCanonical t := by
        cases missing with
        | nil => cases e; exact h
        | cons p _ => exact (State.takeWord_canonical h).of_eq e
      refine ite_holds ht ?_
      split
      · exact ht
      · exact State.putAll_canonical ht

theorem State.wholeUnit_canonical {s core id w fuel} (h : MemoryCanonical s) :
    MemoryCanonical (s.wholeUnit core id w fuel) := by
  induction fuel generalizing s with
  | zero => exact h
  | succ fuel ih =>
    unfold State.wholeUnit
    split
    · exact ite_holds (ih (State.doUnit_canonical h)) h
    · exact h

theorem State.runCopy_canonical {s core id} (h : MemoryCanonical s) : MemoryCanonical (s.runCopy core id) := by
  unfold State.runCopy
  split
  · exact h
  · exact State.modCmd_canonical (foldl_holds h (fun _ h1 _ => State.wholeUnit_canonical h1))

/-! ### `Sys2Proof/Machine/TileRun.lean` -/

theorem State.failWith_canonical {s core id e} (h : MemoryCanonical s) : MemoryCanonical (s.failWith core id e) := h

theorem State.setDid_canonical {s core id} (h : MemoryCanonical s) : MemoryCanonical (s.setDid core id) := h

theorem State.runMma_canonical {s core c t p from_} (h : MemoryCanonical s) :
    MemoryCanonical (s.runMma core c t p from_) := by
  unfold State.runMma
  extract_lets _ _ _ err _ u
  have hu : MemoryCanonical u := by
    unfold u
    clear_value err
    split <;> exact State.modTile_canonical h
  exact hu

theorem State.runTload_canonical {s core c f t xa xb cb nbm rmaj} (h : MemoryCanonical s) :
    MemoryCanonical (s.runTload core c f t xa xb cb nbm rmaj) :=
  State.setDid_canonical (State.accFresh_canonical (State.modTile_canonical h))

theorem State.putPiece_canonical {s core id segs w va d} (h : MemoryCanonical s) :
    PairCanonical (s.putPiece core id segs w va d) := by
  unfold State.putPiece
  split
  · exact h
  · refine ite_holds h ?_
    refine ite_holds h ?_
    extract_lets mark
    have hmark : ∀ t, MemoryCanonical t → MemoryCanonical (mark t) := by
      intro t h1
      unfold mark
      exact h1
    split
    · exact hmark _ h
    · split
      next e2 => exact ((State.engWrite_canonical h).of_eq e2 :)
      next e2 => exact hmark _ ((State.engWrite_canonical h).of_eq e2)
      next e2 => exact hmark _ (State.failCmd_canonical ((State.engWrite_canonical h).of_eq e2))

theorem State.runWrites_canonical {s core id segs l} (h : MemoryCanonical s) :
    MemoryCanonical (s.runWrites core id segs l) := by
  have hput : ∀ ps : List ((Nat × List Byte) × Nat), PairCanonical (ps.foldl (fun (r : Bool × State) p =>
      let (ok, s) := r.2.putPiece core id segs p.2 p.1.1 p.1.2
      (r.1 && ok, s)) (true, s)) := fun ps =>
    foldl_holds (P := PairCanonical) h fun r hr p => State.putPiece_canonical hr
  unfold State.runWrites
  split
  next e =>
    have ht := (hput _).of_eq e
    exact ite_holds (State.setDid_canonical ht) ht

theorem State.failMarked_canonical {s core c x es} (h : MemoryCanonical s) :
    MemoryCanonical (s.failMarked core c x es) :=
  ite_holds h h

theorem State.runTstore_canonical {s core c f t xa xb cb nbm rmaj segs} (h : MemoryCanonical s) :
    MemoryCanonical (s.runTstore core c f t xa xb cb nbm rmaj segs) :=
  State.runWrites_canonical (State.failMarked_canonical h)

theorem State.runTsave_canonical {s core c t xa segs desc} (h : MemoryCanonical s) :
    MemoryCanonical (s.runTsave core c t xa segs desc) := by
  unfold State.runTsave
  exact State.runWrites_canonical (State.failMarked_canonical h)

theorem State.cmdMarked_canonical {s core c} (h : MemoryCanonical s) : MemoryCanonical (s.cmdMarked core c) := by
  unfold State.cmdMarked
  split
  · exact State.failMarked_canonical h
  · exact State.failMarked_canonical h
  · exact h

theorem State.writeWord_canonical {s core c w} (h : MemoryCanonical s) : MemoryCanonical (s.writeWord core c w) := by
  unfold State.writeWord
  refine ite_holds h ?_
  split
  split
  · exact State.putPiece_canonical (State.cmdMarked_canonical h)
  · exact h

theorem State.writeAt_canonical {s core c va} (h : MemoryCanonical s) : MemoryCanonical (s.writeAt core c va) := by
  unfold State.writeAt
  split
  · exact State.writeWord_canonical h
  · exact h

theorem State.runTrest_canonical {s core c t xa l} (h : MemoryCanonical s) :
    MemoryCanonical (s.runTrest core c t xa l) :=
  State.setDid_canonical (State.accFresh_canonical (State.modTile_canonical h))

theorem State.runMcnt_canonical {s core c bank t p} (h : MemoryCanonical s) :
    MemoryCanonical (s.runMcnt core c bank t p) := by
  unfold State.runMcnt
  extract_lets _ rows cols add u
  have hu : MemoryCanonical u := by
    unfold u
    split
    · exact State.modTile_canonical h
    · exact h
  exact hu

theorem State.runMclr_canonical {s core c bank} (h : MemoryCanonical s) : MemoryCanonical (s.runMclr core c bank) := h

theorem State.runMdrn_canonical {s core c bank t cb n acm key} (h : MemoryCanonical s) :
    MemoryCanonical (s.runMdrn core c bank t cb n acm key) :=
  State.runMclr_canonical
    (ite_holds
      (State.accFresh_canonical
        (ite_holds (State.failWith_canonical (State.modTile_canonical h)) (ite_holds (State.modTile_canonical h) h)))
      (ite_holds (State.failWith_canonical (State.modTile_canonical h)) (ite_holds (State.modTile_canonical h) h)))

theorem State.runTile_canonical {s core c} (h : MemoryCanonical s) : MemoryCanonical (s.runTile core c) := by
  unfold State.runTile
  refine ite_holds ?_ ?_
  · split <;> exact h
  · split
    · exact State.runTload_canonical h
    · exact State.runTstore_canonical h
    · exact State.runMma_canonical h
    · exact State.runTsave_canonical h
    · exact State.runTrest_canonical h
    · exact State.runMcnt_canonical h
    · exact h
    · exact State.runMdrn_canonical h
    · exact h
    · exact h

/-! ### `Sys2Proof/Machine/EvMem.lean` -/

theorem State.ldeQueue_canonical {s t p xd clear} (h : MemoryCanonical s) :
    MemoryCanonical (s.ldeQueue t p xd clear) :=
  State.atTid_canonical (State.blockOn_canonical h)

theorem State.replyPart_canonical {s t d parts i} (h : MemoryCanonical s) : PairCanonical (s.replyPart t d parts i) := by
  unfold State.replyPart
  split
  · exact h
  · refine ite_holds ?_ h
    extract_lets _ _ u
    have hu : MemoryCanonical u := by
      unfold u
      split <;> exact h
    split
    next e => exact ((State.performPart_canonical hu).of_eq e :)
    next e =>
      have ht := (State.performPart_canonical hu).of_eq e
      exact ite_holds (P := MemoryCanonical) ht (State.dropLoads_canonical ht)
    · exact hu

theorem State.repliesTo_canonical {s t d parts} (h : MemoryCanonical s) : MemoryCanonical (s.repliesTo t d parts) :=
  State.atTid_canonical (ite_holds (State.tryFinish_canonical h) h)

theorem State.replied_canonical {s t d parts} (h : MemoryCanonical s) : MemoryCanonical (s.replied t d parts) := by
  unfold State.replied
  split
  · exact ite_holds (State.ldeQueue_canonical h) (State.repliesTo_canonical h)
  · exact State.repliesTo_canonical h

theorem State.loadReply_canonical {s t} (h : MemoryCanonical s) : MemoryCanonical (s.loadReply t) := by
  unfold State.loadReply
  split
  · split
    · exact State.replied_canonical h
    · exact State.replied_canonical (State.replyPart_canonical h)
    · split
      next e => exact State.replied_canonical (State.replyPart_canonical ((State.choose_canonical h).of_eq e))
      next e => exact (State.choose_canonical h).of_eq e
  · exact h

theorem State.loadReplyAll_canonical {s t} (h : MemoryCanonical s) : MemoryCanonical (s.loadReplyAll t) := by
  unfold State.loadReplyAll
  split
  · exact State.replied_canonical (foldl_holds (P := PairCanonical) h fun _ hr _ => State.replyPart_canonical hr)
  · exact h

theorem execLoadReply_canonical {core slot s} (h : MemoryCanonical s) : NextCanonical (execLoadReply core slot s) := by
  unfold execLoadReply
  extract_lets
  show MemoryCanonical _
  split
  · split
    next e2 =>
      have he2 := (State.rouse_canonical h).of_eq e2
      exact ite_holds (State.atTid_canonical (State.chanDone_canonical (State.atTid_canonical he2))) he2
    next e2 => exact (State.rouse_canonical h).of_eq e2
  · exact State.loadReply_canonical h

theorem execLdnReply_canonical {core slot x s} (h : MemoryCanonical s) : NextCanonical (execLdnReply core slot x s) := by
  unfold execLdnReply
  show MemoryCanonical _
  split
  · split
    next e1 =>
      have he1 := (State.rouse_canonical h).of_eq e1
      exact ite_holds he1
        (ite_holds (State.dropVia_canonical (State.modHandle_canonical he1))
          (State.raise_canonical (State.dropVia_canonical (State.modHandle_canonical he1))))
  · exact h

theorem State.performLdn_canonical {s t x} (h : MemoryCanonical s) : MemoryCanonical (s.performLdn t x) := by
  unfold State.performLdn
  split
  · exact h
  · split
    · exact h
    · extract_lets
      refine ite_holds h ?_
      split
      next e2 => exact (State.readPart_canonical h).of_eq e2
      · exact State.modHandle_canonical h
      next e2 => exact State.modHandle_canonical (State.mk_canonical ((State.readPart_canonical h).of_eq e2))

theorem State.performStore_canonical {s x pa} (h : MemoryCanonical s) : MemoryCanonical (s.performStore x pa) := by
  unfold State.performStore
  split
  next e =>
    have he := (State.perform_canonical h).of_eq e
    extract_lets
    refine ite_holds (State.setPhase_canonical he) ?_
    split
    · exact State.updateLine_canonical (State.setPhase_canonical he)
    · exact State.dropLine_canonical (State.setPhase_canonical he)

theorem State.storeAtHome_canonical {s id} (h : MemoryCanonical s) : MemoryCanonical (s.storeAtHome id) := by
  unfold State.storeAtHome
  split
  · exact h
  · extract_lets
    refine ite_holds h ?_
    split
    next e1 => exact State.performStore_canonical (State.mk_canonical ((State.gateFor_canonical h).of_eq e1))
    next e1 =>
      have he1 := (State.gateFor_canonical h).of_eq e1
      exact ite_holds (State.setPhase_canonical he1) he1
    · exact h
    · exact h

theorem execStoreAcknowledged_canonical {id s} (h : MemoryCanonical s) : NextCanonical (execStoreAcknowledged id s) := by
  unfold execStoreAcknowledged
  show MemoryCanonical _
  split
  · exact h
  · split
    next e =>
      have ht := PairCanonical.of_eq (by exact ite_holds (P := PairCanonical) h (State.rouse_canonical h)) e
      refine ite_holds ht ?_
      extract_lets drop
      have hd : MemoryCanonical drop := ht
      split
      · exact hd
      · exact ite_holds hd (State.raise_canonical hd)
      · exact ht

theorem State.engineWord_canonical {s core cmd w} (h : MemoryCanonical s) :
    MemoryCanonical (s.engineWord core cmd w) := by
  unfold State.engineWord
  split
  · exact h
  · refine ite_holds h ?_
    refine ite_holds (ite_holds (State.doUnit_canonical h) h) ?_
    refine ite_holds ?_ h
    split
    · exact State.takeWord_canonical h
    · exact State.writeWord_canonical h

theorem State.retryWord_canonical {s core cmd w} (h : MemoryCanonical s) : MemoryCanonical (s.retryWord core cmd w) := by
  unfold State.retryWord
  extract_lets
  split
  · exact h
  · refine ite_holds h ?_
    extract_lets
    refine ite_holds ?_ ?_
    · split
      · exact State.takeWord_canonical h
      · exact h
    · refine ite_holds ?_ (ite_holds (State.writeAt_canonical h) h)
      split
      · exact State.doUnit_canonical h
      · exact h

theorem execAccessAtHome_canonical {a s} (h : MemoryCanonical s) : NextCanonical (execAccessAtHome a s) := by
  unfold execAccessAtHome
  show MemoryCanonical _
  split
  · exact State.storeAtHome_canonical h
  · exact State.performLdn_canonical h
  · exact State.engineWord_canonical h

theorem execRefreshWindowEnd_canonical {bank s} (h : MemoryCanonical s) :
    NextCanonical (execRefreshWindowEnd bank s) := by
  unfold execRefreshWindowEnd
  show MemoryCanonical _
  exact ite_holds h (foldl_holds h (fun _ h1 _ => State.loadReplyAll_canonical h1))

theorem execSoftError_canonical {w s} (h : MemoryCanonical s) : NextCanonical (execSoftError w s) := by
  unfold execSoftError
  show MemoryCanonical _
  split
  · exact ite_holds h h
  · exact ite_holds h h
  · split
    · exact ite_holds h h
    · exact h
  · exact ite_holds h h
  · exact State.kill_canonical h

/-! ### `Sys2Proof/Machine/EvSend.lean` -/

theorem State.sendBack_canonical {s i} (h : MemoryCanonical s) : MemoryCanonical (s.sendBack i) := by
  unfold State.sendBack
  split <;> exact h

theorem State.holdPut_canonical {s i core home} (h : MemoryCanonical s) : MemoryCanonical (s.holdPut i core home) := by
  unfold State.holdPut
  refine ite_holds (State.sendBack_canonical h) ?_
  split <;> exact h

theorem State.putAway_canonical {s i chip} (h : MemoryCanonical s) : MemoryCanonical (s.putAway i chip) := by
  unfold State.putAway
  refine ite_holds (State.answerItem_canonical h) ?_
  split <;> exact h

theorem State.arrivePut_canonical {s i core name idx d} (h : MemoryCanonical s) :
    MemoryCanonical (s.arrivePut i core name idx d) := by
  unfold State.arrivePut
  split
  next e => exact State.answerItem_canonical ((State.putMeets_canonical h).of_eq e)
  · exact h
  · exact State.putAway_canonical h
  next e => exact State.holdPut_canonical ((State.putMeets_canonical h).of_eq e)

theorem State.joinPuts_canonical {s i core name l} (h : MemoryCanonical s) :
    MemoryCanonical (s.joinPuts i core name l) := by
  unfold State.joinPuts
  split
  · exact State.answerItem_canonical h
  · exact State.holdPut_canonical h

theorem execPutArrival_canonical {id s} (h : MemoryCanonical s) : NextCanonical (execPutArrival id s) := by
  unfold execPutArrival
  show MemoryCanonical _
  split
  · split
    · exact State.atRunning_canonical h (fun _ h1 =>
        ite_holds (State.arrivePut_canonical h1) (State.joinPuts_canonical h1))
    · exact State.atRunning_canonical h (fun _ h1 => ite_holds (State.arrivePut_canonical h1) h1)
    · exact h
  · exact h

theorem State.putFailed_canonical {s i st name idx} (h : MemoryCanonical s) :
    MemoryCanonical (s.putFailed i st name idx) := by
  unfold State.putFailed
  split
  · exact h
  · exact ite_holds (State.raise_canonical (State.modHandle_canonical h)) (State.modHandle_canonical h)

theorem State.itemEvent_canonical {s i} (h : MemoryCanonical s) : MemoryCanonical (s.itemEvent i) := by
  unfold State.itemEvent
  split
  · exact State.addEvent_canonical h
  · exact h

theorem execPutReply_canonical {id s} (h : MemoryCanonical s) : NextCanonical (execPutReply id s) := by
  unfold execPutReply
  show MemoryCanonical _
  split
  · split
    · refine State.atRunning_canonical h (fun _ h1 => ?_)
      extract_lets
      refine ite_holds ?_ (State.putFailed_canonical h1)
      next t1 =>
        have h2 : MemoryCanonical t1 := by
          unfold t1
          split <;> exact h1
        exact State.itemEvent_canonical h2
    · exact h
  · exact h

theorem execPutResend_canonical {id s} (h : MemoryCanonical s) : NextCanonical (execPutResend id s) := by
  unfold execPutResend
  show MemoryCanonical _
  split
  · split
    · exact ite_holds (State.launchItem_canonical h) h
    · exact h
  · exact h

theorem execMessageArrival_canonical {id s} (h : MemoryCanonical s) : NextCanonical (execMessageArrival id s) := by
  unfold execMessageArrival
  show MemoryCanonical _
  split
  · split
    · exact State.atRunning_canonical h (fun _ h1 => State.arriveMsg_canonical h1)
    · exact h
  · exact h

theorem execSendReply_canonical {id s} (h : MemoryCanonical s) : NextCanonical (execSendReply id s) := by
  unfold execSendReply
  show MemoryCanonical _
  split
  · split
    · exact State.atRunning_canonical h (fun _ h1 =>
        ite_holds (State.itemEvent_canonical h1) (State.raise_canonical h1))
    · exact h
  · exact h

theorem execMailboxReservationLapse_canonical {core idx s} (h : MemoryCanonical s) :
    NextCanonical (execMailboxReservationLapse core idx s) := by
  unfold execMailboxReservationLapse
  show MemoryCanonical _
  split
  · exact h
  · exact ite_holds h (foldl_holds h (fun _ h1 _ => State.signalNext_canonical h1))

theorem execSenderRetry_canonical {id s} (h : MemoryCanonical s) : NextCanonical (execSenderRetry id s) := by
  unfold execSenderRetry
  show MemoryCanonical _
  split
  · split
    · exact ite_holds (State.launchItem_canonical h) h
    · exact h
  · exact h

theorem execSpawnMessage_canonical {id s} (h : MemoryCanonical s) : NextCanonical (execSpawnMessage id s) := by
  unfold execSpawnMessage
  show MemoryCanonical _
  split
  · split
    · refine State.atRunning_canonical h (fun _ h1 => ?_)
      split
      next e3 => exact State.answerItem_canonical ((State.spawnMsg_canonical h1).of_eq e3)
    · exact h
  · exact h

theorem execSpnrAnswer_canonical {id s} (h : MemoryCanonical s) : NextCanonical (execSpnrAnswer id s) := by
  unfold execSpnrAnswer
  show MemoryCanonical _
  split
  · split
    · exact State.atRunning_canonical h (fun _ h1 => State.itemEvent_canonical (State.storeFor_canonical h1))
    · exact h
  · exact h

/-! ### `Sys2Proof/Machine/Flow.lean` -/

theorem privileged_canonical {need s k} (h : MemoryCanonical s) (h1 : NextCanonical k) :
    NextCanonical (privileged need s k) :=
  ite_holds (State.trap_canonical h) h1

theorem State.branch_canonical {s taken anl t indirect link} (h : MemoryCanonical s) :
    MemoryCanonical (s.branch taken anl t indirect link) :=
  ite_holds (State.commitTaken_canonical h)
    (ite_holds (State.trap_canonical h)
      (ite_holds (State.trap_canonical h) (State.commitTaken_canonical (ite_holds h h))))

theorem execTrap_canonical {g b s} (h : MemoryCanonical s) : NextCanonical (execTrap g b s) :=
  guarded_canonical h (fun _ h1 => State.trapi_canonical h1)

theorem execEret_canonical {g s} (h : MemoryCanonical s) : NextCanonical (execEret g s) :=
  privileged_canonical h (guarded_canonical h (fun _ h1 => ite_holds h1 (State.eret_canonical h1)))

theorem State.postTo_canonical {s c n v} (h : MemoryCanonical s) : PairCanonical (s.postTo c n v) := by
  unfold State.postTo
  split
  · exact h
  · exact ite_holds h (ite_holds h (State.raise_canonical h))

theorem State.postDone_canonical {s n v xd pd pe} (h : MemoryCanonical s) :
    MemoryCanonical (s.postDone n v xd pd pe) := by
  unfold State.postDone
  split
  next e => exact State.accept_canonical ((State.postTo_canonical h).of_eq e)
  next e => exact State.refuse_canonical ((State.postTo_canonical h).of_eq e)

theorem execTpost_canonical {g xd pd pe xa b s} (h : MemoryCanonical s) :
    NextCanonical (execTpost g xd pd pe xa b s) :=
  guarded_canonical h (fun _ h1 =>
    ite_holds (State.postDone_canonical h1)
      (ite_holds (State.refuse_canonical h1)
        (ite_holds (State.refuse_canonical h1) (ite_holds (State.postDone_canonical h1) h1))))

theorem State.srWrite_canonical {s n v} (h : MemoryCanonical s) : MemoryCanonical (s.srWrite n v) := by
  unfold State.srWrite
  extract_lets grp
  have hgrp : ∀ t, MemoryCanonical (grp t) := by
    intro x
    unfold grp
    split <;> exact h
  split
  · exact h
  · exact h
  · exact h
  · exact hgrp _
  · exact hgrp _
  · exact hgrp _
  · exact hgrp _
  · exact h
  · exact h
  · exact h
  · exact h
  · exact h
  · exact h
  · exact h
  · exact h
  · exact h
  · exact h
  · exact h
  · exact h
  · exact h
  · exact h

theorem execSrd_canonical {g xd n s} (h : MemoryCanonical s) : NextCanonical (execSrd g xd n s) :=
  ite_holds (P := NextCanonical) (State.trap_canonical h)
    (privileged_canonical h (guarded_canonical h fun _ ht => State.commit_canonical ht))

theorem execSwr_canonical {g n xa s} (h : MemoryCanonical s) : NextCanonical (execSwr g n xa s) :=
  ite_holds (P := NextCanonical) (State.trap_canonical h) (privileged_canonical h (guarded_canonical h fun _ ht =>
    ite_holds (State.trap_canonical ht) (State.commit_canonical (State.srWrite_canonical ht))))

theorem execFence_canonical {g o s} (h : MemoryCanonical s) : NextCanonical (execFence g o s) :=
  ite_holds (P := NextCanonical) (State.trap_canonical h) (guarded_canonical h fun _ ht =>
    ite_holds
      (ite_holds (State.commit_canonical ht)
        (State.acquireWait_canonical ht fun _ hu => State.commit_canonical (State.acquireAt_canonical hu)))
      (State.release_canonical ht fun _ hu =>
        ite_holds (State.commit_canonical hu)
          (State.acquireWait_canonical hu fun _ hv => State.commit_canonical (State.acquireAt_canonical hv))))

/-! ### `Sys2Proof/Machine/GroupIns.lean` -/

theorem execGnameRank_canonical {g xd pd pe b s} (h : MemoryCanonical s) :
    NextCanonical (execGnameRank g xd pd pe b s) := by
  unfold execGnameRank
  refine guarded_canonical h (fun _ h1 => ?_)
  extract_lets
  split
  · exact State.refuse_canonical h1
  · refine ite_holds (State.refuse_canonical h1) ?_
    split
    · exact State.accept_canonical h1
    · exact State.refuse_canonical h1

theorem execVarm_canonical {g vd count s} (h : MemoryCanonical s) : NextCanonical (execVarm g vd count s) := by
  unfold execVarm
  refine guarded_canonical h (fun _ h1 => ?_)
  split
  · exact State.trap_canonical h1
  · split <;> exact State.commit_canonical h1

theorem execVput_canonical {g va xa idx ev s} (h : MemoryCanonical s) : NextCanonical (execVput g va xa idx ev s) := by
  unfold execVput
  refine guarded_canonical h (fun _ h1 => ?_)
  split
  · exact State.trap_canonical h1
  · split
    · exact State.blockOn_canonical h1
    · exact ite_holds h1
        (State.bankThen_canonical h1 (fun _ h2 =>
          State.readVThen_canonical h2 (fun _ h3 => State.commit_canonical (State.addItem_canonical h3))))

/-! ### `Sys2Proof/Machine/Kernel.lean` -/

theorem State.agentRead_canonical {s t n} (h : MemoryCanonical s) : PairCanonical (s.agentRead t n) := by
  unfold State.agentRead
  refine ite_holds h ?_
  split
  next e =>
    have he := (State.agentGate_canonical h).of_eq e
    exact ite_holds he he
  next e => exact ((State.agentGate_canonical h).of_eq e :)
  · exact h
  · exact h

theorem State.agentLoad_canonical {s c va n} (h : MemoryCanonical s) : PairCanonical (s.agentLoad c va n) := by
  unfold State.agentLoad
  split
  · exact h
  · exact State.agentRead_canonical h

theorem State.shapeImage_canonical {s c r} (h : MemoryCanonical s) : PairCanonical (s.shapeImage c r) := by
  unfold State.shapeImage
  refine ite_holds h ?_
  split
  next e => exact ((State.agentLoad_canonical h).of_eq e :)
  · exact State.agentLoad_canonical h

theorem State.setLaunch_canonical {s k st} (h : MemoryCanonical s) : MemoryCanonical (s.setLaunch k st) := by
  unfold State.setLaunch
  split <;> exact h

theorem State.endLaunch_canonical {s k st cause addr} (h : MemoryCanonical s) :
    MemoryCanonical (s.endLaunch k st cause addr) := by
  unfold State.endLaunch
  split
  · exact h
  · exact State.record_canonical (State.mk_canonical (State.setLaunch_canonical h))

theorem State.makeEligible_canonical {s k} (h : MemoryCanonical s) : MemoryCanonical (s.makeEligible k) := by
  unfold State.makeEligible
  split
  · exact h
  · extract_lets go
    have hgo : ∀ t, MemoryCanonical t → MemoryCanonical (go t) := by
      intro t h1
      unfold go
      exact State.modLaunch_canonical (State.setLaunch_canonical h1)
    refine ite_holds (hgo _ h) ?_
    split
    · exact State.setLaunch_canonical h
    next e1 => exact State.endLaunch_canonical ((State.agentLoad_canonical h).of_eq e1)
    next e1 =>
      have he1 := (State.agentLoad_canonical h).of_eq e1
      exact ite_holds (hgo _ he1) (State.endLaunch_canonical he1)

theorem State.takeLaunch_canonical {s c r image producers} (h : MemoryCanonical s) :
    MemoryCanonical (s.takeLaunch c r image producers) :=
  ite_holds (State.endLaunch_canonical (State.modCtx_canonical (State.mk_canonical (State.drainBuffers_canonical h))))
    (ite_holds
      (State.makeEligible_canonical (State.modCtx_canonical (State.mk_canonical (State.drainBuffers_canonical h))))
      (State.setLaunch_canonical (State.modCtx_canonical (State.mk_canonical (State.drainBuffers_canonical h)))))

theorem execTrig_canonical {g s} (h : MemoryCanonical s) : NextCanonical (execTrig g s) := by
  unfold execTrig
  refine guarded_canonical h (fun _ h1 => ?_)
  refine State.release_canonical h1 (fun _ h2 => ?_)
  split
  · exact State.commit_canonical (State.modLaunch_canonical h2)
  · exact State.commit_canonical h2

theorem State.kwaitTest_canonical {s pd pe} (h : MemoryCanonical s) : OptionCanonical (s.kwaitTest pd pe) := by
  unfold State.kwaitTest
  extract_lets ok
  have hok : ∀ t, MemoryCanonical t → MemoryCanonical (ok t) := by
    intro t h1
    unfold ok
    exact State.commit_canonical (State.modMe_canonical (State.acquireAt_canonical h1))
  split
  · exact hok _ h
  · exact ite_holds (State.commit_canonical h) (ite_holds trivial (hok _ h))

theorem execKwait_canonical {g pd pe s} (h : MemoryCanonical s) : NextCanonical (execKwait g pd pe s) := by
  unfold execKwait
  refine guarded_canonical h (fun _ h1 => ?_)
  split
  next e => exact ite_holds ((State.kwaitTest_canonical h1).of_eq e) h1
  · exact State.blockOn_canonical h1

theorem State.klnchRec_canonical {s xd pd pe d} (h : MemoryCanonical s) : MemoryCanonical (s.klnchRec xd pd pe d) := by
  unfold State.klnchRec
  extract_lets
  refine ite_holds (State.refuse_canonical h) ?_
  refine ite_holds (State.refuse_canonical h) ?_
  refine ite_holds (State.refuse_canonical h) ?_
  split
  · exact h
  next e => exact State.refuse_canonical ((State.shapeImage_canonical h).of_eq e)
  next e => exact State.accept_canonical (State.takeLaunch_canonical ((State.shapeImage_canonical h).of_eq e))

theorem execKlnch_canonical {g xd pd pe xa s} (h : MemoryCanonical s) : NextCanonical (execKlnch g xd pd pe xa s) := by
  unfold execKlnch
  refine guarded_canonical h (fun _ h1 => ?_)
  extract_lets
  refine ite_holds (State.trap_canonical h1) ?_
  split
  next e => exact (State.check_canonical h1).of_eq e
  next e =>
    exact State.release_canonical ((State.check_canonical h1).of_eq e) (fun _ h2 =>
      State.readRecord_canonical h2 (fun _ _ h3 => State.klnchRec_canonical h3))

/-! ### `Sys2Proof/Machine/EvThread.lean` -/

theorem State.delivered_canonical {s t n} {f : State → State} (h : MemoryCanonical s)
    (hf : ∀ t, MemoryCanonical t → MemoryCanonical (f t)) : MemoryCanonical (s.delivered t n f) :=
  State.atRunning_canonical h (fun _ h1 => State.atRunning_canonical h1 (fun _ h2 => State.atTid_canonical (hf _ h2)))

theorem execSemaDelivery_canonical {core slot s} (h : MemoryCanonical s) :
    NextCanonical (execSemaDelivery core slot s) := by
  unfold execSemaDelivery
  extract_lets
  show MemoryCanonical _
  split
  · exact State.delivered_canonical h (fun _ h1 => State.semaDone_canonical h1)
  · exact h

theorem execPostDelivery_canonical {core slot s} (h : MemoryCanonical s) :
    NextCanonical (execPostDelivery core slot s) := by
  unfold execPostDelivery
  extract_lets
  show MemoryCanonical _
  split
  · exact State.delivered_canonical h (fun _ h1 => State.postDone_canonical h1)
  · exact h

theorem State.rebind_canonical {s n old gen u} (h : MemoryCanonical s) : MemoryCanonical (s.rebind n old gen u) := h

theorem State.moveThread_canonical {s t c} (h : MemoryCanonical s) : OptionPairCanonical (s.moveThread t c) := by
  unfold State.moveThread
  extract_lets _ _ fwd _
  split
  · exact trivial
  next e =>
    have he := (State.create_canonical h).of_eq e
    extract_lets _ s2
    have h2 : MemoryCanonical s2 := by
      unfold s2
      clear_value fwd
      split
      · exact State.modCore_canonical (State.rebind_canonical he)
      · exact State.rebind_canonical he
    exact h2

theorem State.arriveFrom_canonical {s t from_} (h : MemoryCanonical s) : MemoryCanonical (s.arriveFrom t from_) :=
  ite_holds h (ite_holds (State.acquireAt_canonical h) h)

theorem execMigrationArrival_canonical {core slot s} (h : MemoryCanonical s) :
    NextCanonical (execMigrationArrival core slot s) := by
  unfold execMigrationArrival
  extract_lets t
  show MemoryCanonical _
  split
  · exact h
  · refine State.atRunning_canonical h fun u hu => State.atRunning_canonical hu fun v hv => ?_
    extract_lets drop ctx
    have hd : MemoryCanonical drop := hv
    refine ite_holds hv ?_
    split
    · split
      next e =>
        have hw := OptionPairCanonical.of_eq
          (by exact ite_holds (P := OptionPairCanonical) (State.moveThread_canonical hd) trivial) e
        exact State.arriveFrom_canonical (State.accept_canonical hw)
      · exact State.refuse_canonical hd
    · refine ite_holds hd (ite_holds hv ?_)
      split
      next e => exact State.arriveFrom_canonical ((State.moveThread_canonical hd).of_eq e)
      · exact hd

theorem execForwardingEntryFree_canonical {core idx s} (h : MemoryCanonical s) :
    NextCanonical (execForwardingEntryFree core idx s) := by
  unfold execForwardingEntryFree
  show MemoryCanonical _
  split
  · exact ite_holds h h
  · exact h

theorem State.agentBytes_canonical {s c fuel va n} (h : MemoryCanonical s) :
    PairCanonical (s.agentBytes c fuel va n) := by
  induction fuel generalizing s va n with
  | zero => exact h
  | succ fuel ih =>
    unfold State.agentBytes
    extract_lets
    split
    next e =>
      have ht := (State.agentLoad_canonical h).of_eq e
      refine ite_holds ht ?_
      split
      next e2 => exact ((ih ht).of_eq e2 :)
      · exact ih ht
    · exact State.agentLoad_canonical h

theorem State.agentWrite_canonical {s c va d} (h : MemoryCanonical s) : PairCanonical (s.agentWrite c va d) := by
  unfold State.agentWrite
  split
  · exact h
  · refine ite_holds h ?_
    split
    next e1 => exact State.storeFor_canonical ((State.agentGate_canonical h).of_eq e1)
    next e1 => exact ((State.agentGate_canonical h).of_eq e1 :)
    · exact h
    · exact h

theorem execTaskQueueRestore_canonical {core s} (h : MemoryCanonical s) :
    NextCanonical (execTaskQueueRestore core s) := by
  unfold execTaskQueueRestore
  show MemoryCanonical _
  split
  · exact h
  · refine ite_holds h ?_
    refine State.atRunning_canonical h fun t ht => ?_
    extract_lets u write bad
    have hu : MemoryCanonical u := State.modCore_canonical (State.acquireAt_canonical ht)
    have hwrite : ∀ u d, MemoryCanonical u → MemoryCanonical (write u d) := by
      intro u d hu
      unfold write
      split
      next e => exact (State.agentWrite_canonical hu).of_eq e
      · exact ht
    have hbad : ∀ u d, MemoryCanonical u → MemoryCanonical (bad u d) := fun _ _ hu =>
      hwrite _ _ (State.record_canonical hu)
    split
    · exact ht
    next e => exact hbad _ _ ((State.agentBytes_canonical hu).of_eq e)
    next e =>
      have he := (State.agentBytes_canonical hu).of_eq e
      refine ite_holds ?_ (hbad _ _ he)
      split
      next e2 => exact hwrite _ _ ((State.create_canonical he).of_eq e2)
      · exact (State.agentBytes_canonical hu).of_eq e

theorem execOutriderCommand_canonical {core s} (h : MemoryCanonical s) : NextCanonical (execOutriderCommand core s) := by
  unfold execOutriderCommand
  show MemoryCanonical _
  split
  · exact h
  · exact ite_holds h h

/-! ### `Sys2Proof/Machine/EvStarter.lean` -/

theorem State.dropRecord_canonical {s c q st} (h : MemoryCanonical s) : MemoryCanonical (s.dropRecord c q st) := by
  unfold State.dropRecord
  split
  · exact h
  · exact State.record_canonical h

theorem State.appendRecs_canonical {s c q o d n} (h : MemoryCanonical s) : MemoryCanonical (s.appendRecs c q o d n) := by
  induction n generalizing s o d with
  | zero => exact h
  | succ n ih =>
    unfold State.appendRecs
    refine ih (ite_holds h ?_)
    split
    · exact h
    · exact ite_holds h (State.dropRecord_canonical h)

theorem execLaunchWindowWrite_canonical {iface off bytes s} (h : MemoryCanonical s) :
    NextCanonical (execLaunchWindowWrite iface off bytes s) := by
  unfold execLaunchWindowWrite
  extract_lets
  show MemoryCanonical _
  refine ite_holds h ?_
  split
  · exact h
  · exact ite_holds h (ite_holds (State.appendRecs_canonical h) (State.dropRecord_canonical h))

theorem State.takeRecord_canonical {s c q d image taken} (h : MemoryCanonical s) :
    MemoryCanonical (s.takeRecord c q d image taken) := by
  unfold State.takeRecord
  extract_lets _ _ bad _ s1
  have hbad : ∀ t, MemoryCanonical t → MemoryCanonical (bad t) := by
    intro t h1
    unfold bad
    exact State.endLaunch_canonical h1
  have h1 : MemoryCanonical s1 := by
    unfold s1
    refine ite_holds ?_ (hbad _ h)
    split
    · exact State.takeLaunch_canonical h
    · exact hbad _ h
  exact h1

theorem execTakeLaunchRecord_canonical {s} (h : MemoryCanonical s) : NextCanonical (execTakeLaunchRecord s) := by
  have himage {c : Prop} [Decidable c] {ctx l} : PairCanonical (if c then s.shapeImage ctx l else (.data [], s)) :=
    ite_holds (P := PairCanonical) (State.shapeImage_canonical h) h
  unfold execTakeLaunchRecord
  show MemoryCanonical _
  split
  · exact h
  · split
    · exact h
    · split
      · exact h
      · split
        · exact h
        · split
          next e => exact State.onlyWakes_canonical h
          next e => exact State.takeRecord_canonical (himage.of_eq e)

theorem State.makeGroup_canonical {s k l core} (h : MemoryCanonical s) : OptionCanonical (s.makeGroup k l core) := by
  unfold State.makeGroup
  split
  · extract_lets _ _ _ _ _ _ _ _ _ now
    have h1 : MemoryCanonical now := by
      unfold now
      refine foldl_holds
        (State.acquireAt_canonical
          (State.modCore_canonical (State.mk_canonical (ite_holds h (State.wakeBank_canonical h))))) fun t h1 x5 => ?_
      split
      next e2 => exact (State.create_canonical h1).of_eq e2
      · exact h1
    exact State.modLaunch_canonical h1
  · exact trivial

theorem State.afterPlace_canonical {s k} (h : MemoryCanonical s) : MemoryCanonical (s.afterPlace k) := by
  unfold State.afterPlace
  split
  · exact h
  · extract_lets
    split
    · exact ite_holds (State.setLaunch_canonical h) (State.setLaunch_canonical h)
    · exact ite_holds h (State.setLaunch_canonical h)
    · exact h

theorem execGroupPlace_canonical {s} (h : MemoryCanonical s) : NextCanonical (execGroupPlace s) := by
  unfold execGroupPlace
  show MemoryCanonical _
  split
  · exact h
  · refine State.atRunning_canonical h (fun _ h1 => ?_)
    split
    next e1 => exact State.afterPlace_canonical ((State.makeGroup_canonical h1).of_eq e1)
    · exact h1

theorem execPlacementFairnessTimeout_canonical {serial s} (h : MemoryCanonical s) :
    NextCanonical (execPlacementFairnessTimeout serial s) := by
  unfold execPlacementFairnessTimeout
  show MemoryCanonical _
  split
  · split
    · exact ite_holds (State.modLaunch_canonical h) h
    · exact h
  · exact h

/-! ### `Sys2Proof/Machine/Evict.lean` -/

theorem State.takeOut_canonical {s t} (h : MemoryCanonical s) : MemoryCanonical (s.takeOut t) :=
  State.modSlot_canonical (State.mk_canonical (State.drainBuffers_canonical h))

theorem State.bringBack_canonical {s core th n} (h : MemoryCanonical s) :
    OptionPairCanonical (s.bringBack core th n) := by
  unfold State.bringBack
  split
  · exact trivial
  next e =>
    exact State.modSlot_canonical (State.mk_canonical (State.rebind_canonical ((State.create_canonical h).of_eq e)))

theorem State.abandonEvict_canonical {s core isGroup key} (h : MemoryCanonical s) :
    MemoryCanonical (s.abandonEvict core isGroup key) :=
  State.modCore_canonical (foldl_holds h (fun _ h1 _ => h1))

theorem State.commitLoose_canonical {s core tid} (h : MemoryCanonical s) : MemoryCanonical (s.commitLoose core tid) := by
  unfold State.commitLoose
  extract_lets _ _ put
  have hput : ∀ a t, MemoryCanonical t → MemoryCanonical (put a t) := by
    intro x t h2
    unfold put
    exact State.mk_canonical (State.takeOut_canonical h2)
  split
  · exact hput _ _ (State.takeSpill_canonical h)
  · exact ite_holds (hput _ _ h) (State.abandonEvict_canonical h)

theorem State.modDir_canonical {s name f} (h : MemoryCanonical s) : MemoryCanonical (s.modDir name f) := by
  unfold State.modDir
  split
  · exact ite_holds h h
  · exact h

theorem State.commitGroup_canonical {s core name} (h : MemoryCanonical s) :
    MemoryCanonical (s.commitGroup core name) := by
  unfold State.commitGroup
  extract_lets _ _ _ put
  have hput : ∀ a t, MemoryCanonical t → MemoryCanonical (put a t) := by
    intro x t h1
    unfold put
    exact State.modDir_canonical
      (State.modGroup_canonical (foldl_holds h1 (fun _ h2 _ => State.takeOut_canonical h2)))
  refine ite_holds (State.kill_canonical h) ?_
  split
  · exact hput _ _ (State.takeSpill_canonical h)
  · exact ite_holds (ite_holds (State.kill_canonical h) (hput _ _ h)) (State.abandonEvict_canonical h)

theorem State.groupSaved_canonical {s core name} (h : MemoryCanonical s) : MemoryCanonical (s.groupSaved core name) :=
  State.modDir_canonical
    (ite_holds (State.modGroup_canonical (foldl_holds h (fun _ h1 _ => h1)))
      (State.modDir_canonical (State.modGroup_canonical (foldl_holds h (fun _ h1 _ => h1)))))

theorem State.bringAll_canonical {s core from_ l} (h : MemoryCanonical s) :
    MemoryCanonical (s.bringAll core from_ l) := by
  unfold State.bringAll
  refine foldl_holds h fun t h1 x => ?_
  split
  next e => exact State.arriveFrom_canonical ((State.bringBack_canonical h1).of_eq e)
  · exact h1

theorem State.restoreLoose_canonical {s key core} (h : MemoryCanonical s) :
    MemoryCanonical (s.restoreLoose key core) := by
  unfold State.restoreLoose
  split
  · exact h
  · refine ite_holds h ?_
    refine ite_holds (State.kill_canonical h) ?_
    split
    next e1 => exact (State.touchSpill_canonical h).of_eq e1
    next e1 =>
      refine State.atRunning_canonical ((State.touchSpill_canonical h).of_eq e1) (fun _ h1 => ?_)
      split
      · exact h1
      next e2 =>
        have he2 := (State.bringBack_canonical h1).of_eq e2
        exact State.arriveFrom_canonical
          (ite_holds (State.freeSpill_canonical (State.mk_canonical he2))
            (State.unuseSave_canonical (State.mk_canonical he2)))

theorem State.restoreGroup_canonical {s name core fresh} (h : MemoryCanonical s) :
    MemoryCanonical (s.restoreGroup name core fresh) := by
  unfold State.restoreGroup
  extract_lets g was s1 fwd m sub
  split
  · exact h
  · extract_lets s2 s3 s4 rcd s5 s6 at_
    clear_value fwd
    have h1 : MemoryCanonical s1 := ite_holds h h
    have h2 : MemoryCanonical s2 := State.modGroup_canonical h1
    have h3 : MemoryCanonical s3 := ite_holds h2 (State.wakeBank_canonical h2)
    have h6 : MemoryCanonical s6 := State.modDir_canonical (State.modCore_canonical (State.bringAll_canonical h3))
    split
    · exact State.modCore_canonical h6
    · exact h6

/-! ### `Sys2Proof/Machine/Image.lean` -/

theorem State.storeChanges_canonical {s pa d} (h : MemoryCanonical s) : MemoryCanonical (s.storeChanges pa d) :=
  ite_holds h (foldl_holds h (fun _ h1 _ => ite_holds h1 (State.store_canonical h1)))

theorem State.writeSaves_canonical {s c} (h : MemoryCanonical s) : MemoryCanonical (s.writeSaves c) := by
  unfold State.writeSaves
  extract_lets
  refine foldl_holds h fun t h1 x => ?_
  split
  · exact State.storeChanges_canonical h1
  · exact h1

/-! ### `Sys2Proof/Machine/EvEvict.lean` -/

theorem execEvictionDecision_canonical {core s} (h : MemoryCanonical s) :
    NextCanonical (execEvictionDecision core s) := by
  unfold execEvictionDecision
  extract_lets _ found
  show MemoryCanonical _
  refine ite_holds h ?_
  clear_value found
  split
  · exact State.atRunning_canonical h (fun _ h1 => State.decideFrom_canonical h1)
  · exact h

theorem execEvictionCommit_canonical {core s} (h : MemoryCanonical s) : NextCanonical (execEvictionCommit core s) := by
  unfold execEvictionCommit
  extract_lets
  show MemoryCanonical _
  split
  · exact h
  · exact ite_holds h
      (State.atRunning_canonical h (fun _ h1 =>
        ite_holds (ite_holds h1 (ite_holds h1 (State.commitGroup_canonical h1)))
          (ite_holds h1 (State.commitLoose_canonical h1))))

theorem execImageComplete_canonical {core s} (h : MemoryCanonical s) : NextCanonical (execImageComplete core s) := by
  unfold execImageComplete
  extract_lets k done
  show MemoryCanonical _
  split
  · exact h
  · extract_lets t ik
    have hdone : ∀ u, MemoryCanonical u → MemoryCanonical (done u) := fun _ hu => hu
    refine ite_holds (ite_holds (hdone _ (State.groupSaved_canonical h)) h) ?_
    split
    · exact hdone _ h
    · exact h

theorem State.unspillLoose_canonical {s key i} (h : MemoryCanonical s) : MemoryCanonical (s.unspillLoose key i) := h

theorem State.unspillGroup_canonical {s name g} (h : MemoryCanonical s) : MemoryCanonical (s.unspillGroup name g) :=
  State.modDir_canonical h

theorem execPendingPlacement_canonical {serial s} (h : MemoryCanonical s) :
    NextCanonical (execPendingPlacement serial s) := by
  unfold execPendingPlacement
  show MemoryCanonical _
  split
  · split
    · refine ite_holds ?_ h
      split
      · exact State.modLaunch_canonical h
      · exact h
    · exact h
  · exact h

theorem execSpillToSaveArea_canonical {key s} (h : MemoryCanonical s) : NextCanonical (execSpillToSaveArea key s) := by
  unfold execSpillToSaveArea
  show MemoryCanonical _
  split
  · refine ite_holds ?_ h
    refine ite_holds (State.kill_canonical h) ?_
    split
    next e1 => exact (State.touchSpill_canonical h).of_eq e1
    next e1 => exact State.unspillLoose_canonical ((State.touchSpill_canonical h).of_eq e1)
  · split
    · refine ite_holds ?_ h
      refine ite_holds (State.kill_canonical h) ?_
      split
      next e2 => exact (State.touchSpill_canonical h).of_eq e2
      next e2 => exact State.unspillGroup_canonical ((State.touchSpill_canonical h).of_eq e2)
    · exact h

theorem State.reload_canonical {s name core fresh} (h : MemoryCanonical s) :
    MemoryCanonical (s.reload name core fresh) := by
  unfold State.reload
  extract_lets
  refine ite_holds (State.kill_canonical h) ?_
  split
  next e => exact (State.touchSpill_canonical h).of_eq e
  next e =>
    exact State.atRunning_canonical ((State.touchSpill_canonical h).of_eq e) (fun _ h1 =>
      State.restoreGroup_canonical h1)

theorem execRestore_canonical {isGroup key s} (h : MemoryCanonical s) : NextCanonical (execRestore isGroup key s) := by
  unfold execRestore
  show MemoryCanonical _
  refine ite_holds ?_ ?_
  · split
    · exact h
    · refine ite_holds h ?_
      refine ite_holds (State.kill_canonical h) ?_
      refine ite_holds ?_ ?_
      · split
        · exact h
        · exact ite_holds h (State.reload_canonical h)
      · split
        · exact ite_holds (State.reload_canonical h) h
        · exact ite_holds (State.modDir_canonical h) h
        · exact h
  · split
    · exact ite_holds (State.kill_canonical h) (ite_holds (State.restoreLoose_canonical h) h)
    · exact h

theorem execLooseRestoreTimeout_canonical {key s} (h : MemoryCanonical s) :
    NextCanonical (execLooseRestoreTimeout key s) := by
  unfold execLooseRestoreTimeout
  show MemoryCanonical _
  split
  · exact h
  · extract_lets
    split
    · exact h
    · refine ite_holds (State.kill_canonical h) ?_
      refine ite_holds h ?_
      split
      · exact State.restoreLoose_canonical h
      · exact h

/-! ### `Sys2Proof/Machine/EvBarrier.lean` -/

theorem execBarrierOperation_canonical {core slot s} (h : MemoryCanonical s) :
    NextCanonical (execBarrierOperation core slot s) := by
  unfold execBarrierOperation
  extract_lets
  show MemoryCanonical _
  split
  · exact ite_holds h
      (State.atRunning_canonical h (fun _ h1 =>
        State.atRunning_canonical h1 (fun _ h2 =>
          ite_holds (State.atTid_canonical (State.trap_canonical h2))
            (State.atTid_canonical (State.barDone_canonical h2 (State.barOp_canonical h2))))))
  · exact h

theorem execBarrierWake_canonical {core slot s} (h : MemoryCanonical s) :
    NextCanonical (execBarrierWake core slot s) := by
  unfold execBarrierWake
  extract_lets
  show MemoryCanonical _
  split
  · refine State.atRunning_canonical h (fun _ h1 => ?_)
    extract_lets
    split
    · exact State.atTid_canonical (State.trap_canonical h1)
    · exact State.atTid_canonical (State.commit_canonical (State.barAcquire_canonical h1))
  · exact h

theorem execBwaitTableRetry_canonical {core slot s} (h : MemoryCanonical s) :
    NextCanonical (execBwaitTableRetry core slot s) := by
  unfold execBwaitTableRetry
  extract_lets
  show MemoryCanonical _
  split
  · extract_lets
    refine ite_holds h (ite_holds ?_ (ite_holds h ?_))
    · split
      · exact ite_holds h h
      · exact h
    · refine State.atRunning_canonical h fun t ht => State.atRunning_canonical ht fun u hu => ?_
      extract_lets v
      have hv : MemoryCanonical v := hu
      refine ite_holds (State.atTid_canonical (State.trap_canonical hv)) ?_
      split
      next e => exact State.atTid_canonical (State.modMe_canonical ((State.barOp_canonical hv).of_eq e))
      · exact State.atTid_canonical (State.barDone_canonical hv (State.barOp_canonical hv))
  · exact h

/-! ### `Sys2Proof/Machine/Reply.lean` -/

theorem State.flushReplies_canonical {s iface} (h : MemoryCanonical s) : MemoryCanonical (s.flushReplies iface) :=
  ite_holds h h

theorem State.reply_canonical {s iface k ready r} (h : MemoryCanonical s) :
    MemoryCanonical (s.reply iface k ready r) :=
  State.flushReplies_canonical h

theorem State.replyAs_canonical {s iface k f} (h : MemoryCanonical s) : MemoryCanonical (s.replyAs iface k f) :=
  State.flushReplies_canonical h

theorem State.replyReady_canonical {s who} (h : MemoryCanonical s) : MemoryCanonical (s.replyReady who) := by
  unfold State.replyReady
  split
  · exact h
  · exact State.replyAs_canonical h

theorem State.shootdown_canonical {s c va n chip frame why who} (h : MemoryCanonical s) :
    MemoryCanonical (s.shootdown c va n chip frame why who) :=
  h

theorem State.toZero_canonical {s c pa size frames} (h : MemoryCanonical s) :
    MemoryCanonical (s.toZero c pa size frames) :=
  h

theorem State.freeFrame_canonical {s c pa size} (h : MemoryCanonical s) : MemoryCanonical (s.freeFrame c pa size) := h

theorem State.shootEnd_canonical {s sh} (h : MemoryCanonical s) : MemoryCanonical (s.shootEnd sh) := by
  unfold State.shootEnd
  split
  · exact State.replyReady_canonical h
  · exact State.replyReady_canonical (ite_holds h h)
  · exact h
  · exact h
  · extract_lets s1
    have h1 : MemoryCanonical s1 := by
      unfold s1
      split <;> exact h
    exact State.replyReady_canonical h1

theorem State.ackShoot_canonical {s core} (h : MemoryCanonical s) : MemoryCanonical (s.ackShoot core) := by
  unfold State.ackShoot
  split
  · exact h
  · exact ite_holds (State.shootEnd_canonical h) h

/-! ### `Sys2Proof/Machine/EvPage.lean` -/

theorem State.readyAtTid_canonical {s t} (h : MemoryCanonical s) : MemoryCanonical (s.readyAt_ t) :=
  State.atTid_canonical (State.ready_canonical h)

theorem State.settleFetch_canonical {s t line} (h : MemoryCanonical s) : MemoryCanonical (s.settleFetch t line) := by
  unfold State.settleFetch
  split
  next e =>
    have he := (State.fetchGate_canonical h).of_eq e
    exact State.readyAtTid_canonical (ite_holds (State.fillLine_canonical he) he)
  · exact h
  · exact h
  · exact State.readyAtTid_canonical h

theorem State.walkTo_canonical {s w r t} (h : MemoryCanonical s) : MemoryCanonical (s.walkTo w r t) := by
  unfold State.walkTo
  refine ite_holds ?_ h
  extract_lets s1
  have h1 : MemoryCanonical s1 := by
    unfold s1
    split <;> exact h
  exact State.readyAtTid_canonical h1

theorem execPageWalk_canonical {cluster idx s} (h : MemoryCanonical s) : NextCanonical (execPageWalk cluster idx s) := by
  unfold execPageWalk
  show MemoryCanonical _
  split
  · exact h
  · exact ite_holds h (foldl_holds h (fun _ h1 _ => State.walkTo_canonical h1))

theorem execMissQueueRetry_canonical {core slot s} (h : MemoryCanonical s) :
    NextCanonical (execMissQueueRetry core slot s) := by
  unfold execMissQueueRetry
  extract_lets
  show MemoryCanonical _
  split
  · exact ite_holds (State.readyAtTid_canonical h) h
  · exact h

theorem execShootdownAck_canonical {core s} (h : MemoryCanonical s) : NextCanonical (execShootdownAck core s) :=
  State.ackShoot_canonical h

theorem execHoldQueueRetry_canonical {id s} (h : MemoryCanonical s) : NextCanonical (execHoldQueueRetry id s) := by
  unfold execHoldQueueRetry
  show MemoryCanonical _
  split
  · split
    · refine ite_holds h ?_
      split
      · exact h
      · exact State.storeAtHome_canonical h
    · exact h
  · exact h

/-! ### `Sys2Proof/Machine/Link.lean` -/

theorem State.takePacket_canonical {s i} (h : MemoryCanonical s) : MemoryCanonical (s.takePacket i) := by
  unfold State.takePacket
  extract_lets
  split <;> exact h

theorem State.dropPacket_canonical {s st p} (h : MemoryCanonical s) : MemoryCanonical (s.dropPacket st p) :=
  ite_holds h h

theorem State.portDown_canonical {s port} (h : MemoryCanonical s) : MemoryCanonical (s.portDown port) :=
  foldl_holds h (fun _ h1 _ => State.dropPacket_canonical h1)

theorem State.countFailure_canonical {s port} (h : MemoryCanonical s) : MemoryCanonical (s.countFailure port) :=
  ite_holds h h

theorem State.retrain_canonical {s port} (h : MemoryCanonical s) : MemoryCanonical (s.retrain port) := h

/-! ### `Sys2Proof/Machine/EvLink.lean` -/

theorem execHvctlEn_canonical {port en s} (h : MemoryCanonical s) : NextCanonical (execHvctlEn port en s) := by
  unfold execHvctlEn
  show MemoryCanonical _
  exact ite_holds h (ite_holds h (ite_holds (State.portDown_canonical h) h))

theorem execTrainingEnd_canonical {port m s} (h : MemoryCanonical s) : NextCanonical (execTrainingEnd port m s) := by
  unfold execTrainingEnd
  extract_lets
  show MemoryCanonical _
  refine ite_holds h ?_
  split
  · exact ite_holds h (State.countFailure_canonical (State.portDown_canonical h))
  · exact ite_holds h h
  · exact h

theorem execTrainingTimeout_canonical {port s} (h : MemoryCanonical s) : NextCanonical (execTrainingTimeout port s) := by
  unfold execTrainingTimeout
  show MemoryCanonical _
  exact ite_holds (State.countFailure_canonical (State.portDown_canonical h)) h

theorem execPeerSignalLost_canonical {port s} (h : MemoryCanonical s) : NextCanonical (execPeerSignalLost port s) := by
  unfold execPeerSignalLost
  show MemoryCanonical _
  exact ite_holds h (ite_holds (State.portDown_canonical h) h)

theorem execLack_canonical {port mask s} (h : MemoryCanonical s) : NextCanonical (execLack port mask s) := by
  unfold execLack
  show MemoryCanonical _
  refine ite_holds h ?_
  split
  · exact ite_holds h (ite_holds h h)
  · exact h

theorem State.receive_canonical {s port p} (h : MemoryCanonical s) : MemoryCanonical (s.receive port p) :=
  ite_holds h h

theorem State.acceptFlit_canonical {s port f} (h : MemoryCanonical s) : MemoryCanonical (s.acceptFlit port f) := by
  unfold State.acceptFlit
  split
  · exact h
  · exact ite_holds (State.receive_canonical h) h
  · split
    · exact h
    · exact ite_holds (State.receive_canonical h) h

theorem State.addCredit_canonical {s port cv cr} (h : MemoryCanonical s) : MemoryCanonical (s.addCredit port cv cr) := by
  unfold State.addCredit
  extract_lets _ give
  refine ite_holds h (ite_holds h ?_)
  split
  · exact h
  · split
    next e => exact State.modLink_canonical ((State.choose_canonical h).of_eq e)
    next e => exact (State.choose_canonical h).of_eq e

theorem State.trailer_canonical {s port b} (h : MemoryCanonical s) : MemoryCanonical (s.trailer port b) :=
  ite_holds
    (ite_holds (State.retrain_canonical (State.modLink_canonical (State.addCredit_canonical h)))
      (State.modLink_canonical (State.addCredit_canonical h)))
    (ite_holds (State.addCredit_canonical h) (State.modLink_canonical (State.addCredit_canonical h)))

theorem State.acceptBlock_canonical {s port b} (h : MemoryCanonical s) : MemoryCanonical (s.acceptBlock port b) :=
  State.modLink_canonical (foldl_holds h (fun _ h1 _ => State.acceptFlit_canonical h1))

theorem execLinkBlock_canonical {port b s} (h : MemoryCanonical s) : NextCanonical (execLinkBlock port b s) := by
  unfold execLinkBlock
  show MemoryCanonical _
  exact ite_holds h
    (ite_holds
      (ite_holds (ite_holds (State.modLink_canonical (State.trailer_canonical (State.acceptBlock_canonical h))) h)
        (State.modLink_canonical (State.trailer_canonical h))) h)

/-! ### `Sys2Proof/Machine/Rdma.lean` -/

theorem State.setQp_canonical {s q x} (h : MemoryCanonical s) : MemoryCanonical (s.setQp q x) := h

theorem State.qpError_canonical {s q} (h : MemoryCanonical s) : MemoryCanonical (s.qpError q) := by
  unfold State.qpError
  split
  · exact h
  · exact State.setQp_canonical (foldl_holds h (fun _ h1 _ => State.record_canonical h1))

theorem State.qpNak_canonical {s q code} (h : MemoryCanonical s) : MemoryCanonical (s.qpNak q code) := by
  unfold State.qpNak
  extract_lets
  split
  · exact State.setQp_canonical (State.qpError_canonical h)
  · exact State.qpError_canonical h

theorem State.qpAck_canonical {s q} (h : MemoryCanonical s) : MemoryCanonical (s.qpAck q) := by
  unfold State.qpAck
  split <;> exact h

theorem State.rdmaAdmit_canonical {s write l} (h : MemoryCanonical s) : TripleCanonical (s.rdmaAdmit write l) := by
  unfold State.rdmaAdmit
  refine foldl_holds h fun t h1 x => ?_
  refine ite_holds h1 ?_
  split
  next e => exact ((State.agentGate_canonical h1).of_eq e :)
  next e => exact ((State.agentGate_canonical h1).of_eq e :)
  · exact h1
  · exact h1

theorem State.rdmaPiece_canonical {s q d} (h : MemoryCanonical s) : MemoryCanonical (s.rdmaPiece q d) := by
  unfold State.rdmaPiece
  split <;> exact h

theorem State.rdmaSend_canonical {s q p} (h : MemoryCanonical s) : MemoryCanonical (s.rdmaSend q p) := by
  unfold State.rdmaSend
  split <;> exact h

theorem State.rdmaAnswer_canonical {s q} (h : MemoryCanonical s) : MemoryCanonical (s.rdmaAnswer q) := by
  unfold State.rdmaAnswer
  split
  · exact ite_holds (ite_holds h h) h
  · exact h

theorem State.rdmaDo_canonical {s q x va n perm} {perform : State → ℕ × ℕ × Target → List Byte × State} {far}
    (h : MemoryCanonical s) (hperform : ∀ u, MemoryCanonical u → ∀ t, PairCanonical (perform u t)) :
    Rdma.Canonical (s.rdmaDo q x va n perm perform far) := by
  unfold State.rdmaDo
  split
  · exact trivial
  · split
    · exact h
    next e1 =>
      exact State.rdmaAnswer_canonical
        (foldl_holds ((State.rdmaAdmit_canonical h).of_eq e1) (fun _ h1 _ =>
          ite_holds (State.rdmaPiece_canonical (hperform _ h1 _))
            (foldl_holds h1 (fun _ h2 _ => State.rdmaSend_canonical h2))))

theorem State.rdmaWrite_canonical {s q x key va d perm} (h : MemoryCanonical s) :
    Rdma.Canonical (s.rdmaWrite q x key va d perm) :=
  ite_holds (State.rdmaDo_canonical h (fun _ h1 _ => State.storeFor_canonical h1)) trivial

theorem State.rdmaRead_canonical {s q x p} (h : MemoryCanonical s) : Rdma.Canonical (s.rdmaRead q x p) :=
  ite_holds (State.rdmaDo_canonical h (fun _ h1 _ => h1)) trivial

theorem State.rdmaAtomic_canonical {s q x p op} (h : MemoryCanonical s) : Rdma.Canonical (s.rdmaAtomic q x p op) := by
  unfold State.rdmaAtomic
  extract_lets
  refine ite_holds ?_ trivial
  refine State.rdmaDo_canonical h (fun _ h1 _ => ?_)
  split
  next e => exact State.claim_canonical ((State.doAtom_canonical h1).of_eq e)
  next e => exact ((State.doAtom_canonical h1).of_eq e :)

theorem State.rdmaReply_canonical {s q seq st d} (h : MemoryCanonical s) : MemoryCanonical (s.rdmaReply q seq st d) := by
  unfold State.rdmaReply
  split
  · exact ite_holds h
      (ite_holds (ite_holds (State.qpError_canonical h) (State.qpNak_canonical h)) (State.rdmaAnswer_canonical h))
  · exact h

theorem State.boundSend_canonical {s q x lq d} (h : MemoryCanonical s) : MemoryCanonical (s.boundSend q x lq d) := by
  unfold State.boundSend
  refine ite_holds (State.qpNak_canonical h) ?_
  split
  · exact State.qpNak_canonical h
  · exact ite_holds h (State.qpAck_canonical (State.appendRecs_canonical h))

theorem State.useReceive_canonical {s q x imm} {k : List Byte → Qp → State → State} (h : MemoryCanonical s)
    (hk : ∀ a b t, MemoryCanonical t → MemoryCanonical (k a b t)) : MemoryCanonical (s.useReceive q x imm k) := by
  unfold State.useReceive
  split
  · exact h
  · exact hk _ _ _ h

theorem State.rdmaServe_canonical {s x p} (h : MemoryCanonical s) : MemoryCanonical (s.rdmaServe x p) := by
  unfold State.rdmaServe
  extract_lets done
  have hdone : ∀ t, Rdma.Canonical t → MemoryCanonical (done t) := by
    intro t h1
    unfold done
    split
    · exact h1
    · exact State.qpNak_canonical h
    · exact h
  split
  · split
    · exact State.boundSend_canonical h
    · exact State.useReceive_canonical h (fun _ _ _ h1 => hdone _ (State.rdmaWrite_canonical h1))
  · exact ite_holds (State.useReceive_canonical h (fun _ _ _ h1 => hdone _ (State.rdmaWrite_canonical h1)))
      (hdone _ (State.rdmaWrite_canonical h))
  · exact hdone _ (State.rdmaRead_canonical h)
  · exact hdone _ (State.rdmaAtomic_canonical h)
  · exact hdone _ (State.rdmaAtomic_canonical h)
  · exact State.qpNak_canonical h
  · exact h
  · exact h
  · exact h
  · exact h
  · exact h

theorem State.rdmaAcked_canonical {s x p} (h : MemoryCanonical s) : MemoryCanonical (s.rdmaAcked x p) := by
  unfold State.rdmaAcked
  refine ite_holds h ?_
  extract_lets y
  have hu : MemoryCanonical (s.setQp p.qp y) := h
  split
  next e => exact (State.rdmaWrite_canonical hu).of_eq e
  · exact State.qpError_canonical h
  next e => exact State.onlyWakes_canonical h

/-! ### `Sys2Proof/Machine/EvPacket.lean` -/

theorem execPacketForward_canonical {idx s} (h : MemoryCanonical s) : NextCanonical (execPacketForward idx s) := by
  unfold execPacketForward
  show MemoryCanonical _
  split
  · exact h
  · refine ite_holds h ?_
    extract_lets
    refine ite_holds (State.dropPacket_canonical (State.takePacket_canonical h)) ?_
    split
    · exact h
    · split
      · exact State.dropPacket_canonical (State.takePacket_canonical h)
      · exact State.dropPacket_canonical (State.takePacket_canonical h)
      · exact State.modLink_canonical (State.takePacket_canonical h)

theorem State.serveBar_canonical {s p op gname pa} (h : MemoryCanonical s) :
    Served.Canonical (s.serveBar p op gname pa) := by
  unfold State.serveBar
  extract_lets
  split
  · exact h
  · exact h
  next e => exact ((State.barOp_canonical h).of_eq e :)
  next e => exact ite_holds h ((State.barOp_canonical h).of_eq e :)

theorem State.combineFar_canonical {s c op pa d} (h : MemoryCanonical s) : MemoryCanonical (s.combineFar c op pa d) :=
  foldl_holds h (fun _ h1 _ => ite_holds h1 (State.storeFor_canonical h1))

theorem State.serveAt_canonical {s p pa} (h : MemoryCanonical s) : Served.Canonical (s.serveAt p pa) := by
  unfold State.serveAt
  split
  · exact State.fillLineBits_canonical (State.storeFor_canonical h)
  · split
    next e2 => exact State.claim_canonical ((State.doAtom_canonical h).of_eq e2)
    next e2 => exact ((State.doAtom_canonical h).of_eq e2 :)
  · exact ite_holds (State.fillLineBits_canonical (State.combineFar_canonical h)) (State.combineFar_canonical h)
  · exact State.fill_canonical (State.storeFor_canonical h)
  · exact State.setFull_canonical h
  · exact h
  · exact ite_holds (ite_holds h (ite_holds (State.setFull_canonical h) h)) h
  · exact State.serveBar_canonical h
  · exact h

theorem State.serveWord_canonical {s p got} (h : MemoryCanonical s) : Served.Canonical (s.serveWord p got) := by
  unfold State.serveWord
  extract_lets
  split
  · exact h
  · exact ite_holds h h
  next e => exact ((State.gateFor_canonical h).of_eq e :)
  next e =>
    have he := (State.gateFor_canonical h).of_eq e
    exact ite_holds (ite_holds he (ite_holds he he))
      (ite_holds (State.storeFor_canonical he) (State.storeFor_canonical he))

theorem State.serve_canonical {s p got} (h : MemoryCanonical s) : Served.Canonical (s.serve p got) := by
  unfold State.serve
  split
  · exact h
  · refine ite_holds (State.serveWord_canonical h) ?_
    extract_lets
    split
    · exact h
    · exact h
    next e1 => exact ((State.gate_canonical h).of_eq e1 :)
    next e1 => exact State.serveAt_canonical ((State.gate_canonical h).of_eq e1)

theorem State.servePacket_canonical {s i p} (h : MemoryCanonical s) : MemoryCanonical (s.servePacket i p) := by
  unfold State.servePacket
  extract_lets
  split
  next e => exact State.mk_canonical ((State.serve_canonical h).of_eq e)
  next e => exact State.post_canonical (State.takePacket_canonical ((State.serve_canonical h).of_eq e))
  next e => exact State.post_canonical (State.takePacket_canonical ((State.serve_canonical h).of_eq e))
  next e => exact State.takePacket_canonical ((State.serve_canonical h).of_eq e)
  next e => exact (State.serve_canonical h).of_eq e

theorem State.onArrival_canonical {s p k} {f : ℕ → State → State} (h : MemoryCanonical s)
    (hf : ∀ a t, MemoryCanonical t → MemoryCanonical (f a t)) : NextCanonical (s.onArrival p k f) := by
  unfold State.onArrival
  show MemoryCanonical _
  split
  · exact hf _ _ h
  · exact h

theorem State.landItem_canonical {s p kind core} (h : MemoryCanonical s) : MemoryCanonical (s.landItem p kind core) := by
  unfold State.landItem
  extract_lets
  split <;> exact h

theorem execPut_canonical {p s} (h : MemoryCanonical s) : NextCanonical (execPut p s) := by
  unfold execPut
  refine State.onArrival_canonical h (fun _ t h1 => ?_)
  extract_lets _ land
  have hland : ∀ t, MemoryCanonical (land t) := by
    intro x1
    unfold land
    exact State.landItem_canonical (State.takePacket_canonical h1)
  split
  · exact hland _
  · exact ite_holds (hland _)
      (ite_holds (State.post_canonical (State.takePacket_canonical h1))
        (State.post_canonical (State.takePacket_canonical h1)))

theorem execKillPacket_canonical {p s} (h : MemoryCanonical s) : NextCanonical (execKillPacket p s) := by
  unfold execKillPacket
  show MemoryCanonical _
  split
  · exact h
  · refine ite_holds h ?_
    extract_lets
    refine ite_holds (State.modLink_canonical (State.takePacket_canonical h)) ?_
    split
    · exact State.post_canonical (State.takePacket_canonical h)
    · split
      · exact State.modCtx_canonical (State.kill_canonical (State.takePacket_canonical h))
      · exact State.modCtx_canonical (State.kill_canonical (State.takePacket_canonical h))
      · exact State.post_canonical (State.kill_canonical (State.takePacket_canonical h))

theorem State.settlePartner_canonical {s c chip down} (h : MemoryCanonical s) :
    MemoryCanonical (s.settlePartner c chip down) :=
  ite_holds (State.record_canonical h) h

theorem State.dropTx_canonical {s seq} (h : MemoryCanonical s) : MemoryCanonical (s.dropTx seq) := h

theorem execKack_canonical {p s} (h : MemoryCanonical s) : NextCanonical (execKack p s) := by
  unfold execKack
  refine State.onArrival_canonical h (fun _ _ h1 => ?_)
  extract_lets
  split
  · split
    · exact ite_holds (State.settlePartner_canonical (State.dropTx_canonical (State.takePacket_canonical h1)))
        (State.takePacket_canonical h1)
    · exact State.takePacket_canonical h1
  · exact State.takePacket_canonical h1

theorem State.answerBytes_canonical {s x t core p d data} (h : MemoryCanonical s) :
    PairCanonical (s.answerBytes x t core p d data) := by
  unfold State.answerBytes
  extract_lets
  split
  · exact h
  · exact h
  · exact h
  · refine ite_holds ?_ h
    split
    · exact h
    · exact ite_holds h h

theorem State.loadAnswer_canonical {s x t i st data} (h : MemoryCanonical s) :
    MemoryCanonical (s.loadAnswer x t i st data) := by
  unfold State.loadAnswer
  split
  · split
    · refine ite_holds h ?_
      split
      next e =>
        have hu := PairCanonical.of_eq (by exact ite_holds (P := PairCanonical) (State.answerBytes_canonical h) h) e
        exact State.atTid_canonical (State.tryFinish_canonical hu)
    · exact h
  · exact h

theorem State.ldeAnswer_canonical {s n st data} (h : MemoryCanonical s) : MemoryCanonical (s.ldeAnswer n st data) := by
  unfold State.ldeAnswer
  split
  · split
    · exact State.atTid_canonical (ite_holds (State.commit_canonical h) (State.trap_canonical h))
    · exact State.atTid_canonical (ite_holds (State.commit_canonical h) (State.trap_canonical h))
    · exact h
  · exact h
  · exact State.modHandle_canonical h

theorem State.ldnAnswer_canonical {s tx n x st data} (h : MemoryCanonical s) :
    MemoryCanonical (s.ldnAnswer tx n x st data) := by
  unfold State.ldnAnswer
  split
  · exact h
  · extract_lets
    refine ite_holds h ?_
    refine ite_holds ?_ (State.modHandle_canonical h)
    split
    next e1 => exact State.modHandle_canonical ((State.answerBytes_canonical h).of_eq e1)

theorem State.barAnswer_canonical {s n st aux data} (h : MemoryCanonical s) :
    MemoryCanonical (s.barAnswer n st aux data) := by
  unfold State.barAnswer
  split
  · extract_lets
    split
    · split
      · exact State.atTid_canonical (State.trap_canonical h)
      · exact State.atTid_canonical (State.barDone_canonical h h)
    · split
      · exact State.atTid_canonical (State.trap_canonical h)
      · exact State.atTid_canonical (State.commit_canonical (State.barAcquire_canonical h))
    · split
      · exact State.atTid_canonical (State.trap_canonical h)
      · exact State.atTid_canonical (State.commit_canonical (State.barAcquire_canonical h))
    · exact h
  · exact h
  · exact State.modHandle_canonical h

theorem State.storeAnswer_canonical {s id st} (h : MemoryCanonical s) : MemoryCanonical (s.storeAnswer id st) := by
  unfold State.storeAnswer
  split
  · exact h
  · refine ite_holds ?_ h
    extract_lets
    refine ite_holds ?_ h
    split <;> exact h

theorem State.settleTx_canonical {s t st aux data} (h : MemoryCanonical s) :
    MemoryCanonical (s.settleTx t st aux data) := by
  unfold State.settleTx
  extract_lets
  split
  · exact State.storeAnswer_canonical h
  · exact State.loadAnswer_canonical h
  · exact State.ldnAnswer_canonical h
  · exact State.ldeAnswer_canonical h
  · exact State.barAnswer_canonical h
  · exact h
  · exact h
  · exact State.rdmaReply_canonical h
  · exact h
  · exact State.settlePartner_canonical h

theorem State.atTx_canonical {s t} {f : State → State} (h : MemoryCanonical s)
    (hf : ∀ t, MemoryCanonical t → MemoryCanonical (f t)) : MemoryCanonical (s.atTx t f) := by
  unfold State.atTx
  split
  · exact State.atRunning_canonical h hf
  · exact hf _ h

theorem execRsp_canonical {p s} (h : MemoryCanonical s) : NextCanonical (execRsp p s) := by
  unfold execRsp
  refine State.onArrival_canonical h (fun _ _ h1 => ?_)
  split
  · exact ite_holds (State.atTx_canonical h1 (fun _ h2 => State.settleTx_canonical (State.takePacket_canonical h2)))
      (State.takePacket_canonical h1)
  · exact State.takePacket_canonical h1

theorem State.askLater_canonical {s n} (h : MemoryCanonical s) : MemoryCanonical (s.askLater n) := by
  unfold State.askLater
  split <;> exact h

theorem execRty_canonical {p s} (h : MemoryCanonical s) : NextCanonical (execRty p s) := by
  unfold execRty
  refine State.onArrival_canonical h (fun _ _ h1 => ?_)
  split
  · exact State.takePacket_canonical h1
  · refine State.atTx_canonical h1 (fun _ h2 => ?_)
    extract_lets
    split
    · exact State.modItem_canonical (State.mk_canonical (State.takePacket_canonical h2))
    · exact State.setPhase_canonical (State.mk_canonical (State.takePacket_canonical h2))
    · exact State.askLater_canonical (State.mk_canonical (State.takePacket_canonical h2))
    · split
      · exact State.mk_canonical (State.mk_canonical (State.takePacket_canonical h2))
      · exact State.post_canonical (State.mk_canonical (State.takePacket_canonical h2))

theorem execPacketTimerExpiry_canonical {seq s} (h : MemoryCanonical s) :
    NextCanonical (execPacketTimerExpiry seq s) := by
  unfold execPacketTimerExpiry
  show MemoryCanonical _
  split
  · exact ite_holds (State.atTx_canonical h (fun _ h1 => State.settleTx_canonical h1)) h
  · exact h

/-! ### `Sys2Proof/Machine/Tables.lean` -/

theorem State.takeFrame_canonical {s size ctx use} (h : MemoryCanonical s) :
    OptionPairCanonical (s.takeFrame size ctx use) := by
  unfold State.takeFrame
  cases s.pickFrame size with
  | none => exact trivial
  | some _ => exact h

theorem State.tableFor_canonical {s c va ls tbl} (h : MemoryCanonical s) :
    OptionPairCanonical (s.tableFor c va ls tbl) := by
  induction ls generalizing s tbl with
  | nil => exact h
  | cons l ls ih =>
    unfold State.tableFor
    extract_lets
    refine ite_holds (ite_holds (ih h) trivial) ?_
    split
    · exact trivial
    next e => exact ih (State.store_canonical (State.zero_canonical ((State.takeFrame_canonical h).of_eq e)))

theorem State.writeLeaf_canonical {s c va sz pte} (h : MemoryCanonical s) :
    OptionCanonical (s.writeLeaf c va sz pte) := by
  unfold State.writeLeaf
  split
  · exact trivial
  · refine map_canonical (State.tableFor_canonical h) fun r hr => foldl_holds hr fun t ht i => ?_
    exact foldl_holds (State.store_canonical ht) fun u hu _ => hu

theorem State.endMove_canonical {s m} (h : MemoryCanonical s) : MemoryCanonical (s.endMove m) := by
  unfold State.endMove
  refine ite_holds h ?_
  split
  · extract_lets
    split
    next e2 => exact State.shootdown_canonical ((State.writeLeaf_canonical h).of_eq e2)
    · exact h
  · exact h

/-! ### `Sys2Proof/Machine/EvMove.lean` -/

theorem State.serveWhole_canonical {s src seq fuel} (h : MemoryCanonical s) :
    MemoryCanonical (s.serveWhole src seq fuel) := by
  induction fuel generalizing s with
  | zero => exact h
  | succ fuel ih =>
    unfold State.serveWhole
    split
    · split
      · exact ih (State.servePacket_canonical h)
      · exact h
    · exact h

theorem State.retryKey_canonical {s k} (h : MemoryCanonical s) : MemoryCanonical (s.retryKey k) := by
  unfold State.retryKey
  split
  · exact State.storeAtHome_canonical h
  · exact State.loadReplyAll_canonical h
  · exact State.performLdn_canonical h
  · exact State.retryWord_canonical h
  · split
    · exact State.settleFetch_canonical h
    · exact h
  · exact State.serveWhole_canonical h
  · exact h

theorem State.copyBlock_canonical {s src dst} (h : MemoryCanonical s) : MemoryCanonical (s.copyBlock src dst) :=
  State.mk_canonical (State.store_canonical h)

theorem execMoveSubblockCopied_canonical {ctx page s} (h : MemoryCanonical s) :
    NextCanonical (execMoveSubblockCopied ctx page s) := by
  unfold execMoveSubblockCopied
  show MemoryCanonical _
  split
  · exact h
  · exact ite_holds h
      (State.endMove_canonical
        (foldl_holds (State.mk_canonical (State.copyBlock_canonical h)) (fun _ h1 _ => State.retryKey_canonical h1)))

theorem execBandwidthRefill_canonical {s} (h : MemoryCanonical s) : NextCanonical (execBandwidthRefill s) := by
  unfold execBandwidthRefill
  show MemoryCanonical _
  exact ite_holds h (foldl_holds h (fun _ h1 _ => State.retryKey_canonical h1))

/-! ### `Sys2Proof/Machine/EvHost.lean` -/

theorem execKickWrite_canonical {iface pos s} (h : MemoryCanonical s) : NextCanonical (execKickWrite iface pos s) := by
  unfold execKickWrite
  show MemoryCanonical _
  split <;> exact h

theorem execRheadWrite_canonical {iface pos v s} (h : MemoryCanonical s) :
    NextCanonical (execRheadWrite iface pos v s) := by
  unfold execRheadWrite
  show MemoryCanonical _
  split
  · exact h
  · extract_lets
    split
    · exact h
    · exact ite_holds (State.irqIf_canonical (State.setRing_canonical h)) h

theorem execRdmaWorkRequest_canonical {iface pos qp bytes s} (h : MemoryCanonical s) :
    NextCanonical (execRdmaWorkRequest iface pos qp bytes s) := by
  unfold execRdmaWorkRequest
  show MemoryCanonical _
  split
  · exact ite_holds h (ite_holds (ite_holds h h) h)
  · exact h

theorem execRdmaPacketReceived_canonical {p s} (h : MemoryCanonical s) : NextCanonical (execRdmaPacketReceived p s) := by
  unfold execRdmaPacketReceived
  show MemoryCanonical _
  split
  · refine ite_holds (ite_holds (State.qpError_canonical h) h) ?_
    refine ite_holds h ?_
    extract_lets
    split
    · exact ite_holds (State.qpError_canonical h) h
    · exact ite_holds (State.qpError_canonical h) h
    · exact ite_holds h h
    · exact ite_holds (State.rdmaAcked_canonical h) h
    · exact ite_holds (State.rdmaServe_canonical h) h
  · exact h

theorem execBoundReceiveSend_canonical {qp bytes s} (h : MemoryCanonical s) :
    NextCanonical (execBoundReceiveSend qp bytes s) := by
  unfold execBoundReceiveSend
  show MemoryCanonical _
  split
  · split
    · exact ite_holds (State.boundSend_canonical h) h
    · exact h
  · exact h

theorem execRocev2Retransmission_canonical {qp s} (h : MemoryCanonical s) :
    NextCanonical (execRocev2Retransmission qp s) := by
  unfold execRocev2Retransmission
  show MemoryCanonical _
  split
  · exact ite_holds h (ite_holds h (State.qpError_canonical h))
  · exact h

/-! ### `Sys2Proof/Machine/Queue.lean` -/

theorem State.localCheck_canonical {s a n readOnly} (h : MemoryCanonical s) :
    OptionCanonical (s.localCheck a n readOnly) := by
  unfold State.localCheck
  refine ite_holds (State.trap_canonical h) ?_
  refine ite_holds (State.trap_canonical h) ?_
  refine ite_holds (State.trap_canonical h) ?_
  split
  · exact State.trap_canonical h
  · exact ite_holds (State.trap_canonical h) trivial

theorem execSend_canonical {g size prio ev xa xb s} (h : MemoryCanonical s) :
    NextCanonical (execSend g size prio ev xa xb s) := by
  unfold execSend
  refine guarded_canonical h fun t ht => ?_
  extract_lets n a id mb own refused
  have hmb : ∀ u st, MemoryCanonical u → MemoryCanonical (mb u st) := fun _ _ hu => State.trap_canonical hu
  clear_value refused
  refine ite_holds (State.trap_canonical ht) (ite_holds (State.trap_canonical ht) ?_)
  refine ite_holds (hmb _ _ ht) (ite_holds (hmb _ _ ht) ?_)
  split
  next e => exact (State.localCheck_canonical ht).of_eq e
  · split
    · exact hmb _ _ ht
    · exact ite_holds ht
        (ite_holds (State.trap_canonical ht)
          (State.commit_canonical
            (ite_holds (State.arriveMsg_canonical (State.addItem_canonical ht)) (State.addItem_canonical ht))))

theorem recvOp_canonical {try_ g xd pd pe xa b s} (h : MemoryCanonical s) :
    NextCanonical (recvOp try_ g xd pd pe xa b s) := by
  unfold recvOp
  refine guarded_canonical h (fun _ h1 => ?_)
  extract_lets
  refine ite_holds (State.trap_canonical h1) ?_
  split
  · exact State.trap_canonical h1
  · split
    next e1 => exact (State.localCheck_canonical h1).of_eq e1
    · extract_lets
      split
      · exact State.signalNext_canonical
          (State.deliverMsg_canonical (State.setBox_canonical (State.serveRecvs_canonical h1)))
      · exact ite_holds (State.blockOn_canonical (State.setBox_canonical (State.serveRecvs_canonical h1)))
          (ite_holds (State.stallOn_canonical (State.serveRecvs_canonical h1))
            (State.commit_canonical (State.modMe_canonical (State.serveRecvs_canonical h1))))

theorem execEnq_canonical {g xd pd pe xa s} (h : MemoryCanonical s) : NextCanonical (execEnq g xd pd pe xa s) := by
  unfold execEnq
  refine guarded_canonical h (fun _ h1 => ?_)
  extract_lets
  refine ite_holds (State.trap_canonical h1) ?_
  refine ite_holds (State.trap_canonical h1) ?_
  split
  next e => exact (State.xlate_canonical h1).of_eq e
  next e => exact State.trap_canonical ((State.xlate_canonical h1).of_eq e)
  next e =>
    have he := (State.xlate_canonical h1).of_eq e
    split
    · exact State.trap_canonical he
    · refine ite_holds (State.trap_canonical he) ?_
      refine State.release_canonical he (fun _ h2 => ?_)
      split
      · exact State.refuse_canonical h2
      · exact State.accept_canonical h2

theorem execMboxOpen_canonical {g xd pd pe xa b s} (h : MemoryCanonical s) :
    NextCanonical (execMboxOpen g xd pd pe xa b s) := by
  unfold execMboxOpen
  refine guarded_canonical h (fun _ h1 => ?_)
  extract_lets
  refine ite_holds (State.refuse_canonical h1) ?_
  split
  · exact State.refuse_canonical h1
  · exact ite_holds (State.refuse_canonical h1) (State.accept_canonical h1)

theorem State.closeBox_canonical {s core k} (h : MemoryCanonical s) : MemoryCanonical (s.closeBox core k) := by
  unfold State.closeBox
  split
  · exact h
  · exact foldl_holds
      (foldl_holds (State.zero_canonical h) (fun _ h1 _ => State.atTid_canonical (State.trap_canonical h1)))
      (fun _ h1 _ => State.answerItem_canonical h1)

theorem execMboxClose_canonical {g xd pd pe b s} (h : MemoryCanonical s) :
    NextCanonical (execMboxClose g xd pd pe b s) := by
  unfold execMboxClose
  refine guarded_canonical h (fun _ h1 => ?_)
  extract_lets
  refine ite_holds (State.refuse_canonical h1) ?_
  split
  · exact State.refuse_canonical h1
  · exact State.accept_canonical (State.closeBox_canonical h1)

theorem execMboxQuery_canonical {g xd pd pe b s} (h : MemoryCanonical s) :
    NextCanonical (execMboxQuery g xd pd pe b s) := by
  unfold execMboxQuery
  refine guarded_canonical h (fun _ h1 => ?_)
  extract_lets
  refine ite_holds (State.refuse_canonical h1) ?_
  split
  · exact State.accept_canonical h1
  · exact ite_holds (State.refuse_canonical h1) (State.accept_canonical h1)

/-! ### `Sys2Proof/Machine/Release.lean` -/

theorem State.enterZeroing_canonical {s c} (h : MemoryCanonical s) : MemoryCanonical (s.enterZeroing c) :=
  foldl_holds
    (foldl_holds
      (State.modCtx_canonical
        (State.zeroSpads_canonical (foldl_holds (foldl_holds h (fun _ h1 _ => h1)) (fun _ h1 _ => h1))))
      (fun _ h1 _ => State.replyReady_canonical h1)) (fun _ h1 _ => State.replyReady_canonical h1)

theorem State.closeDone_canonical {s c} (h : MemoryCanonical s) : MemoryCanonical (s.closeDone c) :=
  State.enterZeroing_canonical
    (foldl_holds (State.mk_canonical (foldl_holds h (fun _ h1 _ => State.closeBox_canonical h1))) (fun _ h1 _ =>
      State.qpError_canonical h1))

theorem State.purgeEnd_canonical {s c} (h : MemoryCanonical s) : MemoryCanonical (s.purgeEnd c) :=
  State.enterZeroing_canonical
    (State.modCtx_canonical (State.mk_canonical (foldl_holds (State.record_canonical h) (fun _ h1 _ => h1))))

/-! ### `Sys2Proof/Machine/EvKill.lean` -/

theorem execWatchdogExpiry_canonical {ctx s} (h : MemoryCanonical s) : NextCanonical (execWatchdogExpiry ctx s) := by
  unfold execWatchdogExpiry
  show MemoryCanonical _
  exact ite_holds (ite_holds h (State.kill_canonical h)) h

theorem execPurgeConfirmed_canonical {ctx s} (h : MemoryCanonical s) : NextCanonical (execPurgeConfirmed ctx s) := by
  unfold execPurgeConfirmed
  show MemoryCanonical _
  exact ite_holds (State.purgeEnd_canonical h) h

theorem execBufferZeroed_canonical {id s} (h : MemoryCanonical s) : NextCanonical (execBufferZeroed id s) := by
  unfold execBufferZeroed
  show MemoryCanonical _
  split
  · exact h
  · exact ite_holds h (State.mk_canonical (State.zero_canonical h))

theorem execZeroingDone_canonical {ctx s} (h : MemoryCanonical s) : NextCanonical (execZeroingDone ctx s) := by
  unfold execZeroingDone
  show MemoryCanonical _
  exact ite_holds (State.mk_canonical (State.zeroSpads_canonical h)) h

theorem State.killIface_canonical {s iface} (h : MemoryCanonical s) : MemoryCanonical (s.killIface iface) :=
  foldl_holds h (fun _ h1 _ => State.kill_canonical h1)

theorem execFunctionLevelReset_canonical {iface s} (h : MemoryCanonical s) :
    NextCanonical (execFunctionLevelReset iface s) := by
  unfold execFunctionLevelReset
  show MemoryCanonical _
  exact ite_holds h (State.mk_canonical (State.killIface_canonical h))

theorem execPcieLinkDown_canonical {s} (h : MemoryCanonical s) : NextCanonical (execPcieLinkDown s) := by
  unfold execPcieLinkDown
  show MemoryCanonical _
  exact foldl_holds h (fun _ h1 _ => State.killIface_canonical h1)

/-! ### `Sys2Proof/Machine/Journal.lean` -/

theorem State.setPiece_canonical {s key v} (h : MemoryCanonical s) : MemoryCanonical (s.setPiece key v) := by
  unfold State.setPiece
  extract_lets
  split
  · exact h
  · exact h
  · exact h
  · split
    · exact foldl_holds (State.store_canonical h) (fun _ h1 _ => State.store_canonical h1)
    · exact State.store_canonical h
  · exact h
  · exact h
  · exact h
  · exact h
  · exact h
  · exact h
  · exact h
  · split <;> exact h
  · exact h
  · exact h

theorem State.restorePieces_canonical {s t} (h : MemoryCanonical s) : MemoryCanonical (s.restorePieces t) :=
  foldl_holds h (fun _ h1 _ => ite_holds h1 (State.setPiece_canonical h1))

theorem State.recover_canonical {s} (h : MemoryCanonical s) : MemoryCanonical s.recover := by
  unfold State.recover
  extract_lets
  split
  · exact State.restorePieces_canonical h
  · exact State.mk_canonical (State.restorePieces_canonical h)

theorem State.cutShort_canonical {s iface reqId l n} (h : MemoryCanonical s) :
    MemoryCanonical (s.cutShort iface reqId l n) := by
  unfold State.cutShort
  split
  · exact h
  · exact foldl_holds h (fun _ h1 _ => State.setPiece_canonical h1)

/-! ### `Sys2Proof/Machine/Boot.lean` -/

theorem execModuleReset_canonical {s} : NextCanonical (execModuleReset s) := State.reset_mem_wf

theorem State.settleCheck_canonical {s} (h : MemoryCanonical s) : MemoryCanonical s.settleCheck := by
  unfold State.settleCheck
  split
  · exact h
  · refine ite_holds h ?_
    extract_lets
    split
    · exact h
    · exact State.replyAs_canonical h

/-! ### `Sys2Proof/Machine/EvPower.lean` -/

theorem execCurbDivision_canonical {die s} (h : MemoryCanonical s) : NextCanonical (execCurbDivision die s) := by
  unfold execCurbDivision
  extract_lets x
  show MemoryCanonical _
  refine ite_holds h ?_
  extract_lets
  refine ite_holds h ?_
  generalize s.division die = q
  exact h

theorem execFdutyUpdate_canonical {die s} (h : MemoryCanonical s) : NextCanonical (execFdutyUpdate die s) := by
  unfold execFdutyUpdate
  show MemoryCanonical _
  split
  · exact h
  · exact ite_holds h (foldl_holds h (fun _ h1 _ => h1))

theorem execInrushGrant_canonical {cluster s} (h : MemoryCanonical s) : NextCanonical (execInrushGrant cluster s) := by
  unfold execInrushGrant
  extract_lets _ asks
  show MemoryCanonical _
  refine ite_holds h ?_
  clear_value asks
  split <;> exact h

theorem State.forgetVia_canonical {s core} (h : MemoryCanonical s) : MemoryCanonical (s.forgetVia core) := h

theorem execRampEnd_canonical {core s} (h : MemoryCanonical s) : NextCanonical (execRampEnd core s) := by
  unfold execRampEnd
  show MemoryCanonical _
  exact ite_holds
    (ite_holds
      (State.raiseFloor_canonical
        (State.setCore_canonical (State.mk_canonical (State.forgetVia_canonical (State.zero_canonical h))))) h) h

/-! ### `Sys2Proof/Machine/Issue.lean` -/

theorem State.givePosition_canonical {s t cyc} (h : MemoryCanonical s) : MemoryCanonical (s.givePosition t cyc) :=
  ite_holds (State.atTid_canonical (State.asyncTrap_canonical h)) (ite_holds h h)

theorem execIssuePosition_canonical {core s} (h : MemoryCanonical s) : NextCanonical (execIssuePosition core s) := by
  unfold execIssuePosition
  show MemoryCanonical _
  extract_lets k who t
  clear_value who
  refine ite_holds ?_ h
  split
  · exact h
  · exact State.givePosition_canonical h

theorem State.fetchHome_canonical {s line a pc} (h : MemoryCanonical s) : Fetched.Canonical (s.fetchHome line a pc) :=
  ite_holds (P := Fetched.Canonical) (State.trapFetch_canonical h) (ite_holds (P := MemoryCanonical) h h)

theorem State.fetch_canonical {s} (h : MemoryCanonical s) : Fetched.Canonical s.fetch := by
  unfold State.fetch
  extract_lets _ waits
  have hwaits : ∀ t, MemoryCanonical t → Fetched.Canonical (waits t) := by
    intro t h1
    unfold waits
    exact h1
  refine ite_holds (State.trapFetch_canonical h) ?_
  split
  next e => exact hwaits _ ((State.xlate_canonical h).of_eq e)
  next e => exact State.trapFetch_canonical ((State.xlate_canonical h).of_eq e)
  next e =>
    have he := (State.xlate_canonical h).of_eq e
    extract_lets
    split
    · exact State.trapFetch_canonical he
    · refine ite_holds (State.trapFetch_canonical he) ?_
      split
      · exact he
      · split
        next e3 => exact State.fetchHome_canonical ((State.fetchGate_canonical he).of_eq e3)
        next e3 => exact hwaits _ (State.stallOn_canonical ((State.fetchGate_canonical he).of_eq e3))
        · exact hwaits _ (State.stallOn_canonical he)
        · exact State.trapFetch_canonical he

theorem State.breakThen_canonical {s} {k : State → Prepared} (h : MemoryCanonical s)
    (hk : ∀ t, MemoryCanonical t → Prepared.Canonical (k t)) : Prepared.Canonical (s.breakThen k) :=
  ite_holds (ite_holds (hk _ h) (State.trap_canonical h)) (hk _ h)

theorem State.slotChecks_canonical {s d} {k : ℕ → State → Prepared} (h : MemoryCanonical s)
    (hk : ∀ a t, MemoryCanonical t → Prepared.Canonical (k a t)) : Prepared.Canonical (s.slotChecks d k) :=
  ite_holds (State.trap_canonical h)
    (State.breakThen_canonical h (fun _ h1 => ite_holds (State.trap_canonical h1) (hk _ _ h1)))

theorem State.lineChecks_canonical {s} {k : List Byte → ℕ → State → Prepared} (h : MemoryCanonical s)
    (hk : ∀ a b t, MemoryCanonical t → Prepared.Canonical (k a b t)) : Prepared.Canonical (s.lineChecks k) := by
  unfold State.lineChecks
  split
  next e => exact ((State.fetch_canonical h).of_eq e :)
  next e =>
    have he := (State.fetch_canonical h).of_eq e
    exact ite_holds (State.trap_canonical he) (State.slotChecks_canonical he (fun _ _ h1 => hk _ _ _ h1))

theorem State.prepareWhole_canonical {s} (h : MemoryCanonical s) : Prepared.Canonical s.prepareWhole := by
  unfold State.prepareWhole
  refine State.lineChecks_canonical h (fun _ _ _ h1 => ?_)
  extract_lets
  split
  · exact State.trap_canonical h1
  · refine ite_holds ?_ h1
    split
    · exact h1
    · refine ite_holds (State.trap_canonical h1) ?_
      split
      · exact State.blockOn_canonical h1
      · exact h1

theorem State.prepareSecond_canonical {s} (h : MemoryCanonical s) : Prepared.Canonical s.prepareSecond := by
  unfold State.prepareSecond
  refine State.slotChecks_canonical h (fun _ _ h1 => ?_)
  extract_lets
  split
  · exact State.trap_canonical h1
  · exact h1

theorem State.prepare_canonical {s half} (h : MemoryCanonical s) : Prepared.Canonical (s.prepare half) := by
  unfold State.prepare
  split
  · exact State.prepareWhole_canonical h
  · exact State.prepareSecond_canonical h

/-! ### `Sys2Proof/Machine/EvEngine.lean` -/

theorem execCommandStart_canonical {core cmd s} (h : MemoryCanonical s) :
    NextCanonical (execCommandStart core cmd s) := by
  unfold execCommandStart
  show MemoryCanonical _
  split
  · exact ite_holds (State.startCmd_canonical h) h
  · exact h

theorem State.tsaveEnd_canonical {s core c} (h : MemoryCanonical s) : MemoryCanonical (s.tsaveEnd core c) := by
  unfold State.tsaveEnd
  split
  · exact ite_holds h (State.modTile_canonical h)
  · exact h

theorem State.completeIf_canonical {s core cmd} (h : MemoryCanonical s) : MemoryCanonical (s.completeIf core cmd) := by
  unfold State.completeIf
  split
  · exact ite_holds (State.finishCmd_canonical (State.tsaveEnd_canonical h)) h
  · exact h

theorem execCommandComplete_canonical {core cmd s} (h : MemoryCanonical s) :
    NextCanonical (execCommandComplete core cmd s) := by
  unfold execCommandComplete
  show MemoryCanonical _
  split
  · exact h
  · refine ite_holds h ?_
    refine ite_holds (ite_holds (State.finishCmd_canonical h) h) ?_
    refine ite_holds h ?_
    refine ite_holds (State.completeIf_canonical h) ?_
    refine ite_holds (State.completeIf_canonical (State.runCopy_canonical h)) ?_
    refine ite_holds ?_ h
    split
    next e1 => exact (State.gather_canonical h).of_eq e1
    next e1 =>
      have he1 := (State.gather_canonical h).of_eq e1
      split
      · exact ite_holds he1 (State.completeIf_canonical (State.runTile_canonical he1))
      · exact (State.gather_canonical h).of_eq e1

theorem State.dropPass_canonical {s core id} (h : MemoryCanonical s) : MemoryCanonical (s.dropPass core id) := h

theorem State.passStop_canonical {s core c t p from_ folded status va} (h : MemoryCanonical s) :
    MemoryCanonical (s.passStop core c t p from_ folded status va) := by
  unfold State.passStop
  extract_lets
  refine ite_holds h ?_
  split
  extract_lets
  refine ite_holds ?_ (State.dropPass_canonical (State.modTile_canonical (ite_holds h h)))
  next t1 =>
    have h1 : MemoryCanonical t1 := by
      unfold t1
      split
      · exact State.dropPass_canonical (State.dropPass_canonical (State.modTile_canonical (ite_holds h h)))
      · exact State.dropPass_canonical (State.modTile_canonical (ite_holds h h))
    exact State.atTid_canonical (State.remop_canonical h1)

theorem execPassStop_canonical {core cmd folded status va s} (h : MemoryCanonical s) :
    NextCanonical (execPassStop core cmd folded status va s) := by
  unfold execPassStop
  show MemoryCanonical _
  split
  · exact h
  · refine ite_holds h ?_
    extract_lets
    split
    · exact State.gather_canonical h
    · split
      · exact State.passStop_canonical (State.gather_canonical h)
      · exact State.gather_canonical h

/-! ### `Sys2Proof/Machine/EvEther.lean` -/

theorem ethEvent_canonical {q ok f s} (h : MemoryCanonical s) : NextCanonical (ethEvent q ok f s) :=
  ite_holds (P := MemoryCanonical) h h

/-! ### `Sys2Proof/Machine/Farrier.lean` -/

theorem acceptReq_canonical {w v s} (h : MemoryCanonical s) : Answer.Canonical (acceptReq w v s) := h

theorem doneReq_canonical {s} (h : MemoryCanonical s) : Answer.Canonical (doneReq s) := h

theorem waitReq_canonical {w s} (h : MemoryCanonical s) : Answer.Canonical (waitReq w s) := h

theorem noCtx_canonical {f : Serve} {i k r s} (hf : ServeCanonical f) (h : MemoryCanonical s) :
    Answer.Canonical (noCtx f i k r s) :=
  ite_holds h (hf _ _ _ _ h)

theorem ofCtx_canonical {f : Serve} {i k r s} (hf : ServeCanonical f) (h : MemoryCanonical s) :
    Answer.Canonical (ofCtx f i k r s) :=
  ite_holds h (ite_holds h (hf _ _ _ _ h))

theorem ofPf_canonical {f : Serve} {i k r s} (hf : ServeCanonical f) (h : MemoryCanonical s) :
    Answer.Canonical (ofPf f i k r s) :=
  noCtx_canonical (fun _ _ _ _ h1 => ite_holds h1 (hf _ _ _ _ h1)) h

theorem inRange_canonical {ok} {f : Serve} {i k r s} (hf : ServeCanonical f) (h : MemoryCanonical s) :
    Answer.Canonical (inRange ok f i k r s) :=
  ite_holds (hf _ _ _ _ h) h

theorem State.sendReply_canonical {s iface k r a} (h : MemoryCanonical s) :
    MemoryCanonical (s.sendReply iface k r a) :=
  State.reply_canonical h

theorem Serve.answer_canonical {f : Serve} {iface k r s} (hf : ServeCanonical f) (h : MemoryCanonical s) :
    Answer.Canonical (Serve.answer f iface k r s) :=
  ite_holds (hf _ _ _ _ h) h

theorem State.serveReq_canonical {s iface r} {f : Serve} (h : MemoryCanonical s) (hf : ServeCanonical f) :
    MemoryCanonical (s.serveReq iface r f) := by
  unfold State.serveReq
  extract_lets
  refine ite_holds ?_ (State.sendReply_canonical (Serve.answer_canonical hf h))
  split
  · exact State.sendReply_canonical (State.mk_canonical (Serve.answer_canonical hf h))
  · exact State.sendReply_canonical h

theorem State.request_canonical {s code iface r} {f : Serve} (h : MemoryCanonical s) (hf : ServeCanonical f) :
    MemoryCanonical (s.request code iface r f) :=
  ite_holds (State.serveReq_canonical h hf) h

theorem State.clearLeaf_canonical {s c va sz} (h : MemoryCanonical s) : MemoryCanonical (s.clearLeaf c va sz) :=
  getD_holds (State.writeLeaf_canonical h) h

/-! ### `Sys2Proof/Machine/FarCtx.lean` -/

theorem State.takeBuffer_canonical {s n al ctx use} (h : MemoryCanonical s) :
    OptionPairCanonical (s.takeBuffer n al ctx use) := by
  unfold State.takeBuffer
  extract_lets ok any
  cases List.find? ok (any :: 0 :: s.usedFrames.map fun u => ceilDiv (u.1 + u.2) al * al) with
  | none => exact trivial
  | some _ => exact ite_holds (P := MemoryCanonical) h h

theorem serveOpen_canonical {i k r s} (h : MemoryCanonical s) : Answer.Canonical (serveOpen i k r s) := by
  unfold serveOpen
  refine noCtx_canonical (fun i k r s h => inRange_canonical (fun i k r s h => ?_) h) h
  extract_lets tag q
  split
  · refine ite_holds h (ite_holds h ?_)
    extract_lets made
    have hmade : ∀ a, made = some a → Answer.Canonical a := by
      intro a ha
      obtain ⟨ring, -, ha⟩ := Option.bind_eq_some_iff.1 ha
      obtain ⟨root, hroot, ha⟩ := Option.bind_eq_some_iff.1 ha
      obtain ⟨save, hsave, ha⟩ := Option.bind_eq_some_iff.1 ha
      obtain ⟨buf, hbuf, rfl⟩ := Option.map_eq_some_iff.1 ha
      have h1 := (State.takeFrame_canonical h).of_eq hroot
      have h2 := (State.takeBuffer_canonical (State.zero_canonical h1)).of_eq hsave
      exact (State.takeBuffer_canonical h2).of_eq hbuf
    cases hm : made with
    | none => exact h
    | some a => exact hmade a hm
  · exact h

theorem ofAnyCtx_canonical {f : Serve} {i k r s} (hf : ServeCanonical f) (h : MemoryCanonical s) :
    Answer.Canonical (ofAnyCtx f i k r s) :=
  ite_holds h (ite_holds h (hf _ _ _ _ h))

theorem serveClose_canonical {i k r s} (h : MemoryCanonical s) : Answer.Canonical (serveClose i k r s) :=
  ofCtx_canonical
    (fun _ _ _ _ h1 =>
      doneReq_canonical
        (ite_holds (State.closeDone_canonical (dropQueues_canonical h1))
          (State.modCtx_canonical (dropQueues_canonical h1)))) h

theorem killReq_canonical {c s} (h : MemoryCanonical s) : Answer.Canonical (killReq c s) := by
  unfold killReq
  split
  · exact doneReq_canonical (State.kill_canonical h)
  · exact doneReq_canonical (State.kill_canonical h)
  · exact doneReq_canonical (State.kill_canonical h)
  · exact h
  · exact h

theorem serveKill_canonical {i k r s} (h : MemoryCanonical s) : Answer.Canonical (serveKill i k r s) :=
  ite_holds (ite_holds h (ite_holds h (killReq_canonical h)))
    (ofAnyCtx_canonical (fun _ _ _ _ h1 => killReq_canonical h1) h)

theorem serveLqCreate_canonical {i k r s} (h : MemoryCanonical s) : Answer.Canonical (serveLqCreate i k r s) := by
  unfold serveLqCreate
  refine ofCtx_canonical (fun _ _ _ _ h1 => ?_) h
  refine inRange_canonical (fun _ _ _ _ h2 => ?_) h1
  extract_lets
  refine ite_holds h2 ?_
  refine ite_holds h2 ?_
  split
  · exact h2
  next e =>
    exact doneReq_canonical (State.modCtx_canonical (State.zero_canonical ((State.takeFrame_canonical h2).of_eq e)))

theorem ofQueue_canonical {f : ℕ → ℕ → LaunchQ → State → Answer} {i k r s}
    (hf : ∀ a b c t, MemoryCanonical t → Answer.Canonical (f a b c t)) (h : MemoryCanonical s) :
    Answer.Canonical (ofQueue f i k r s) := by
  unfold ofQueue
  refine ofCtx_canonical (fun _ _ _ t h1 => ?_) h
  refine inRange_canonical (fun _ _ _ _ h2 => ?_) h1
  split
  · exact hf _ _ _ _ h2
  · exact h2

theorem setPaused_canonical {p i k r s} (h : MemoryCanonical s) : Answer.Canonical (setPaused p i k r s) :=
  ofQueue_canonical (fun _ _ _ _ h1 => ite_holds h1 h1) h

theorem serveLqPause_canonical {i k r s} (h : MemoryCanonical s) : Answer.Canonical (serveLqPause i k r s) :=
  setPaused_canonical h

theorem serveLqResume_canonical {i k r s} (h : MemoryCanonical s) : Answer.Canonical (serveLqResume i k r s) :=
  setPaused_canonical h

theorem serveLqDelete_canonical {i k r s} (h : MemoryCanonical s) : Answer.Canonical (serveLqDelete i k r s) :=
  ofQueue_canonical
    (fun _ _ _ _ h1 =>
      doneReq_canonical
        (State.modCtx_canonical (State.freeFrame_canonical (foldl_holds h1 (fun _ h2 _ => State.record_canonical h2)))))
    h

theorem serveRingRead_canonical {i k r s} (h : MemoryCanonical s) : Answer.Canonical (serveRingRead i k r s) := by
  unfold serveRingRead
  refine noCtx_canonical (fun _ _ _ _ h1 => ?_) h
  refine inRange_canonical (fun _ _ _ _ h2 => ?_) h1
  split
  · exact h2
  · exact ite_holds h2 (ite_holds h2 h2)

theorem serveRingRelease_canonical {i k r s} (h : MemoryCanonical s) : Answer.Canonical (serveRingRelease i k r s) := by
  unfold serveRingRelease
  refine noCtx_canonical (fun _ _ _ _ h1 => ?_) h
  extract_lets
  split
  · exact h1
  · exact ite_holds h1 h1

theorem serveBudgetSet_canonical {i k r s} (h : MemoryCanonical s) : Answer.Canonical (serveBudgetSet i k r s) :=
  ofPf_canonical (fun _ _ _ _ h1 => inRange_canonical (fun _ _ _ _ h2 => h2) h1) h

/-! ### `Sys2Proof/Machine/FarPage.lean` -/

theorem serveMap_canonical {i k r s} (h : MemoryCanonical s) : Answer.Canonical (serveMap i k r s) := by
  unfold serveMap
  refine ofCtx_canonical (fun _ _ _ t h1 => ?_) h
  refine inRange_canonical (fun _ _ _ _ h2 => ?_) h1
  extract_lets _ _ _ _ _ put
  have hput : ∀ a b t, MemoryCanonical t → Answer.Canonical (put a b t) := by
    intro x6 x7 t2 h3
    unfold put
    extract_lets
    split
    next e1 => exact acceptReq_canonical ((State.writeLeaf_canonical h3).of_eq e1)
    · exact h2
  refine ite_holds h2 ?_
  refine ite_holds h2 ?_
  refine ite_holds (hput _ _ _ h2) ?_
  refine ite_holds h2 ?_
  split
  · exact h2
  next e => exact hput _ _ _ (State.zero_canonical ((State.takeFrame_canonical h2).of_eq e))

theorem ofPage_canonical {f : ℕ → ℕ → ℕ → ℕ → Serve} {i k r s}
    (hf : ∀ a b c d e i k t, MemoryCanonical t → Answer.Canonical (f a b c d e i k t)) (h : MemoryCanonical s) :
    Answer.Canonical (ofPage f i k r s) := by
  unfold ofPage
  refine ofCtx_canonical (fun _ _ _ t h1 => ?_) h
  refine inRange_canonical (fun _ _ _ _ h2 => ?_) h1
  split
  · exact h2
  · exact ite_holds h2 (hf _ _ _ _ _ _ _ _ h2)

theorem serveUnmap_canonical {i k r s} (h : MemoryCanonical s) : Answer.Canonical (serveUnmap i k r s) :=
  ofPage_canonical
    (fun _ _ _ _ _ _ _ _ h1 => waitReq_canonical (State.shootdown_canonical (State.clearLeaf_canonical h1))) h

theorem serveProtect_canonical {i k r s} (h : MemoryCanonical s) : Answer.Canonical (serveProtect i k r s) := by
  unfold serveProtect
  refine ofPage_canonical (fun _ _ _ _ _ _ _ _ h1 => ?_) h
  refine ite_holds h1 ?_
  extract_lets
  split
  next e => exact waitReq_canonical (State.shootdown_canonical ((State.writeLeaf_canonical h1).of_eq e))
  · exact h1

theorem serveMove_canonical {i k r s} (h : MemoryCanonical s) : Answer.Canonical (serveMove i k r s) := by
  unfold serveMove
  refine ofPage_canonical (fun _ _ _ e _ _ r s h => ?_) h
  extract_lets a frame
  clear_value frame
  split
  · refine ite_holds h ?_
    extract_lets s1
    have h1 : MemoryCanonical s1 := h
    split
    · exact h
    next e =>
      exact acceptReq_canonical
        (State.shootdown_canonical (State.mk_canonical ((State.writeLeaf_canonical h1).of_eq e)))
  · exact h

theorem serveWrAlloc_canonical {i k r s} (h : MemoryCanonical s) : Answer.Canonical (serveWrAlloc i k r s) := by
  unfold serveWrAlloc
  refine ofCtx_canonical (fun i k r s h => inRange_canonical (fun i k r s h => ?_) h) h
  extract_lets c die n va lo held
  refine ite_holds h (ite_holds h ?_)
  split
  · exact h
  · extract_lets s1
    have h1 : MemoryCanonical s1 := h
    split
    next e => exact (foldlM_canonical h1 fun t ht b => State.writeLeaf_canonical ht).of_eq e
    · exact h

theorem ofRegion_canonical {f : ℕ → Region → ℕ → ℕ → State → Answer} {i k r s}
    (hf : ∀ a b c d t, MemoryCanonical t → Answer.Canonical (f a b c d t)) (h : MemoryCanonical s) :
    Answer.Canonical (ofRegion f i k r s) := by
  unfold ofRegion
  refine ofCtx_canonical (fun _ _ _ t h1 => ?_) h
  split
  · exact ite_holds (hf _ _ _ _ _ h1) h1
  · exact h1

theorem serveWrSeal_canonical {i k r s} (h : MemoryCanonical s) : Answer.Canonical (serveWrSeal i k r s) :=
  ofRegion_canonical (fun _ _ _ _ _ h1 => ite_holds h1 (ite_holds h1 h1)) h

theorem serveWrUnseal_canonical {i k r s} (h : MemoryCanonical s) : Answer.Canonical (serveWrUnseal i k r s) :=
  ofRegion_canonical (fun _ _ _ _ _ h1 => ite_holds h1 h1) h

theorem serveWrFree_canonical {i k r s} (h : MemoryCanonical s) : Answer.Canonical (serveWrFree i k r s) :=
  ofRegion_canonical
    (fun _ _ _ _ _ h1 =>
      waitReq_canonical
        (State.shootdown_canonical
          (State.toZero_canonical
            (State.replyReady_canonical
              (State.mk_canonical (foldl_holds h1 (fun _ h2 _ => State.clearLeaf_canonical h2))))))) h

/-! ### `Sys2Proof/Machine/FarDev.lean` -/

theorem serveRangeSet_canonical {i k r s} (h : MemoryCanonical s) : Answer.Canonical (serveRangeSet i k r s) :=
  noCtx_canonical (fun _ _ _ _ h1 => inRange_canonical (fun _ _ _ _ h2 => ite_holds h2 h2) h1) h

theorem servePdAlloc_canonical {i k r s} (h : MemoryCanonical s) : Answer.Canonical (servePdAlloc i k r s) :=
  ofCtx_canonical (fun _ _ _ _ h1 => ite_holds h1 h1) h

theorem servePdFree_canonical {i k r s} (h : MemoryCanonical s) : Answer.Canonical (servePdFree i k r s) :=
  ofCtx_canonical (fun _ _ _ _ h1 => inRange_canonical (fun _ _ _ _ h2 => ite_holds h2 h2) h1) h

theorem serveMrReg_canonical {i k r s} (h : MemoryCanonical s) : Answer.Canonical (serveMrReg i k r s) :=
  ofCtx_canonical (fun _ _ _ _ h1 => inRange_canonical (fun _ _ _ _ h2 => ite_holds h2 (ite_holds h2 h2)) h1) h

theorem serveMrDereg_canonical {i k r s} (h : MemoryCanonical s) : Answer.Canonical (serveMrDereg i k r s) := by
  unfold serveMrDereg
  refine ofCtx_canonical (fun _ _ _ _ h1 => ?_) h
  refine inRange_canonical (fun _ _ _ _ h2 => ?_) h1
  split
  · exact ite_holds h2 h2
  · exact h2

theorem serveQpCreate_canonical {i k r s} (h : MemoryCanonical s) : Answer.Canonical (serveQpCreate i k r s) :=
  ofCtx_canonical
    (fun _ _ _ _ h1 => inRange_canonical (fun _ _ _ _ h2 => ite_holds h2 (ite_holds h2 (ite_holds h2 h2))) h1) h

theorem ofQp_canonical {f : ℕ → Qp → Req → State → Answer} {i k r s}
    (hf : ∀ a b c t, MemoryCanonical t → Answer.Canonical (f a b c t)) (h : MemoryCanonical s) :
    Answer.Canonical (ofQp f i k r s) := by
  unfold ofQp
  refine ofCtx_canonical (fun _ _ _ t h1 => ?_) h
  refine inRange_canonical (fun _ _ _ _ h2 => ?_) h1
  split
  · exact ite_holds (hf _ _ _ _ h2) h2
  · exact h2

theorem serveQpModify_canonical {i k r s} (h : MemoryCanonical s) : Answer.Canonical (serveQpModify i k r s) := by
  unfold serveQpModify
  refine ofQp_canonical (fun _ _ _ _ h1 => ?_) h
  extract_lets
  refine ite_holds h1 ?_
  split
  · exact ite_holds h1 h1
  · exact h1
  · exact h1
  · exact h1
  · exact h1

theorem serveQpDestroy_canonical {i k r s} (h : MemoryCanonical s) : Answer.Canonical (serveQpDestroy i k r s) :=
  ofQp_canonical (fun _ _ _ _ h1 => doneReq_canonical (State.mk_canonical (State.qpError_canonical h1))) h

theorem serveQpBind_canonical {i k r s} (h : MemoryCanonical s) : Answer.Canonical (serveQpBind i k r s) :=
  ofQp_canonical (fun _ _ _ _ h1 => ite_holds h1 (ite_holds h1 h1)) h

theorem State.holdDogs_canonical {s} (h : MemoryCanonical s) : MemoryCanonical s.holdDogs := h

theorem serveGangStop_canonical {i k r s} (h : MemoryCanonical s) : Answer.Canonical (serveGangStop i k r s) :=
  ofPf_canonical
    (fun _ _ _ _ h1 =>
      inRange_canonical
        (fun _ _ _ _ h2 => doneReq_canonical (State.holdDogs_canonical (foldl_holds h2 (fun _ h3 _ => h3)))) h1) h

theorem serveGangRelease_canonical {i k r s} (h : MemoryCanonical s) : Answer.Canonical (serveGangRelease i k r s) :=
  ofPf_canonical
    (fun _ _ _ _ h1 =>
      inRange_canonical
        (fun _ _ _ _ h2 => doneReq_canonical (State.holdDogs_canonical (foldl_holds h2 (fun _ h3 _ => h3)))) h1) h

theorem serveStopRead_canonical {i k r s} (h : MemoryCanonical s) : Answer.Canonical (serveStopRead i k r s) :=
  ofPf_canonical (fun _ _ _ _ h1 => inRange_canonical (fun _ _ _ _ h2 => h2) h1) h

theorem serveGroupMove_canonical {i k r s} (h : MemoryCanonical s) : Answer.Canonical (serveGroupMove i k r s) := by
  unfold serveGroupMove
  refine ofCtx_canonical (fun _ _ _ _ h1 => ?_) h
  refine inRange_canonical (fun _ _ _ _ h2 => ?_) h1
  split
  · exact ite_holds h2 h2
  · exact h2

theorem serveQuote_canonical {i k r s} (h : MemoryCanonical s) : Answer.Canonical (serveQuote i k r s) :=
  noCtx_canonical (fun _ _ _ _ h1 => inRange_canonical (fun _ _ _ _ h2 => h2) h1) h

theorem serveExtend_canonical {i k r s} (h : MemoryCanonical s) : Answer.Canonical (serveExtend i k r s) :=
  ofPf_canonical (fun _ _ _ _ h1 => inRange_canonical (fun _ _ _ _ h2 => h2) h1) h

theorem transfer_canonical {key r s} (h : MemoryCanonical s) : Answer.Canonical (transfer key r s) := by
  unfold transfer
  extract_lets
  refine ite_holds h ?_
  split
  · exact h
  · exact ite_holds h h

theorem serveOwnRelease_canonical {i k r s} (h : MemoryCanonical s) : Answer.Canonical (serveOwnRelease i k r s) :=
  ofPf_canonical (fun _ _ _ _ h1 => inRange_canonical (fun _ _ _ _ h2 => transfer_canonical h2) h1) h

theorem serveOwnRecover_canonical {i k r s} (h : MemoryCanonical s) : Answer.Canonical (serveOwnRecover i k r s) :=
  ofPf_canonical (fun _ _ _ _ h1 => inRange_canonical (fun _ _ _ _ h2 => transfer_canonical h2) h1) h

theorem serveOwnInstall_canonical {i k r s} (h : MemoryCanonical s) : Answer.Canonical (serveOwnInstall i k r s) :=
  ofPf_canonical (fun _ _ _ _ h1 => inRange_canonical (fun _ _ _ _ h2 => ite_holds h2 h2) h1) h

theorem serveImgWrite_canonical {i k r s} (h : MemoryCanonical s) : Answer.Canonical (serveImgWrite i k r s) :=
  ofPf_canonical (fun _ _ _ _ h1 => inRange_canonical (fun _ _ _ _ h2 => ite_holds h2 h2) h1) h

theorem serveImgSelect_canonical {i k r s} (h : MemoryCanonical s) : Answer.Canonical (serveImgSelect i k r s) :=
  ofPf_canonical (fun _ _ _ _ h1 => inRange_canonical (fun _ _ _ _ h2 => h2) h1) h

/-! ### `Sys2Proof/Machine/EvFarrier.lean` -/

/-- What a request code names, if it names anything, keeps memory canonical (R458). -/
theorem serveOf_canonical (code : Nat) : ∀ f, serveOf code = some f → ServeCanonical f := by
  unfold serveOf
  split
  · rintro _ ⟨⟩ _ _ _ _ h; exact serveOpen_canonical h
  · rintro _ ⟨⟩ _ _ _ _ h; exact serveClose_canonical h
  · rintro _ ⟨⟩ _ _ _ _ h; exact serveKill_canonical h
  · rintro _ ⟨⟩ _ _ _ _ h; exact serveLqCreate_canonical h
  · rintro _ ⟨⟩ _ _ _ _ h; exact serveLqPause_canonical h
  · rintro _ ⟨⟩ _ _ _ _ h; exact serveLqResume_canonical h
  · rintro _ ⟨⟩ _ _ _ _ h; exact serveLqDelete_canonical h
  · rintro _ ⟨⟩ _ _ _ _ h; exact serveMap_canonical h
  · rintro _ ⟨⟩ _ _ _ _ h; exact serveUnmap_canonical h
  · rintro _ ⟨⟩ _ _ _ _ h; exact serveProtect_canonical h
  · rintro _ ⟨⟩ _ _ _ _ h; exact serveMove_canonical h
  · rintro _ ⟨⟩ _ _ _ _ h; exact serveWrAlloc_canonical h
  · rintro _ ⟨⟩ _ _ _ _ h; exact serveWrSeal_canonical h
  · rintro _ ⟨⟩ _ _ _ _ h; exact serveWrUnseal_canonical h
  · rintro _ ⟨⟩ _ _ _ _ h; exact serveWrFree_canonical h
  · rintro _ ⟨⟩ _ _ _ _ h; exact serveRangeSet_canonical h
  · rintro _ ⟨⟩ _ _ _ _ h; exact servePdAlloc_canonical h
  · rintro _ ⟨⟩ _ _ _ _ h; exact servePdFree_canonical h
  · rintro _ ⟨⟩ _ _ _ _ h; exact serveMrReg_canonical h
  · rintro _ ⟨⟩ _ _ _ _ h; exact serveMrDereg_canonical h
  · rintro _ ⟨⟩ _ _ _ _ h; exact serveQpCreate_canonical h
  · rintro _ ⟨⟩ _ _ _ _ h; exact serveQpModify_canonical h
  · rintro _ ⟨⟩ _ _ _ _ h; exact serveQpDestroy_canonical h
  · rintro _ ⟨⟩ _ _ _ _ h; exact serveQpBind_canonical h
  · rintro _ ⟨⟩ _ _ _ _ h; exact serveRingRead_canonical h
  · rintro _ ⟨⟩ _ _ _ _ h; exact serveRingRelease_canonical h
  · rintro _ ⟨⟩ _ _ _ _ h; exact serveBudgetSet_canonical h
  · rintro _ ⟨⟩ _ _ _ _ h; exact serveGangStop_canonical h
  · rintro _ ⟨⟩ _ _ _ _ h; exact serveGangRelease_canonical h
  · rintro _ ⟨⟩ _ _ _ _ h; exact serveStopRead_canonical h
  · rintro _ ⟨⟩ _ _ _ _ h; exact serveGroupMove_canonical h
  · rintro _ ⟨⟩ _ _ _ _ h; exact serveQuote_canonical h
  · rintro _ ⟨⟩ _ _ _ _ h; exact serveExtend_canonical h
  · rintro _ ⟨⟩ _ _ _ _ h; exact serveOwnRelease_canonical h
  · rintro _ ⟨⟩ _ _ _ _ h; exact serveOwnRecover_canonical h
  · rintro _ ⟨⟩ _ _ _ _ h; exact serveOwnInstall_canonical h
  · rintro _ ⟨⟩ _ _ _ _ h; exact serveImgWrite_canonical h
  · rintro _ ⟨⟩ _ _ _ _ h; exact serveImgSelect_canonical h
  · rintro _ ⟨⟩

theorem serveAny_canonical {i k r s} (h : MemoryCanonical s) : Answer.Canonical (serveAny i k r s) := by
  unfold serveAny
  split
  next e => exact serveOf_canonical _ _ e _ _ _ _ h
  · exact h

theorem execFarrierTakeRequest_canonical {iface s} (h : MemoryCanonical s) :
    NextCanonical (execFarrierTakeRequest iface s) := by
  unfold execFarrierTakeRequest
  show MemoryCanonical _
  exact ite_holds (State.serveReq_canonical h (fun _ _ _ _ h1 => serveAny_canonical h1)) h

theorem State.rollBack_canonical {s iface l n} (h : MemoryCanonical s) : MemoryCanonical (s.rollBack iface l n) :=
  State.sendReply_canonical (State.recover_canonical (State.cutShort_canonical h))

theorem State.dropCheck_canonical {s} (h : MemoryCanonical s) : MemoryCanonical s.dropCheck := by
  unfold State.dropCheck
  split
  · exact State.replyAs_canonical h
  · exact h

theorem State.afterReset_canonical {s cut} (h : MemoryCanonical s) : MemoryCanonical (s.afterReset cut) := by
  unfold State.afterReset
  split
  · exact State.recover_canonical h
  · split
    next e =>
      have ht := (State.choose_canonical h).of_eq e
      exact ite_holds (State.rollBack_canonical ht) (State.recover_canonical ht)
    next e => exact State.recover_canonical ((State.choose_canonical h).of_eq e)

theorem execHeartbeatTimeout_canonical {s} (h : MemoryCanonical s) : NextCanonical (execHeartbeatTimeout s) := by
  unfold execHeartbeatTimeout
  show MemoryCanonical _
  exact ite_holds h
    (ite_holds (State.irq_canonical (State.dropCheck_canonical h))
      (State.afterReset_canonical (State.dropCheck_canonical h)))

/-! ### `Sys2Proof/Machine/MemIns.lean` -/

theorem memOp_canonical {g regs xa off n al o s} {k : Word → Target → State → State} (h : MemoryCanonical s)
    (hk : ∀ a b t, MemoryCanonical t → MemoryCanonical (k a b t)) : NextCanonical (memOp g regs xa off n al o s k) := by
  unfold memOp
  refine guarded_canonical h (fun t h1 => ?_)
  extract_lets
  split
  next e => exact (State.check_canonical h1).of_eq e
  next e => exact hk _ _ _ ((State.check_canonical h1).of_eq e)

theorem State.issueLoad_canonical {s ea t n d} (h : MemoryCanonical s) : MemoryCanonical (s.issueLoad ea t n d) :=
  ite_holds (ite_holds (State.finish_canonical h) (ite_holds (State.trap_canonical h) (State.finish_canonical h)))
    (State.waitParts_canonical h)

theorem execLd_canonical {g w xd xa off s} (h : MemoryCanonical s) : NextCanonical (execLd g w xd xa off s) :=
  memOp_canonical h (fun _ _ _ h1 => State.issueLoad_canonical h1)

theorem execLdn_canonical {g w xd xa off s} (h : MemoryCanonical s) : NextCanonical (execLdn g w xd xa off s) :=
  memOp_canonical h (fun _ _ _ h1 => State.commit_canonical (State.sendLdn_canonical h1))

theorem State.ldeHere_canonical {s ea t xd clear} (h : MemoryCanonical s) :
    MemoryCanonical (s.ldeHere ea t xd clear) :=
  ite_holds (ite_holds (State.trap_canonical h) (State.finish_canonical (ite_holds (State.setFull_canonical h) h)))
    (State.blockOn_canonical h)

theorem State.ldeFar_canonical {s ea t xd clear} (h : MemoryCanonical s) : MemoryCanonical (s.ldeFar ea t xd clear) := by
  unfold State.ldeFar
  split
  · exact State.commit_canonical h
  · exact State.trap_canonical h
  · exact State.blockOn_canonical (State.sendLde_canonical h)

theorem loadFull_canonical {clear g xd xa off s} (h : MemoryCanonical s) :
    NextCanonical (loadFull clear g xd xa off s) :=
  memOp_canonical h (fun _ _ _ h1 =>
    ite_holds (State.ldeHere_canonical h1) (ite_holds (State.ldeFar_canonical h1) (State.waitParts_canonical h1)))

theorem execFeq_canonical {g pd pe xa off s} (h : MemoryCanonical s) : NextCanonical (execFeq g pd pe xa off s) :=
  memOp_canonical h (fun _ _ _ h1 => ite_holds (State.finish_canonical h1) (State.waitParts_canonical h1))

theorem State.relThen_canonical {s o} {k : State → State} (h : MemoryCanonical s)
    (hk : ∀ t, MemoryCanonical t → MemoryCanonical (k t)) : MemoryCanonical (s.relThen o k) :=
  ite_holds (State.release_canonical h hk) (hk _ h)

theorem State.atomResult_canonical {s ea t op n b c d} (h : MemoryCanonical s) :
    MemoryCanonical (s.atomResult ea t op n b c d) := by
  unfold State.atomResult
  extract_lets u
  have hu : MemoryCanonical u := h
  refine ite_holds ?_ (State.waitParts_canonical (State.drainLine_canonical hu))
  split
  next e => exact State.tryFinish_canonical (State.claim_canonical ((State.doAtom_canonical hu).of_eq e))
  next e => exact State.trap_canonical ((State.doAtom_canonical hu).of_eq e)

theorem atomOp_canonical {op g n o d xa xb off s} (h : MemoryCanonical s) :
    NextCanonical (atomOp op g n o d xa xb off s) := by
  unfold atomOp
  extract_lets
  refine memOp_canonical h (fun _ _ _ h1 => ?_)
  refine State.relThen_canonical h1 (fun _ h2 => ?_)
  extract_lets
  split
  · exact State.atomResult_canonical h2
  · refine State.issueStore_canonical h2 (fun _ h3 => ?_)
    split
    · exact State.tryFinish_canonical h3
    · exact State.commit_canonical h3

theorem execAcas_canonical {g w8 o xd pd pe xa xb off s} (h : MemoryCanonical s) :
    NextCanonical (execAcas g w8 o xd pd pe xa xb off s) :=
  memOp_canonical h (fun _ _ _ h1 => State.relThen_canonical h1 (fun _ h2 => State.atomResult_canonical h2))

/-! ### `Sys2Proof/Machine/PageIns.lean` -/

theorem execTlbi_canonical {g r m s} (h : MemoryCanonical s) : NextCanonical (execTlbi g r m s) := by
  unfold execTlbi
  extract_lets
  refine privileged_canonical h ?_
  refine guarded_canonical h (fun _ h1 => ?_)
  extract_lets
  split
  · exact ite_holds (State.commit_canonical h1) (State.commit_canonical h1)
  · exact State.commit_canonical h1
  · exact State.commit_canonical h1

theorem execProbe_canonical {g acc xd pd pe xa s} (h : MemoryCanonical s) :
    NextCanonical (execProbe g acc xd pd pe xa s) := by
  unfold execProbe
  refine privileged_canonical h ?_
  refine guarded_canonical h (fun t h1 => ?_)
  extract_lets _ bad
  have hbad : ∀ u, MemoryCanonical u → ∀ a t, MemoryCanonical (bad u a t) := by
    intro t1 h2 x x1
    unfold bad
    exact State.commit_canonical h2
  refine ite_holds (hbad _ h1 _ _) ?_
  refine ite_holds (State.accept_canonical h1) ?_
  split
  next e => exact (State.xlate_canonical h1).of_eq e
  next e => exact hbad _ ((State.xlate_canonical h1).of_eq e) _ _
  next e =>
    have he := (State.xlate_canonical h1).of_eq e
    split
    · exact hbad _ he _ _
    · exact State.accept_canonical he

/-! ### `Sys2Proof/Machine/Scalar.lean` -/

theorem binop_canonical {f g xd xa b s} (h : MemoryCanonical s) : NextCanonical (binop f g xd xa b s) :=
  guarded_canonical h (fun _ h1 => State.commit_canonical h1)

theorem unop_canonical {f g xd xa s} (h : MemoryCanonical s) : NextCanonical (unop f g xd xa s) :=
  guarded_canonical h (fun _ h1 => State.commit_canonical h1)

theorem predOp_canonical {f g pd pa pb s} (h : MemoryCanonical s) : NextCanonical (predOp f g pd pa pb s) :=
  guarded_canonical h (fun _ h1 => State.commit_canonical h1)

/-! ### `Sys2Proof/Machine/Vector.lean` -/

theorem vecIns_canonical {act vs rd xs s} {k : State → State} (h : MemoryCanonical s)
    (hk : ∀ t, MemoryCanonical t → MemoryCanonical (k t)) : NextCanonical (vecIns act vs rd xs s k) := by
  unfold vecIns
  show MemoryCanonical _
  split
  · exact State.trap_canonical h
  · refine ite_holds (State.commit_canonical h) ?_
    split
    · exact State.blockOn_canonical h
    · refine State.bankThen_canonical h (fun t h1 => ?_)
      split
      · exact State.blockOn_canonical h1
      · exact State.readVThen_canonical h1 hk

theorem elemIns_canonical {g ty vd srcs xs f s} (h : MemoryCanonical s) :
    NextCanonical (elemIns g ty vd srcs xs f s) :=
  vecIns_canonical h (fun _ h1 => State.commit_canonical (State.orVflags_canonical (State.writeElems_canonical h1)))

theorem bitIns_canonical {g ty vd srcs f s} (h : MemoryCanonical s) : NextCanonical (bitIns g ty vd srcs f s) :=
  elemIns_canonical h

theorem shiftIns_canonical {f g ty vd va sh s} (h : MemoryCanonical s) : NextCanonical (shiftIns f g ty vd va sh s) := by
  unfold shiftIns
  split <;> exact bitIns_canonical h

theorem execVcmp_canonical {g c ty pd pe va vb s} (h : MemoryCanonical s) :
    NextCanonical (execVcmp g c ty pd pe va vb s) :=
  vecIns_canonical h (fun _ h1 => State.commit_canonical (State.orVflags_canonical h1))

theorem execVclass_canonical {g ty vd pd pe va mask s} (h : MemoryCanonical s) :
    NextCanonical (execVclass g ty vd pd pe va mask s) :=
  vecIns_canonical h (fun _ h1 => State.commit_canonical (State.modMe_canonical (State.writeElems_canonical h1)))

theorem execVextr_canonical {g ty xd va k s} (h : MemoryCanonical s) : NextCanonical (execVextr g ty xd va k s) :=
  vecIns_canonical h (fun _ h1 => State.commit_canonical h1)

theorem execVcvt_canonical {g dt st ns rm vd va part s} (h : MemoryCanonical s) :
    NextCanonical (execVcvt g dt st ns rm vd va part s) := by
  unfold execVcvt
  refine vecIns_canonical h fun t ht => ?_
  extract_lets
  exact State.commit_canonical (State.orVflags_canonical (State.writeElems_canonical ht))

/-! ### `Sys2Proof/Machine/VecMem.lean` -/

theorem State.issueParts_canonical {s parts d} (h : MemoryCanonical s) : MemoryCanonical (s.issueParts parts d) :=
  ite_holds (State.tryFinish_canonical h) (State.waitParts_canonical h)

theorem execVld_canonical {g ty vd xa off s} (h : MemoryCanonical s) : NextCanonical (execVld g ty vd xa off s) := by
  unfold execVld
  refine vecIns_canonical h (fun _ h1 => ?_)
  extract_lets
  split
  next e => exact (State.check_canonical h1).of_eq e
  next e => exact State.issueParts_canonical ((State.check_canonical h1).of_eq e)

theorem State.issuePieces_canonical {s inst ea l} (h : MemoryCanonical s) :
    MemoryCanonical (s.issuePieces inst ea l) := by
  unfold State.issuePieces
  split
  · exact State.commit_canonical h
  · exact ite_holds (State.putPiecesOf_canonical h) h

theorem execVst_canonical {g ty va xa off s} (h : MemoryCanonical s) : NextCanonical (execVst g ty va xa off s) := by
  unfold execVst
  refine vecIns_canonical h (fun _ h1 => ?_)
  extract_lets
  split
  next e => exact (State.check_canonical h1).of_eq e
  next e => exact State.issuePieces_canonical ((State.check_canonical h1).of_eq e)

theorem State.checkLanes_canonical {s n o l acc} (h : MemoryCanonical s) :
    ExceptPairCanonical (s.checkLanes n o l acc) := by
  induction l generalizing s acc with
  | nil => exact h
  | cons e l ih =>
    unfold State.checkLanes
    split
    next e => exact (State.check_canonical h).of_eq e
    next e => exact ih ((State.check_canonical h).of_eq e)

theorem execVldg_canonical {g ty vd vb xa sh s} (h : MemoryCanonical s) :
    NextCanonical (execVldg g ty vd vb xa sh s) := by
  unfold execVldg
  refine vecIns_canonical h (fun _ h1 => ?_)
  extract_lets
  split
  next e => exact (State.checkLanes_canonical h1).of_eq e
  next e => exact State.issueParts_canonical ((State.checkLanes_canonical h1).of_eq e)

theorem execVsts_canonical {g ty va vb xa sh s} (h : MemoryCanonical s) :
    NextCanonical (execVsts g ty va vb xa sh s) := by
  unfold execVsts
  refine vecIns_canonical h (fun _ h1 => ?_)
  extract_lets
  split
  next e => exact (State.checkLanes_canonical h1).of_eq e
  next e => exact State.issuePieces_canonical ((State.checkLanes_canonical h1).of_eq e)

/-! ### `Sys2Proof/Machine/Dispatch.lean` -/

/-- Every arm of the dispatch keeps memory canonical. -/
theorem exec_canonical {s} (h : MemoryCanonical s) (i : Instr) : NextCanonical (exec i s) := by
  unfold exec
  cases i with
  | issuePosition => exact execIssuePosition_canonical h
  | add | sub | mul | mulh | div | rem | and | or | xor | andn | orn | shl | shr | sar | rol | min | max | bext =>
    exact binop_canonical h
  | clz | ctz | popc | sext => exact unop_canonical h
  | bins | mov | li | sel | cmp | tstb | pnot | pmovPtox | pmovXtop | pany | pcnt | nop | ts | cyc | wswin
  | gname | wid | portq => exact guarded_canonical h (fun _ h1 => State.commit_canonical h1)
  | pand | por | pxor | pandn => exact predOp_canonical h
  | ld => exact execLd_canonical h
  | st | stf | empt =>
    exact memOp_canonical h (fun _ _ _ h1 => State.issueStore_canonical h1 (fun _ h2 => State.commit_canonical h2))
  | ldn => exact execLdn_canonical h
  | lde | ldeC => exact loadFull_canonical h
  | feq => exact execFeq_canonical h
  | aadd | aand | aor | axor | amin | amax | aswap | afadd => exact atomOp_canonical h
  | acas => exact execAcas_canonical h
  | br | brx | call | callx => exact guarded_canonical h (fun _ h1 => State.branch_canonical h1)
  | trap => exact execTrap_canonical h
  | eret => exact execEret_canonical h
  | srd => exact execSrd_canonical h
  | swr => exact execSwr_canonical h
  | tpost => exact execTpost_canonical h
  | fence => exact execFence_canonical h
  | spawn | spawnLoose => exact spawnOp_canonical h
  | spnr => exact execSpnr_canonical h
  | join => exact execJoin_canonical h
  | exit => exact execExit_canonical h
  | yield => exact execYield_canonical h
  | prio => exact execPrio_canonical h
  | slot => exact execSlot_canonical h
  | migr => exact execMigr_canonical h
  | semw => exact execSemw_canonical h
  | sema => exact execSema_canonical h
  | chanInstall => exact execChanInstall_canonical h
  | chanBlock | chanUnblock | chanRemove | chanQuery => exact chanOp_canonical h
  | gnameRank => exact execGnameRank_canonical h
  | varm => exact execVarm_canonical h
  | vput => exact execVput_canonical h
  | send => exact execSend_canonical h
  | recv | recvTry => exact recvOp_canonical h
  | enq => exact execEnq_canonical h
  | mboxOpen => exact execMboxOpen_canonical h
  | mboxClose => exact execMboxClose_canonical h
  | mboxQuery => exact execMboxQuery_canonical h
  | trig => exact execTrig_canonical h
  | kwait => exact execKwait_canonical h
  | klnch => exact execKlnch_canonical h
  | binit | bexp | btest | bind => exact barIns_canonical h (fun _ _ _ h1 => State.barIssue_canonical h1)
  | barr => exact execBarr_canonical h
  | bwait => exact execBwait_canonical h
  | unbind => exact execUnbind_canonical h
  | vadd | vsub | vmul | vfma | vfms | vmin | vmax | vrcp | vrsq | vexp2 | vlog2 | vsel | vbcst | vidx =>
    exact elemIns_canonical h
  | vabs | vneg | vmov | vand | vor | vxor | viadd | vimul => exact bitIns_canonical h
  | vcmp => exact execVcmp_canonical h
  | vextr => exact execVextr_canonical h
  | vcvt => exact execVcvt_canonical h
  | vred =>
    exact vecIns_canonical h (fun _ h1 =>
      State.commit_canonical (State.orVflags_canonical (State.writeElems_canonical h1)))
  | vperm | vshuf | vins =>
    exact vecIns_canonical h (fun _ h1 => State.commit_canonical (State.writeElems_canonical h1))
  | vshl | vshr | vsar => exact shiftIns_canonical h
  | vld => exact execVld_canonical h
  | vst => exact execVst_canonical h
  | vldg => exact execVldg_canonical h
  | vsts => exact execVsts_canonical h
  | vclass => exact execVclass_canonical h
  | topen => exact execTopen_canonical h
  | tclose => exact execTclose_canonical h
  | tzero => exact execTzero_canonical h
  | tload | tstore => exact tileMove_canonical h
  | tread => exact execTread_canonical h
  | twrite => exact execTwrite_canonical h
  | midx => exact execMidx_canonical h
  | mma => exact execMma_canonical h
  | mres => exact execMres_canonical h
  | tsave => exact execTsave_canonical h
  | trest => exact execTrest_canonical h
  | tqry => exact execTqry_canonical h
  | mcnt => exact execMcnt_canonical h
  | mmrg => exact execMmrg_canonical h
  | mdrn => exact execMdrn_canonical h
  | mclr => exact execMclr_canonical h
  | mdep => exact execMdep_canonical h
  | cpy | cpy2 | cpyw | cpyr =>
    exact copyIns_canonical h (fun _ h1 =>
      State.rangeThen_canonical h1 (fun _ _ h2 =>
        State.rangeThen_canonical h2 (fun _ _ h3 => State.copyEnd_canonical h3)))
  | cpym => exact execCpym_canonical h
  | fill => exact execFill_canonical h
  | tlbi => exact execTlbi_canonical h
  | probe => exact execProbe_canonical h
  | loadReply => exact execLoadReply_canonical h
  | ldnReply => exact execLdnReply_canonical h
  | storeAcknowledged => exact execStoreAcknowledged_canonical h
  | writeCombiningIdleDrain => exact State.drain_canonical h
  | refreshWindowEnd => exact execRefreshWindowEnd_canonical h
  | vbankPowerDown | vbankWakeEnd | bwcfgWrite | killDiscardEnd | purgeDoneReport | heartbeat | imgctlGo
  | hvpodWrite | hvctlRst | hvctlWiden | lmap | trailerTimeout | ethernetFaultTimeout | curbdieWrite | cpwrWake
  | droopTrip | droopPauseEnd | droopHalvingEnd | phaseLoss | coreIdle | coreRetention | coreGated
  | coreWakeEvent | peerSignalDetected | frequencyRampEnd => show MemoryCanonical _; exact ite_holds h h
  | commandStart => exact execCommandStart_canonical h
  | commandComplete => exact execCommandComplete_canonical h
  | passStop => exact execPassStop_canonical h
  | putArrival => exact execPutArrival_canonical h
  | putReply => exact execPutReply_canonical h
  | putResend => exact execPutResend_canonical h
  | messageArrival => exact execMessageArrival_canonical h
  | sendReply => exact execSendReply_canonical h
  | mailboxReservationLapse => exact execMailboxReservationLapse_canonical h
  | senderRetry => exact execSenderRetry_canonical h
  | spawnMessage => exact execSpawnMessage_canonical h
  | spnrAnswer => exact execSpnrAnswer_canonical h
  | semaDelivery => exact execSemaDelivery_canonical h
  | postDelivery => exact execPostDelivery_canonical h
  | taskQueueRestore => exact execTaskQueueRestore_canonical h
  | outriderPeriod => exact h
  | outriderCommand => exact execOutriderCommand_canonical h
  | migrationArrival => exact execMigrationArrival_canonical h
  | forwardingEntryFree => exact execForwardingEntryFree_canonical h
  | launchWindowWrite => exact execLaunchWindowWrite_canonical h
  | takeLaunchRecord => exact execTakeLaunchRecord_canonical h
  | groupPlace => exact execGroupPlace_canonical h
  | placementFairnessTimeout => exact execPlacementFairnessTimeout_canonical h
  | pendingPlacement => exact execPendingPlacement_canonical h
  | evictionDecision => exact execEvictionDecision_canonical h
  | evictionCommit => exact execEvictionCommit_canonical h
  | imageComplete => exact execImageComplete_canonical h
  | spillToSaveArea => exact execSpillToSaveArea_canonical h
  | restore => exact execRestore_canonical h
  | looseRestoreTimeout => exact execLooseRestoreTimeout_canonical h
  | barrierOperation => exact execBarrierOperation_canonical h
  | barrierWake => exact execBarrierWake_canonical h
  | bwaitTableRetry => exact execBwaitTableRetry_canonical h
  | pageWalk => exact execPageWalk_canonical h
  | missQueueRetry => exact execMissQueueRetry_canonical h
  | shootdownAck => exact execShootdownAck_canonical h
  | moveSubblockCopied => exact execMoveSubblockCopied_canonical h
  | holdQueueRetry => exact execHoldQueueRetry_canonical h
  | bandwidthRefill => exact execBandwidthRefill_canonical h
  | kickWrite => exact execKickWrite_canonical h
  | rheadWrite => exact execRheadWrite_canonical h
  | rdmaWorkRequest => exact execRdmaWorkRequest_canonical h
  | rdmaPacketReceived => exact execRdmaPacketReceived_canonical h
  | boundReceiveSend => exact execBoundReceiveSend_canonical h
  | watchdogExpiry => exact execWatchdogExpiry_canonical h
  | purgeConfirmed => exact execPurgeConfirmed_canonical h
  | zeroingDone => exact execZeroingDone_canonical h
  | functionLevelReset => exact execFunctionLevelReset_canonical h
  | pcieLinkDown => exact execPcieLinkDown_canonical h
  | moduleReset => exact execModuleReset_canonical
  | ctxOpen => exact State.request_canonical h fun _ _ _ _ => serveOpen_canonical
  | ctxClose => exact State.request_canonical h fun _ _ _ _ => serveClose_canonical
  | ctxKill => exact State.request_canonical h fun _ _ _ _ => serveKill_canonical
  | lqCreate => exact State.request_canonical h fun _ _ _ _ => serveLqCreate_canonical
  | lqPause => exact State.request_canonical h fun _ _ _ _ => serveLqPause_canonical
  | lqResume => exact State.request_canonical h fun _ _ _ _ => serveLqResume_canonical
  | lqDelete => exact State.request_canonical h fun _ _ _ _ => serveLqDelete_canonical
  | map => exact State.request_canonical h fun _ _ _ _ => serveMap_canonical
  | unmap => exact State.request_canonical h fun _ _ _ _ => serveUnmap_canonical
  | protect => exact State.request_canonical h fun _ _ _ _ => serveProtect_canonical
  | move => exact State.request_canonical h fun _ _ _ _ => serveMove_canonical
  | wrAlloc => exact State.request_canonical h fun _ _ _ _ => serveWrAlloc_canonical
  | wrSeal => exact State.request_canonical h fun _ _ _ _ => serveWrSeal_canonical
  | wrUnseal => exact State.request_canonical h fun _ _ _ _ => serveWrUnseal_canonical
  | wrFree => exact State.request_canonical h fun _ _ _ _ => serveWrFree_canonical
  | rangeSet => exact State.request_canonical h fun _ _ _ _ => serveRangeSet_canonical
  | pdAlloc => exact State.request_canonical h fun _ _ _ _ => servePdAlloc_canonical
  | pdFree => exact State.request_canonical h fun _ _ _ _ => servePdFree_canonical
  | mrReg => exact State.request_canonical h fun _ _ _ _ => serveMrReg_canonical
  | mrDereg => exact State.request_canonical h fun _ _ _ _ => serveMrDereg_canonical
  | qpCreate => exact State.request_canonical h fun _ _ _ _ => serveQpCreate_canonical
  | qpModify => exact State.request_canonical h fun _ _ _ _ => serveQpModify_canonical
  | qpDestroy => exact State.request_canonical h fun _ _ _ _ => serveQpDestroy_canonical
  | qpBind => exact State.request_canonical h fun _ _ _ _ => serveQpBind_canonical
  | ringRead => exact State.request_canonical h fun _ _ _ _ => serveRingRead_canonical
  | ringRelease => exact State.request_canonical h fun _ _ _ _ => serveRingRelease_canonical
  | budgetSet => exact State.request_canonical h fun _ _ _ _ => serveBudgetSet_canonical
  | gangStop => exact State.request_canonical h fun _ _ _ _ => serveGangStop_canonical
  | gangRelease => exact State.request_canonical h fun _ _ _ _ => serveGangRelease_canonical
  | stopRead => exact State.request_canonical h fun _ _ _ _ => serveStopRead_canonical
  | groupMove => exact State.request_canonical h fun _ _ _ _ => serveGroupMove_canonical
  | quote => exact State.request_canonical h fun _ _ _ _ => serveQuote_canonical
  | extend => exact State.request_canonical h fun _ _ _ _ => serveExtend_canonical
  | ownRelease => exact State.request_canonical h fun _ _ _ _ => serveOwnRelease_canonical
  | ownRecover => exact State.request_canonical h fun _ _ _ _ => serveOwnRecover_canonical
  | ownInstall => exact State.request_canonical h fun _ _ _ _ => serveOwnInstall_canonical
  | imgWrite => exact State.request_canonical h fun _ _ _ _ => serveImgWrite_canonical
  | imgSelect => exact State.request_canonical h fun _ _ _ _ => serveImgSelect_canonical
  | rqtailWrite | rpheadWrite | laneLost | cpwrFreqWrite => show MemoryCanonical _; exact ite_holds h (ite_holds h h)
  | farrierTakeRequest => exact execFarrierTakeRequest_canonical h
  | heartbeatTimeout => exact execHeartbeatTimeout_canonical h
  | hvctlEn => exact execHvctlEn_canonical h
  | trainingEnd => exact execTrainingEnd_canonical h
  | trainingTimeout => exact execTrainingTimeout_canonical h
  | peerSignalLost => exact execPeerSignalLost_canonical h
  | lack => exact execLack_canonical h
  | linkBlock => exact execLinkBlock_canonical h
  | packetForward => exact execPacketForward_canonical h
  | rd | wr | at_ | fe | bar => exact State.onArrival_canonical h (fun _ _ h1 => State.servePacket_canonical h1)
  | put => exact execPut_canonical h
  | msg | spn =>
    exact State.onArrival_canonical h (fun _ _ h1 => State.landItem_canonical (State.takePacket_canonical h1))
  | killPacket => exact execKillPacket_canonical h
  | kack => exact execKack_canonical h
  | rsp => exact execRsp_canonical h
  | rty => exact execRty_canonical h
  | packetTimerExpiry => exact execPacketTimerExpiry_canonical h
  | ethernetEnable | ethernetDisable | ethernetAgreement | ethernetTrained | ethernetNegTimeout | ethernetRetry
  | ethernetFault | ethernetFaultClear => exact ethEvent_canonical h
  | curbDivision => exact execCurbDivision_canonical h
  | fdutyUpdate => exact execFdutyUpdate_canonical h
  | inrushGrant => exact execInrushGrant_canonical h
  | rampEnd => exact execRampEnd_canonical h
  | softError => exact execSoftError_canonical h
  | bufferZeroed => exact execBufferZeroed_canonical h
  | accessAtHome => exact execAccessAtHome_canonical h
  | rocev2Retransmission => exact execRocev2Retransmission_canonical h

/-! ### `Sys2Proof/Machine/HostRead.lean` -/

theorem State.hostWrite_canonical {s w} (h : MemoryCanonical s) : MemoryCanonical (s.hostWrite w) := by
  unfold State.hostWrite
  extract_lets a
  refine ite_holds h ?_
  clear_value a
  split
  · exact ite_holds h h
  · exact ite_holds h h
  · exact h
  · exact h
  · exact h

theorem State.settleHost_canonical {s} (h : MemoryCanonical s) : MemoryCanonical s.settleHost :=
  foldl_holds h (fun _ h1 _ => State.hostWrite_canonical h1)

/-! ### `Sys2Proof/Machine/Settle.lean` -/

theorem State.blockOver_canonical {s t b} (h : MemoryCanonical s) : MemoryCanonical (s.blockOver t b) := by
  cases b with
  | semw k n => exact ite_holds (State.atTid_canonical (State.semwTest_canonical h)) h
  | join g xd pd pe =>
    unfold State.blockOver
    dsimp only
    split
    next e => exact State.atTid_canonical ((State.joinTest_canonical (s := s.at_ t) h).of_eq e)
    · exact h
  | kwait g pd pe =>
    unfold State.blockOver
    dsimp only
    split
    next e => exact ite_holds (State.atTid_canonical ((State.kwaitTest_canonical (s := s.at_ t) h).of_eq e)) h
    · exact h
  | owed x => exact ite_holds h (State.readyAtTid_canonical h)
  | vhold i =>
    unfold State.blockOver
    dsimp only
    split
    · exact ite_holds (State.readyAtTid_canonical h) h
    · exact State.readyAtTid_canonical h
  | lde tgt xd clear va => exact State.sendLde_canonical h
  | bwait tgt phase va rs => exact h
  | recv box => exact h

theorem State.sendOwed_canonical {s t n} (h : MemoryCanonical s) : MemoryCanonical (s.sendOwed t n) := by
  unfold State.sendOwed
  split
  · exact foldl_holds h (fun _ h1 _ => State.sendLdn_canonical h1)
  · exact h

theorem State.settleArrival_canonical {s t} (h : MemoryCanonical s) : MemoryCanonical (s.settleArrival t) :=
  ite_holds (State.readyAtTid_canonical (State.acquireAt_canonical h)) h

theorem State.endWait_canonical {s t} (h : MemoryCanonical s) : MemoryCanonical (s.endWait t) := by
  unfold State.endWait
  split
  · exact State.settleFetch_canonical h
  · exact State.settleArrival_canonical h
  · exact ite_holds (State.readyAtTid_canonical h) h
  · exact ite_holds (State.atTid_canonical (State.tryFinish_canonical h)) (State.sendParts_canonical h)
  · exact ite_holds (State.atTid_canonical (State.putPiecesOf_canonical h)) h
  · exact ite_holds h (State.atTid_canonical (State.barIssue_canonical h))
  · exact State.blockOver_canonical h
  · exact State.blockOver_canonical h
  · exact h

theorem State.settleThread_canonical {s t} (h : MemoryCanonical s) : MemoryCanonical (s.settleThread t) :=
  ite_holds (State.endWait_canonical (State.sendOwed_canonical h))
    (ite_holds (State.sendOwed_canonical h)
      (ite_holds (State.sendOwed_canonical h) (State.wakeCore_canonical (State.sendOwed_canonical h))))

theorem State.settleSavedOwed_canonical {s} (h : MemoryCanonical s) : MemoryCanonical s.settleSavedOwed :=
  foldl_holds h (fun _ h1 _ => State.sendOwed_canonical h1)

theorem State.settleStore_canonical {s id} (h : MemoryCanonical s) : MemoryCanonical (s.settleStore id) := by
  unfold State.settleStore
  split
  · exact ite_holds (State.goHome_canonical h) h
  · exact h

theorem State.settleStores_canonical {s} (h : MemoryCanonical s) : MemoryCanonical s.settleStores :=
  foldl_holds h (fun _ h1 _ => State.settleStore_canonical h1)

theorem State.settleBand_canonical {s} (h : MemoryCanonical s) : MemoryCanonical s.settleBand := h

theorem State.settleFull_canonical {s} (h : MemoryCanonical s) : MemoryCanonical s.settleFull := by
  unfold State.settleFull
  extract_lets
  refine foldl_holds h fun t h1 x => ?_
  split <;> exact h1

theorem State.settleThreads_canonical {s} (h : MemoryCanonical s) : MemoryCanonical s.settleThreads :=
  foldl_holds (State.settleSavedOwed_canonical (State.settleStores_canonical (State.settleFull_canonical h)))
    (fun _ h1 _ => State.settleThread_canonical h1)

theorem State.settleEvict_canonical {s core} (h : MemoryCanonical s) : MemoryCanonical (s.settleEvict core) := by
  unfold State.settleEvict
  split
  · exact h
  · exact ite_holds (State.abandonEvict_canonical h) h

theorem State.settleImages_canonical {s} (h : MemoryCanonical s) : MemoryCanonical s.settleImages := h

theorem State.settleBoxes_canonical {s core} (h : MemoryCanonical s) : MemoryCanonical (s.settleBoxes core) := by
  unfold State.settleBoxes
  refine foldl_holds h fun t h1 x => ?_
  split
  · exact ite_holds h1 (State.serveRecvs_canonical h1)
  · exact h1

theorem State.settleItem_canonical {s id} (h : MemoryCanonical s) : MemoryCanonical (s.settleItem id) := by
  unfold State.settleItem
  split
  · exact ite_holds (State.launchItem_canonical h) h
  · exact h

theorem State.settleGroup_canonical {s name} (h : MemoryCanonical s) : MemoryCanonical (s.settleGroup name) :=
  ite_holds
    (ite_holds (ite_holds (State.setCore_canonical (State.modLaunch_canonical h)) (State.modLaunch_canonical h))
      (State.dropGroup_canonical
        (ite_holds (State.setCore_canonical (State.modLaunch_canonical h)) (State.modLaunch_canonical h)))) h

theorem State.drainLaunch_canonical {s k} (h : MemoryCanonical s) : MemoryCanonical (s.drainLaunch k) := by
  unfold State.drainLaunch
  split
  · exact ite_holds (State.endLaunch_canonical h) h
  · exact h

theorem State.moveLaunch_canonical {s k} (h : MemoryCanonical s) : MemoryCanonical (s.moveLaunch k) := by
  unfold State.moveLaunch
  split
  · exact h
  · extract_lets
    split
    · exact ite_holds (State.endLaunch_canonical h) (ite_holds (State.makeEligible_canonical h) h)
    · exact ite_holds (State.endLaunch_canonical h) h
    · exact ite_holds (State.modLaunch_canonical (State.setLaunch_canonical h))
        (ite_holds (State.setLaunch_canonical h) h)
    · exact h
    · exact h
    · exact h
    · exact h

theorem State.stopEvict_canonical {s core} (h : MemoryCanonical s) : MemoryCanonical (s.stopEvict core) := by
  unfold State.stopEvict
  split
  · exact ite_holds h (State.abandonEvict_canonical h)
  · exact h

theorem State.settlePending_canonical {s k} (h : MemoryCanonical s) : MemoryCanonical (s.settlePending k) := by
  unfold State.settlePending
  split
  · exact h
  · extract_lets
    split
    · exact ite_holds (ite_holds h (State.modLaunch_canonical h))
        (State.stopEvict_canonical (State.modLaunch_canonical (ite_holds h (State.modLaunch_canonical h))))
    · exact ite_holds h (State.modLaunch_canonical h)

theorem State.settleLaunch_canonical {s k} (h : MemoryCanonical s) : MemoryCanonical (s.settleLaunch k) :=
  State.settlePending_canonical (State.drainLaunch_canonical (State.moveLaunch_canonical h))

theorem State.settleShapes_canonical {s} (h : MemoryCanonical s) : MemoryCanonical s.settleShapes := h

theorem State.settleCtx_canonical {s c} (h : MemoryCanonical s) : MemoryCanonical (s.settleCtx c) :=
  ite_holds (State.kill_canonical h) (ite_holds (State.closeDone_canonical h) h)

theorem State.settleRegion_canonical {s base} (h : MemoryCanonical s) : MemoryCanonical (s.settleRegion base) := by
  unfold State.settleRegion
  split
  · split
    · exact ite_holds h (State.replyReady_canonical h)
    · exact h
  · exact h

theorem State.journalRest_canonical {s} (h : MemoryCanonical s) : MemoryCanonical s.journalRest := h

theorem State.settle_canonical {s} (h : MemoryCanonical s) : MemoryCanonical s.settle := by
  unfold State.settle
  extract_lets s1 s2 s3 s4 s5 s6 s7 s8 s9 s10 s11
  have h1 : MemoryCanonical s1 := foldl_holds h fun _ h _ => State.settleGroup_canonical h
  have h2 : MemoryCanonical s2 := foldl_holds h1 fun _ h _ => State.settleLaunch_canonical h
  have h3 : MemoryCanonical s3 := State.settleBand_canonical (State.settleThreads_canonical h2)
  have h4 : MemoryCanonical s4 := foldl_holds h3 fun _ h _ => State.settleEvict_canonical h
  have h5 : MemoryCanonical s5 := foldl_holds h4 fun _ h _ => State.settleItem_canonical h
  have h6 : MemoryCanonical s6 := foldl_holds h5 fun _ h _ => State.settleBoxes_canonical h
  have h7 : MemoryCanonical s7 := State.settleShapes_canonical h6
  have h8 : MemoryCanonical s8 := foldl_holds h7 fun _ h _ => State.writeSaves_canonical h
  have h9 : MemoryCanonical s9 := State.settleImages_canonical h8
  have h10 : MemoryCanonical s10 := foldl_holds (State.holdDogs_canonical h9) fun _ h _ => State.settleCtx_canonical h
  have h11 : MemoryCanonical s11 := foldl_holds h10 fun _ h _ => State.settleRegion_canonical h
  exact State.journalRest_canonical (State.settleCheck_canonical (State.settleHost_canonical h11))

theorem settled_canonical {o} (h : NextCanonical o) : NextCanonical (settled o) := by
  cases o with
  | next s => exact State.settle_canonical h
  | fault _ => exact trivial
  | refused _ => exact trivial

theorem stepIssue_canonical {s t half} (h : MemoryCanonical s) : NextCanonical (stepIssue s t half) := by
  unfold stepIssue
  refine ite_holds ?_ trivial
  split
  next e => exact State.settle_canonical ((State.prepare_canonical (s := s.at_ t) h).of_eq e)
  next e => exact settled_canonical (exec_canonical ((State.prepare_canonical (s := s.at_ t) h).of_eq e) _)

theorem stepEvent_canonical {s i} (h : MemoryCanonical s) : NextCanonical (stepEvent s i) := by
  unfold stepEvent
  exact ite_holds (P := NextCanonical) h (settled_canonical (exec_canonical h i))

theorem step_canonical {s} (h : MemoryCanonical s) : NextCanonical (step s) := by
  unfold step
  split
  · exact stepIssue_canonical h
  · exact stepEvent_canonical h
  · exact settled_canonical (exec_canonical (s := s.nextTurn) h _)

/-- Settles O4: memory changes only by stores and zeroing, which keep the canonical form (log 3), and every function that a step is made
of changes it through them alone. -/
theorem memoryCanonicalKept : Obligations.MemoryCanonicalKept := by
  unfold Obligations.MemoryCanonicalKept
  intro s t h e
  exact (step_canonical h).of_eq e

end Sys2Proof.Machine
end

section
/-! SUPPORT. Decoding an encoded instruction (01_lines R37 to R49). The fields of a word in each of the five formats are read off the
word (`packS_fields` and its companions), the codes of a field name what they encode, and so `parse` finds the instruction again. -/

namespace Sys2Proof.Laws

open Sys2Proof

/-! ### Fields -/

/-- The `k` bits of `w` from bit `o` up are `f`. -/
abbrev HasField {n k : Nat} (w : BitVec n) (o : Nat) (f : BitVec k) : Prop := w.extractLsb' o k = f

theorem HasField.self {n : Nat} (w : BitVec n) : HasField w 0 w := BitVec.extractLsb'_eq_self

/-- A field of a field is a field. -/
theorem HasField.sub {n k m o p : Nat} {w : BitVec n} {f : BitVec m} {a : BitVec k} (h : HasField w o f) (ha : HasField f p a)
    (hp : p + k ≤ m) : HasField w (o + p) a := by
  rw [← ha, ← h]
  ext i hi
  have hpi : p + i < m := Nat.lt_of_lt_of_le (Nat.add_lt_add_left hi p) hp
  simp [hpi, Nat.add_assoc]

/-- A field made of two parts is the two parts, one above the other. -/
theorem HasField.split {n k m o : Nat} {w : BitVec n} {a : BitVec k} {b : BitVec m} (h : HasField w o (a ++ b)) :
    HasField w (o + m) a ∧ HasField w o b :=
  ⟨h.sub BitVec.extractLsb'_append_eq_left (Nat.add_comm m k).le, h.sub BitVec.extractLsb'_append_eq_right (by simp)⟩

/-- A bit of a field is a bit of the word. -/
theorem HasField.bit {n m o : Nat} {w : BitVec n} {f : BitVec m} (h : HasField w o f) (i : Nat) (hi : i < m) :
    w.getLsbD (o + i) = f.getLsbD i := by
  rw [← h]; simp [hi]

/-- A field of one bit that holds a condition. -/
theorem HasField.flag {n o : Nat} {w : BitVec n} {c : Bool} (h : HasField w o (BitVec.ofBool c)) : w.getLsbD o = c := by
  simpa using h.bit 0 (by decide)

/-! ### The fields of the five formats -/

/-- What the instructions of format S read off a word (R39), but the parts of MOD and IMM. -/
structure RegsS where
  (g : Guard) (u : Bool) (fn : BitVec 8) (xd xa xb : XReg) (src : Src) (pa pb pd pe : PReg) (mod : BitVec 5) (imm : BitVec 48)

/-- The fields of a word read in format S. -/
def regsS (w : Slot96) : RegsS :=
  ⟨guardOf w, fU w, fFn w, fX75 w, fX71 w, fX67 w, fSrc w, fPa w, fPb w, fPd w, fPe w, fMod w, fImm48 w⟩

/-- What the instructions of format V read off a word (R43), but the parts of FN and IMM. -/
structure RegsV where
  (g : Guard) (fn : BitVec 8) (vd va vb vc : VIdx) (ty : BitVec 4) (pd pe : PReg) (rm : Rm) (xa xb : XReg) (imm : BitVec 32)

/-- The fields of a word read in format V. -/
def regsV (w : Slot96) : RegsV :=
  ⟨guardOf w, fFn w, fVd w, fVa w, fVb w, fVc w, fTy w, fVPd w, fVPe w, fRm w, fVXa w, fVXb w, fImm32 w⟩

/-- What the instructions of format M read off a word (R45), but the parts of its low 48 bits. -/
structure RegsM where
  (g : Guard) (xa xb xc : XReg) (done : Done) (tl : TileNo) (bk : Bool) (vi : VIdx) (sz : BitVec 4)

/-- The fields of a word read in format M. -/
def regsM (w : Slot96) : RegsM :=
  ⟨guardOf w, fX75 w, fX71 w, fX67 w, fDone w, fTl w, fBk w, fVc w, fTy w⟩

section
variable {w : Slot96} {g : Guard} {op fn : BitVec 8}

/-- The fields of a word of format S (R39); the second source is one more reading of it. -/
theorem packS_fields {xd xa xb : BitVec 4} {pd pe : BitVec 3} {is : BitVec 1} {mod : BitVec 5} {imm : BitVec 48}
    (hw : packS g op fn xd xa xb pd pe is mod imm = w) :
    HasField w 88 op ∧ HasField w 57 is ∧ HasField w 58 pe ∧ regsS w = ⟨g, fn.getLsbD 0, fn, xd.toFin, xa.toFin, xb.toFin, fSrc w,
      (xa.extractLsb' 0 3).toFin, (xb.extractLsb' 0 3).toFin, pd.toFin, pe.toFin, mod, imm⟩ := by
  have h : HasField w 0 (packS g op fn xd xa xb pd pe is mod imm) := hw ▸ .self _
  obtain ⟨h, himm⟩ := HasField.split h
  obtain ⟨h, -⟩ := HasField.split h
  obtain ⟨h, hmod⟩ := HasField.split h
  obtain ⟨h, his⟩ := HasField.split h
  obtain ⟨h, hpe⟩ := HasField.split h
  obtain ⟨h, hpd⟩ := HasField.split h
  obtain ⟨h, hxb⟩ := HasField.split h
  obtain ⟨h, hxa⟩ := HasField.split h
  obtain ⟨h, hxd⟩ := HasField.split h
  obtain ⟨h, hfn⟩ := HasField.split h
  obtain ⟨h, -⟩ := HasField.split h
  have hg : guardOf w = g := hw ▸ packS_guard ..
  have hu : fU w = fn.getLsbD 0 := hfn.bit 0 (by decide)
  have hpa : w.extractLsb' 68 3 = xa.extractLsb' 0 3 := HasField.sub (p := 0) hxa rfl (by decide)
  have hpb : w.extractLsb' 64 3 = xb.extractLsb' 0 3 := HasField.sub (p := 0) hxb rfl (by decide)
  refine ⟨(HasField.split h).1, his, hpe, ?_⟩
  simp only [regsS, hg, hu, fFn, hfn, fX75, hxd, fX71, hxa, fX67, hxb, fPa, hpa, fPb, hpb, fPd, hpd, fPe, hpe, fMod, hmod, fImm48, himm]

/-- The fields of a word of format L (R40). -/
theorem packL_fields {xd : BitVec 4} {imm : BitVec 64} (hw : packL g op fn xd imm = w) :
    HasField w 88 op ∧ guardOf w = g ∧ fX75 w = xd.toFin ∧ HasField w 0 imm := by
  have h : HasField w 0 (packL g op fn xd imm) := hw ▸ .self _
  obtain ⟨h, himm⟩ := HasField.split h
  obtain ⟨h, -⟩ := HasField.split h
  obtain ⟨h, hxd⟩ := HasField.split h
  obtain ⟨h, -⟩ := HasField.split h
  obtain ⟨h, -⟩ := HasField.split h
  exact ⟨(HasField.split h).1, hw ▸ packL_guard .., congrArg _ hxd, himm⟩

/-- The fields of a word of format B (R41). -/
theorem packB_fields {fn : BitVec 4} {an : BitVec 2} {xa : BitVec 4} {loff : BitVec 42} {ts : BitVec 3}
    (hw : packB g op fn an xa loff ts = w) :
    HasField w 88 op ∧ guardOf w = g ∧ HasField w 80 fn ∧ HasField w 78 an ∧ HasField w 74 xa ∧ HasField w 22 loff
      ∧ HasField w 19 ts := by
  have h : HasField w 0 (packB g op fn an xa loff ts) := hw ▸ .self _
  obtain ⟨h, -⟩ := HasField.split h
  obtain ⟨h, hts⟩ := HasField.split h
  obtain ⟨h, hloff⟩ := HasField.split h
  obtain ⟨h, -⟩ := HasField.split h
  obtain ⟨h, hxa⟩ := HasField.split h
  obtain ⟨h, han⟩ := HasField.split h
  obtain ⟨h, hfn⟩ := HasField.split h
  obtain ⟨h, -⟩ := HasField.split h
  exact ⟨(HasField.split h).1, hw ▸ packB_guard .., hfn, han, hxa, hloff, hts⟩

/-- The fields of a word of format V (R43). -/
theorem packV_fields {vd va vb vc : BitVec 6} {ty : BitVec 4} {pd pe : BitVec 3} {rm : BitVec 2} {xa xb : BitVec 4}
    {imm : BitVec 32} (hw : packV g op fn vd va vb vc ty pd pe rm xa xb imm = w) :
    HasField w 88 op ∧ regsV w =
      ⟨g, fn, vd.toFin, va.toFin, vb.toFin, vc.toFin, ty, pd.toFin, pe.toFin, rmOf rm, xa.toFin, xb.toFin, imm⟩ := by
  have h : HasField w 0 (packV g op fn vd va vb vc ty pd pe rm xa xb imm) := hw ▸ .self _
  obtain ⟨h, himm⟩ := HasField.split h
  obtain ⟨h, hxb⟩ := HasField.split h
  obtain ⟨h, hxa⟩ := HasField.split h
  obtain ⟨h, hrm⟩ := HasField.split h
  obtain ⟨h, hpe⟩ := HasField.split h
  obtain ⟨h, hpd⟩ := HasField.split h
  obtain ⟨h, hty⟩ := HasField.split h
  obtain ⟨h, hvc⟩ := HasField.split h
  obtain ⟨h, hvb⟩ := HasField.split h
  obtain ⟨h, hva⟩ := HasField.split h
  obtain ⟨h, hvd⟩ := HasField.split h
  obtain ⟨h, hfn⟩ := HasField.split h
  obtain ⟨h, -⟩ := HasField.split h
  have hg : guardOf w = g := hw ▸ packV_guard ..
  refine ⟨(HasField.split h).1, ?_⟩
  simp only [regsV, hg, fFn, hfn, fVd, hvd, fVa, hva, fVb, hvb, fVc, hvc, fTy, hty, fVPd, hpd, fVPe, hpe, fRm, hrm, fVXa, hxa, fVXb, hxb,
    fImm32, himm]

/-- The fields of a word of format M (R45). -/
theorem packM_fields {xa xb xc : BitVec 4} {ev tl : BitVec 2} {bk wt : BitVec 1} {vi : BitVec 6} {sz : BitVec 4} {low : BitVec 48}
    (hw : packM g op fn xa xb xc ev tl bk wt vi sz low = w) :
    HasField w 88 op ∧ HasField w 58 wt ∧ HasField w 0 low
      ∧ regsM w = ⟨g, xa.toFin, xb.toFin, xc.toFin, doneOf ev wt, tl.toFin, bk.getLsbD 0, vi.toFin, sz⟩ := by
  have h : HasField w 0 (packM g op fn xa xb xc ev tl bk wt vi sz low) := hw ▸ .self _
  obtain ⟨h, hlow⟩ := HasField.split h
  obtain ⟨h, hsz⟩ := HasField.split h
  obtain ⟨h, hvi⟩ := HasField.split h
  obtain ⟨h, hwt⟩ := HasField.split h
  obtain ⟨h, hbk⟩ := HasField.split h
  obtain ⟨h, htl⟩ := HasField.split h
  obtain ⟨h, hev⟩ := HasField.split h
  obtain ⟨h, hxc⟩ := HasField.split h
  obtain ⟨h, hxb⟩ := HasField.split h
  obtain ⟨h, hxa⟩ := HasField.split h
  obtain ⟨h, -⟩ := HasField.split h
  obtain ⟨h, -⟩ := HasField.split h
  have hg : guardOf w = g := hw ▸ packM_guard ..
  have hbk : fBk w = bk.getLsbD 0 := hbk.bit 0 (by decide)
  refine ⟨(HasField.split h).1, hwt, hlow, ?_⟩
  simp only [regsM, hg, fX75, hxa, fX71, hxb, fX67, hxc, fDone, hev, hwt, fTl, htl, hbk, fVc, hvi, fTy, hsz]

end

/-! ### Codes -/

@[simp] theorem tyOf_tyCode (t : Ty) : tyOf (tyCode t) = some t := by cases t <;> rfl
@[simp] theorem rmOf_rmCode (r : Rm) : rmOf (rmCode r) = r := by cases r <;> rfl
@[simp] theorem scpOf_scpCode (s : Scope) : scpOf (scpCode s) = some s := by cases s <;> rfl
@[simp] theorem orderOf_orderCode (o : Order) : orderOf (orderCode o) = some o := by
  obtain ⟨ord, scp⟩ := o
  cases ord <;> cases scp <;> rfl
@[simp] theorem annulOf_annulCode (a : Annul) : annulOf (annulCode a) = some a := by cases a <;> rfl
@[simp] theorem evOf_evCode : ∀ e : EvSel, evOf (evCode e) = some e := by decide
@[simp] theorem ldwOf_ldwCode (l : LdW) : ldwOf (ldwCode l) = some l := by cases l <;> rfl
@[simp] theorem stwOf_stwCode (l : StW) : stwOf (stwCode l) = some l := by cases l <;> rfl
@[simp] theorem cmpOf_cmpCode (c : CmpCond) : cmpOf (cmpCode c) = some c := by cases c <;> rfl
@[simp] theorem sextOf_sextCode (s : SextW) : sextOf (sextCode s) = some s := by cases s <;> rfl
@[simp] theorem anyOf_anyCode (k : AnyKind) : anyOf (anyCode k) = some k := by cases k <;> rfl
@[simp] theorem vcondOf_vcondCode (c : VCond) : vcondOf (vcondCode c) = some c := by cases c <;> rfl
@[simp] theorem vredOf_vredCode (o : VRedOp) : vredOf (vredCode o) = some o := by cases o <;> rfl
@[simp] theorem tfmtOf_tfmtCode (f : TFmt) : tfmtOf (tfmtCode f) = some f := by cases f <;> rfl
@[simp] theorem kOf_kCode (k : KCode) : kOf (kCode k) = some k := by cases k <;> rfl
@[simp] theorem cpyrOf_cpyrCode (o : CpyrOp) : cpyrOf (cpyrCode o) = some o := by cases o <;> rfl
@[simp] theorem reachOf_reachCode (r : Reach) : reachOf (reachCode r) = some r := by cases r <;> rfl
@[simp] theorem permOf_permCode (a : Perm) : permOf (permCode a) = some a := by cases a <;> rfl
@[simp] theorem doneOf_doneEv_doneWt (d : Done) : doneOf (doneEv d) (doneWt d) = d := by cases d <;> rfl

/-! ### Operands that take more than one field -/

/-- The predicate in the low bits of a register field (R262). -/
@[simp] theorem toFin_pxf (p : PReg) : ((pxf p).extractLsb' 0 3).toFin = p :=
  congrArg BitVec.toFin BitVec.extractLsb'_append_eq_right

/-- The flag .u, .8 or the like in the last bit of FN (R47). -/
theorem append_flag {n : Nat} (a : BitVec n) (c : Bool) : (a ++ BitVec.ofBool c).getLsbD 0 = c :=
  (HasField.split (HasField.self (a ++ BitVec.ofBool c))).2.flag

section
variable {w : Slot96}

/-- The second source (R39). -/
theorem fSrc_of_fields {b : Src} (hx : fX67 w = (srcXb b).toFin) (hi : HasField w 57 (srcIs b)) (hm : fImm48 w = srcImm b) :
    fSrc w = b := by
  have h57 : w.getLsbD 57 = (srcIs b).getLsbD 0 := hi.bit 0 (by decide)
  unfold fSrc
  rw [h57]
  cases b with
  | reg x => simp [srcIs, hx, srcXb]
  | imm v => simp [srcIs, hm, srcImm]

/-- TSLOT (R41). -/
theorem fTs_of_field {ts : Fin 5} (h : HasField w 19 (BitVec.ofNat 3 ts.val)) : fTs w = some ts := by
  have : (w.extractLsb' 19 3).toNat = ts.val := by
    rw [h, BitVec.toNat_ofNat]
    exact Nat.mod_eq_of_lt (ts.isLt.trans (by decide))
  simp [fTs, this]

/-- The modes of VSHUF (R317). -/
theorem fShuf_of_field {m : Shuf} (h : HasField w 0 (shufImm m)) : fShuf w = some m := by
  cases m with
  | zipl | ziph | even | odd =>
    have hm := h.sub (k := 4) (p := 0) rfl (by decide)
    unfold fShuf
    rw [hm]
    rfl
  | rot k =>
    obtain ⟨h, hm⟩ := HasField.split (show HasField w 0 (0#17 ++ BitVec.ofFin (w := 7) k ++ 0#4 ++ 4#4 : BitVec 32) from h)
    obtain ⟨h, -⟩ := HasField.split h
    unfold fShuf
    rw [hm]
    exact congrArg (fun x : BitVec 7 => some (Shuf.rot x.toFin)) (HasField.split h).2

/-- What CB, NBM, the layout bit and the row bit of format M hold (R337). -/
structure FieldsRange (w : Slot96) (cb nbm : BitVec 4) (lay row : BitVec 1) : Prop where
  hcb : fCb w = cb.toFin
  hnbm : HasField w 40 nbm
  hlay : HasField w 39 lay
  hrow : HasField w 38 row

theorem encRange_fields {cb nbm : BitVec 4} {lay row : BitVec 1} (h : HasField w 0 (encRange cb nbm lay row)) :
    FieldsRange w cb nbm lay row := by
  obtain ⟨h, -⟩ := HasField.split (show HasField w 0 (cb ++ nbm ++ lay ++ row ++ 0#38) from h)
  obtain ⟨h, hrow⟩ := HasField.split h
  obtain ⟨h, hlay⟩ := HasField.split h
  obtain ⟨hcb, hnbm⟩ := HasField.split h
  exact ⟨congrArg _ hcb, hnbm, hlay, hrow⟩

end

/-! ### The instruction of a word -/

/-- The instruction of a word with opcode `op`. -/
def parseOp (op : Nat) (w : Slot96) : Option Instr :=
  if op < 0x30 then parseScalar op w
  else if op < 0x50 then parseMem op w
  else if op < 0x60 then parseFlow op w
  else if op < 0x80 then parseThread op w
  else if op < 0xB0 then parseVector op w
  else parseEngine op w

theorem parse_of_op {w : Slot96} {op : BitVec 8} {i : Instr} (h : HasField w 88 op) (hi : parseOp op.toNat w = some i) :
    parse w = some i := by
  rw [← hi, ← h]; rfl

/-- No word is the encoding of an instruction that has none. -/
theorem parse_of_none {w : Slot96} {i : Instr} (h : none = some w) : parse w = some i := nomatch h

/-! For an instruction of each format: when its arm of `parse` is `f` of what the format's fields hold, and `f` of what was encoded in
them is the instruction, then the instruction's word parses as it. -/

section
variable {w : Slot96} {g : Guard} {op fn : BitVec 8} {i : Instr}

theorem parse_of_packS {xd xa xb : BitVec 4} {pd pe : BitVec 3} {is : BitVec 1} {mod : BitVec 5} {imm : BitVec 48}
    (f : RegsS → Option Instr)
    (hi : HasField w 52 mod → HasField w 0 imm → some i = f ⟨g, fn.getLsbD 0, fn, xd.toFin, xa.toFin, xb.toFin, fSrc w,
      (xa.extractLsb' 0 3).toFin, (xb.extractLsb' 0 3).toFin, pd.toFin, pe.toFin, mod, imm⟩ := by intros; rfl)
    (hf : parseOp op.toNat w = f (regsS w) := by rfl) (h : some (packS g op fn xd xa xb pd pe is mod imm) = some w) :
    parse w = some i := by
  obtain ⟨hop, -, -, hr⟩ := packS_fields (Option.some.inj h)
  exact parse_of_op hop (hf.trans ((congrArg f hr).trans (hi (congrArg RegsS.mod hr) (congrArg RegsS.imm hr)).symm))

theorem parse_of_encSrc {xd xa : BitVec 4} {b : Src} {pd pe : BitVec 3} {mod : BitVec 5} (f : RegsS → Option Instr)
    (hi : HasField w 52 mod → some i = f ⟨g, fn.getLsbD 0, fn, xd.toFin, xa.toFin, (srcXb b).toFin, b,
      (xa.extractLsb' 0 3).toFin, ((srcXb b).extractLsb' 0 3).toFin, pd.toFin, pe.toFin, mod, srcImm b⟩ := by intros; rfl)
    (hf : parseOp op.toNat w = f (regsS w) := by rfl) (h : some (encSrc g op fn xd xa b pd pe mod) = some w) : parse w = some i := by
  obtain ⟨hop, his, -, hr⟩ := packS_fields (Option.some.inj h)
  rw [fSrc_of_fields (congrArg RegsS.xb hr) his (congrArg RegsS.imm hr)] at hr
  exact parse_of_op hop (hf.trans ((congrArg f hr).trans (hi (congrArg RegsS.mod hr)).symm))

/-- An atomic other than ACAS: PE says whether XD takes the old value (R278). -/
theorem parse_of_encAtom {o : Order} {d : ADest} {xa xb : XReg} {off : BitVec 48}
    (f : Guard → Bool → Order → ADest → XReg → XReg → BitVec 48 → Instr)
    (hi : HasField w 76 fn → i = f g (fn.getLsbD 0) o d xa xb off)
    (hf : parseOp op.toNat w = (orderOf (regsS w).mod).bind fun o => (fADest w).map fun d =>
      f (regsS w).g (regsS w).u o d (regsS w).xa (regsS w).xb (regsS w).imm := by rfl)
    (h : some (encAtom g op fn o d xa xb off) = some w) : parse w = some i := by
  cases d with
  | res xd =>
    obtain ⟨hop, -, hpe, hr⟩ := packS_fields (Option.some.inj h)
    have hd : fADest w = some (.res xd) := by
      unfold fADest
      rw [hpe]
      exact congrArg (fun r : RegsS => some (ADest.res r.xd)) hr
    rw [hr, orderOf_orderCode, hd] at hf
    exact parse_of_op hop (hf.trans (congrArg some (hi (congrArg RegsS.fn hr)).symm))
  | drop =>
    obtain ⟨hop, -, hpe, hr⟩ := packS_fields (Option.some.inj h)
    have hd : fADest w = some .drop := by
      unfold fADest
      rw [hpe]
      rfl
    rw [hr, orderOf_orderCode, hd] at hf
    exact parse_of_op hop (hf.trans (congrArg some (hi (congrArg RegsS.fn hr)).symm))

theorem parse_of_packB {fn : BitVec 4} {an : BitVec 2} {xa : BitVec 4} {loff : BitVec 42} {ts : BitVec 3}
    (f : Guard → BitVec 4 → BitVec 2 → XReg → BitVec 42 → Option Instr) (hi : HasField w 19 ts → some i = f g fn an xa.toFin loff)
    (hf : parseOp op.toNat w = f (guardOf w) (w.extractLsb' 80 4) (w.extractLsb' 78 2) (w.extractLsb' 74 4).toFin
      (w.extractLsb' 22 42) := by rfl) (h : some (packB g op fn an xa loff ts) = some w) : parse w = some i := by
  obtain ⟨hop, hg, hfn, han, hxa, hloff, hts⟩ := packB_fields (Option.some.inj h)
  rw [hg, hfn, han, hxa, hloff] at hf
  exact parse_of_op hop (hf.trans (hi hts).symm)

theorem parse_of_packV {vd va vb vc : BitVec 6} {ty : BitVec 4} {pd pe : BitVec 3} {rm : BitVec 2} {xa xb : BitVec 4} {imm : BitVec 32}
    (f : RegsV → Option Instr)
    (hi : HasField w 76 fn → HasField w 0 imm → some i = f ⟨g, fn, vd.toFin, va.toFin, vb.toFin, vc.toFin, ty, pd.toFin, pe.toFin,
      rmOf rm, xa.toFin, xb.toFin, imm⟩ := by intros; rfl)
    (hf : parseOp op.toNat w = f (regsV w) := by rfl) (h : some (packV g op fn vd va vb vc ty pd pe rm xa xb imm) = some w) :
    parse w = some i := by
  obtain ⟨hop, hr⟩ := packV_fields (Option.some.inj h)
  exact parse_of_op hop (hf.trans ((congrArg f hr).trans (hi (congrArg RegsV.fn hr) (congrArg RegsV.imm hr)).symm))

/-- A vector instruction whose arm takes the type that TY names. -/
theorem parse_of_packV_ty {vd va vb vc : BitVec 6} {t : Ty} {pd pe : BitVec 3} {rm : BitVec 2} {xa xb : BitVec 4} {imm : BitVec 32}
    (f : Ty → RegsV → Option Instr)
    (hi : HasField w 76 fn → HasField w 0 imm → some i = f t ⟨g, fn, vd.toFin, va.toFin, vb.toFin, vc.toFin, tyCode t, pd.toFin,
      pe.toFin, rmOf rm, xa.toFin, xb.toFin, imm⟩ := by intros; rfl)
    (hf : parseOp op.toNat w = (tyOf (regsV w).ty).bind fun ty => f ty (regsV w) := by rfl) :
    some (packV g op fn vd va vb vc (tyCode t) pd pe rm xa xb imm) = some w → parse w = some i :=
  parse_of_packV (fun r => (tyOf r.ty).bind fun ty => f ty r) (fun hfn himm => by simp [hi hfn himm]) hf

/-- A vector instruction whose arm takes the type that TY names and the rounding mode that RM names. -/
theorem parse_of_packV_rm {vd va vb vc : BitVec 6} {t : Ty} {m : Rm} {pd pe : BitVec 3} {xa xb : BitVec 4} {imm : BitVec 32}
    (f : Ty → RegsV → Option Instr)
    (hi : some i = f t ⟨g, fn, vd.toFin, va.toFin, vb.toFin, vc.toFin, tyCode t, pd.toFin, pe.toFin, m, xa.toFin, xb.toFin, imm⟩
      := by rfl)
    (hf : parseOp op.toNat w = (tyOf (regsV w).ty).bind fun ty => f ty (regsV w) := by rfl) :
    some (packV g op fn vd va vb vc (tyCode t) pd pe (rmCode m) xa xb imm) = some w → parse w = some i :=
  parse_of_packV_ty f (fun _ _ => by rw [rmOf_rmCode]; exact hi) hf

/-- A vector shift: bit 31 says whether the shift is a register or a number (R313). -/
theorem parse_of_encShift {t : Ty} {vd va : VIdx} {sh : VShift} (f : Guard → Ty → VIdx → VIdx → VShift → Instr)
    (hf : parseOp op.toNat w = (tyOf (regsV w).ty).bind fun ty => some (f (regsV w).g ty (regsV w).vd (regsV w).va (fShift w)) := by
      rfl) (h : some (encShift g op t vd va sh) = some w) : parse w = some (f g t vd va sh) := by
  cases sh with
  | reg vb =>
    obtain ⟨hop, hr⟩ := packV_fields (Option.some.inj h)
    have himm : HasField w 0 0#32 := congrArg RegsV.imm hr
    have hsh : fShift w = .reg vb := by
      unfold fShift
      rw [himm.bit 31 (by decide), show fVb w = vb from congrArg RegsV.vb hr]
      rfl
    rw [hr, tyOf_tyCode, hsh] at hf
    exact parse_of_op hop hf
  | imm n =>
    obtain ⟨hop, hr⟩ := packV_fields (Option.some.inj h)
    have himm : HasField w 0 (1#1 ++ 0#26 ++ BitVec.ofFin (w := 5) n) := congrArg RegsV.imm hr
    have hsh : fShift w = .imm n := by
      unfold fShift
      rw [(HasField.split himm.split.1).1.bit 0 (by decide), himm.split.2]
      rfl
    rw [hr, tyOf_tyCode, hsh] at hf
    exact parse_of_op hop hf

theorem parse_of_packM {xa xb xc : BitVec 4} {ev tl : BitVec 2} {bk wt : BitVec 1} {vi : BitVec 6} {sz : BitVec 4} {low : BitVec 48}
    (f : RegsM → Option Instr)
    (hi : HasField w 58 wt → HasField w 0 low → some i = f ⟨g, xa.toFin, xb.toFin, xc.toFin, doneOf ev wt, tl.toFin, bk.getLsbD 0,
      vi.toFin, sz⟩ := by intros; rfl)
    (hf : parseOp op.toNat w = f (regsM w) := by rfl) (h : some (packM g op fn xa xb xc ev tl bk wt vi sz low) = some w) :
    parse w = some i := by
  obtain ⟨hop, hwt, hlow, hr⟩ := packM_fields (Option.some.inj h)
  exact parse_of_op hop (hf.trans ((congrArg f hr).trans (hi hwt hlow).symm))

/-- A copy command (R375). -/
theorem parse_of_encCopy {o : CopyOpts} {xa xb xc : XReg} {sz : BitVec 4} {msk : BitVec 8}
    (f : CopyOpts → RegsM → Option Instr)
    (hi : HasField w 21 msk → some i = f o ⟨g, xa, xb, xc, doneOf (doneEv o.done) (doneWt o.done), 0, false, 0, sz⟩ := by intros; rfl)
    (hf : parseOp op.toNat w = f (fCopy w) (regsM w) := by rfl) (h : some (encCopy g op o xa xb xc sz msk) = some w) :
    parse w = some i := by
  obtain ⟨hop, -, hlow, hr⟩ := packM_fields (Option.some.inj h)
  obtain ⟨hlow, -⟩ := HasField.split hlow
  obtain ⟨hlow, hmsk⟩ := HasField.split hlow
  obtain ⟨hlow, hfull⟩ := HasField.split hlow
  obtain ⟨hbn, hbar⟩ := HasField.split hlow
  have hcopy : fCopy w = o := by
    unfold fCopy
    rw [show fDone w = _ from congrArg RegsM.done hr, hbn.flag, hbar, hfull.flag, doneOf_doneEv_doneWt]
    obtain ⟨d, _ | b, full⟩ := o <;> rfl
  exact parse_of_op hop (hf.trans ((congrArg₂ f hcopy hr).trans (hi hmsk).symm))

end

/-- The test of a branch whose FN is `k`. -/
def brTestOf (k : Nat) (xa : XReg) : Option BrTest :=
  match k with
  | 0 => some .always | 1 => some (.z xa) | 2 => some (.nz xa) | 3 => some (.neg xa) | 4 => some (.nneg xa)
  | _ => none

/-- A branch, in all its tests. -/
theorem parse_br {g : Guard} {t : BrTest} {an : Annul} {loff : BitVec 42} {ts : Fin 5} {w : Slot96} {fn xa : BitVec 4}
    (ht : brTestOf fn.toNat xa.toFin = some t) (h : some (packB g 0x50 fn (annulCode an) xa loff (BitVec.ofNat 3 ts.val)) = some w) :
    parse w = some (.br g t an loff ts) :=
  parse_of_packB (fun g fn k xa loff => (annulOf k).bind fun a => (fTs w).bind fun ts =>
    (brTestOf fn.toNat xa).map fun t => .br g t a loff ts) (fun hts => by simp [fTs_of_field hts, ht]) rfl h

/-- The instruction with OP 0x6A and MOD `k`. -/
def chanOf (k : Nat) (r : RegsS) : Option Instr :=
  match k with
  | 0 => some (.chanInstall r.g r.xd r.pd r.pe r.xa r.src)
  | 1 => some (.chanBlock r.g r.xd r.pd r.pe r.src)
  | 2 => some (.chanUnblock r.g r.xd r.pd r.pe r.src)
  | 3 => some (.chanRemove r.g r.xd r.pd r.pe r.src)
  | 4 => some (.chanQuery r.g r.xd r.pd r.pe r.src)
  | _ => none

/-- The instruction with OP 0x77 and FN `k`. -/
def mboxOf (k : Nat) (r : RegsS) : Option Instr :=
  match k with
  | 0 => some (.mboxOpen r.g r.xd r.pd r.pe r.xa r.src)
  | 1 => some (.mboxClose r.g r.xd r.pd r.pe r.src)
  | 2 => some (.mboxQuery r.g r.xd r.pd r.pe r.src)
  | _ => none

/-- The instruction with OP 0xE8: bits 54:52 of its word are `k`. -/
def tlbiOf (k : Nat) (g : Guard) (a : Reach) (xa : XReg) : Option Instr :=
  match k with
  | 0 => some (.tlbi g a (.page xa))
  | 1 => some (.tlbi g a .ctx)
  | 2 => some (.tlbi g a .all)
  | _ => none

/-- A TLBI, in all its forms. -/
theorem parse_tlbi {g : Guard} {a : Reach} {m : TlbiMode} {w : Slot96} {xa : BitVec 4} {k : BitVec 3}
    (hk : some (.tlbi g a m) = tlbiOf k.toNat g a xa.toFin)
    (h : some (packS g 0xE8 0 0 xa 0 0 0 0 (reachCode a ++ k) 0) = some w) : parse w = some (.tlbi g a m) :=
  parse_of_packS (fun r => (reachOf (w.extractLsb' 55 2)).bind fun a => tlbiOf (w.extractLsb' 52 3).toNat r.g a r.xa)
    (fun hmod _ => by rw [hmod.split.1, hmod.split.2, reachOf_reachCode]; exact hk) rfl h
-- The operands of an instruction keep their declared names, which are short: the proof term names them for every constructor.
set_option tactic.hygienic false in
/-- The fields of an encoded instruction name it again: the opcode selects an arm of `parse`, given for each instruction as a function of
the fields, and each field that the arm reads holds what was encoded. -/
theorem parse_encode {i : Instr} {w : Slot96} (h : encode i = some w) : parse w = some i := by
  revert h
  cases i with
  | add => exact parse_of_encSrc fun r => some (.add r.g r.xd r.xa r.src)
  | sub => exact parse_of_encSrc fun r => some (.sub r.g r.xd r.xa r.src)
  | mul => exact parse_of_encSrc fun r => some (.mul r.g r.xd r.xa r.src)
  | mulh => exact parse_of_encSrc (fun r => some (.mulh r.g r.u r.xd r.xa r.src)) fun _ => by simp only [append_flag]
  | div => exact parse_of_encSrc (fun r => some (.div r.g r.u r.xd r.xa r.src)) fun _ => by simp only [append_flag]
  | rem => exact parse_of_encSrc (fun r => some (.rem r.g r.u r.xd r.xa r.src)) fun _ => by simp only [append_flag]
  | and => exact parse_of_encSrc fun r => some (.and r.g r.xd r.xa r.src)
  | or => exact parse_of_encSrc fun r => some (.or r.g r.xd r.xa r.src)
  | xor => exact parse_of_encSrc fun r => some (.xor r.g r.xd r.xa r.src)
  | andn => exact parse_of_encSrc fun r => some (.andn r.g r.xd r.xa r.src)
  | orn => exact parse_of_encSrc fun r => some (.orn r.g r.xd r.xa r.src)
  | shl => exact parse_of_encSrc fun r => some (.shl r.g r.xd r.xa r.src)
  | shr => exact parse_of_encSrc fun r => some (.shr r.g r.xd r.xa r.src)
  | sar => exact parse_of_encSrc fun r => some (.sar r.g r.xd r.xa r.src)
  | rol => exact parse_of_encSrc fun r => some (.rol r.g r.xd r.xa r.src)
  | min => exact parse_of_encSrc (fun r => some (.min r.g r.u r.xd r.xa r.src)) fun _ => by simp only [append_flag]
  | max => exact parse_of_encSrc (fun r => some (.max r.g r.u r.xd r.xa r.src)) fun _ => by simp only [append_flag]
  | clz => exact parse_of_packS fun r => some (.clz r.g r.xd r.xa)
  | ctz => exact parse_of_packS fun r => some (.ctz r.g r.xd r.xa)
  | popc => exact parse_of_packS fun r => some (.popc r.g r.xd r.xa)
  | bext => exact parse_of_encSrc fun r => some (.bext r.g r.xd r.xa r.src)
  | bins => exact parse_of_encSrc fun r => some (.bins r.g r.xd r.xa r.src)
  | sext => exact parse_of_packS (fun r => (sextOf r.fn).map fun s => .sext r.g s r.xd r.xa) fun _ _ => by simp
  | mov => exact parse_of_encSrc fun r => some (.mov r.g r.xd r.src)
  | li =>
    intro h
    obtain ⟨hop, hg, hxd, himm⟩ := packL_fields (Option.some.inj h)
    refine parse_of_op hop (congrArg some ?_)
    simp [hg, hxd, himm]
  | sel =>
    refine parse_of_encSrc (fun r => some (.sel r.g r.xd (w.extractLsb' 52 3).toFin (w.getLsbD 55) r.xa r.src)) fun hmod => ?_
    have hneg : w.getLsbD 55 = _ := hmod.split.1.split.2.flag
    simp only [hmod.split.2, hneg]
  | cmp => exact parse_of_encSrc (fun r => (cmpOf r.fn).map fun c => .cmp r.g c r.pd r.pe r.xa r.src) fun _ => by simp
  | tstb => exact parse_of_encSrc fun r => some (.tstb r.g r.pd r.pe r.xa r.src)
  | pand => exact parse_of_packS (fun r => some (.pand r.g r.pd r.pa r.pb)) fun _ _ => by simp
  | por => exact parse_of_packS (fun r => some (.por r.g r.pd r.pa r.pb)) fun _ _ => by simp
  | pxor => exact parse_of_packS (fun r => some (.pxor r.g r.pd r.pa r.pb)) fun _ _ => by simp
  | pandn => exact parse_of_packS (fun r => some (.pandn r.g r.pd r.pa r.pb)) fun _ _ => by simp
  | pnot => exact parse_of_packS (fun r => some (.pnot r.g r.pd r.pa)) fun _ _ => by simp
  | pmovPtox | pmovXtop =>
    exact parse_of_packS (fun r => if r.u then some (.pmovXtop r.g r.pd r.xa) else some (.pmovPtox r.g r.xd r.pa)) fun _ _ => by simp
  | pany => exact parse_of_encSrc (fun r => (anyOf r.fn).map fun k => .pany r.g k r.pd r.pe r.pa r.src) fun _ => by simp
  | pcnt => exact parse_of_encSrc (fun r => some (.pcnt r.g r.xd r.pa r.src)) fun _ => by simp
  | ld => exact parse_of_packS (fun r => (ldwOf r.fn).map fun l => .ld r.g l r.xd r.xa r.imm) fun _ _ => by simp
  | st => exact parse_of_packS (fun r => (stwOf r.fn).map fun l => .st r.g l r.xa r.xb r.imm) fun _ _ => by simp
  | ldn => exact parse_of_packS (fun r => (ldwOf r.fn).map fun l => .ldn r.g l r.xd r.xa r.imm) fun _ _ => by simp
  | lde | ldeC => exact parse_of_packS fun r => if r.u then some (.ldeC r.g r.xd r.xa r.imm) else some (.lde r.g r.xd r.xa r.imm)
  | stf => exact parse_of_packS fun r => some (.stf r.g r.xa r.xb r.imm)
  | empt => exact parse_of_packS fun r => some (.empt r.g r.xa r.imm)
  | feq => exact parse_of_packS fun r => some (.feq r.g r.pd r.pe r.xa r.imm)
  | aadd => exact parse_of_encAtom .aadd fun _ => by simp only [append_flag]
  | aand => exact parse_of_encAtom .aand fun _ => by simp only [append_flag]
  | aor => exact parse_of_encAtom .aor fun _ => by simp only [append_flag]
  | axor => exact parse_of_encAtom .axor fun _ => by simp only [append_flag]
  | aswap => exact parse_of_encAtom .aswap fun _ => by simp only [append_flag]
  | amin =>
    refine parse_of_encAtom (fun g w8 => .amin g w8 (w.getLsbD 77)) fun hfn => ?_
    have hu : w.getLsbD 77 = _ := hfn.split.1.split.2.flag
    simp only [append_flag, hu]
  | amax =>
    refine parse_of_encAtom (fun g w8 => .amax g w8 (w.getLsbD 77)) fun hfn => ?_
    have hu : w.getLsbD 77 = _ := hfn.split.1.split.2.flag
    simp only [append_flag, hu]
  | afadd => exact parse_of_encAtom (fun g _ => .afadd g) fun _ => rfl
  | acas =>
    exact parse_of_packS (fun r => (orderOf r.mod).map fun o => .acas r.g r.u o r.xd r.pd r.pe r.xa r.xb r.imm)
      fun _ _ => by simp only [append_flag, orderOf_orderCode, Option.map_some]
  | br _ t =>
    cases t with
    | always | z | nz | neg | nneg => exact parse_br rfl
  | brx => exact parse_of_packB (fun g _ k xa _ => (annulOf k).map fun a => .brx g a xa) fun _ => by simp
  | callx => exact parse_of_packB (fun g _ k xa _ => (annulOf k).map fun a => .callx g a xa) fun _ => by simp
  | call =>
    exact parse_of_packB (fun g _ k _ loff => (annulOf k).bind fun a => (fTs w).map fun ts => .call g a loff ts)
      fun hts => by simp [fTs_of_field hts]
  | trap => exact parse_of_encSrc fun r => some (.trap r.g r.src)
  | yield => exact parse_of_encSrc fun r => some (.yield r.g r.src)
  | eret => exact parse_of_packS fun r => some (.eret r.g)
  | nop => exact parse_of_packS fun r => some (.nop r.g)
  | exit => exact parse_of_packS fun r => some (.exit r.g)
  | trig => exact parse_of_packS fun r => some (.trig r.g)
  | srd => exact parse_of_packS (fun r => some (.srd r.g r.xd (w.extractLsb' 0 12))) fun _ himm => by simp [himm.split.2]
  | swr => exact parse_of_packS (fun r => some (.swr r.g (w.extractLsb' 0 12) r.xa)) fun _ himm => by simp [himm.split.2]
  | ts => exact parse_of_packS fun r => some (.ts r.g r.xd)
  | cyc => exact parse_of_packS fun r => some (.cyc r.g r.xd)
  | tpost => exact parse_of_encSrc fun r => some (.tpost r.g r.xd r.pd r.pe r.xa r.src)
  | prio => exact parse_of_encSrc fun r => some (.prio r.g r.xd r.pd r.pe r.xa r.src)
  | fence => exact parse_of_packS (fun r => (orderOf r.mod).map fun o => .fence r.g o) fun _ _ => by simp
  | wswin => exact parse_of_encSrc fun r => some (.wswin r.g r.xd r.src)
  | spawn | spawnLoose =>
    exact parse_of_encSrc fun r => if r.u then some (.spawnLoose r.g r.xd r.pd r.pe r.xa r.src)
      else some (.spawn r.g r.xd r.pd r.pe r.xa r.src)
  | spnr =>
    exact parse_of_packS (fun r => (evOf (w.extractLsb' 0 3)).map fun e => .spnr r.g r.xa r.xb e) fun _ himm => by simp [himm.split.2]
  | join => exact parse_of_packS fun r => some (.join r.g r.xd r.pd r.pe r.xa)
  | migr => exact parse_of_packS fun r => some (.migr r.g r.xd r.pd r.pe r.xa)
  | enq => exact parse_of_packS fun r => some (.enq r.g r.xd r.pd r.pe r.xa)
  | klnch => exact parse_of_packS fun r => some (.klnch r.g r.xd r.pd r.pe r.xa)
  | slot => exact parse_of_encSrc fun r => some (.slot r.g r.xd r.pd r.pe r.src)
  | semw => exact parse_of_encSrc (fun r => some (.semw r.g (w.extractLsb' 52 2).toFin r.src)) fun hmod => by simp [hmod.split.2]
  | sema =>
    exact parse_of_encSrc (fun r => some (.sema r.g r.xd r.pd r.pe (w.extractLsb' 52 2).toFin r.xa r.src))
      fun hmod => by simp [hmod.split.2]
  | chanInstall | chanBlock | chanUnblock | chanRemove | chanQuery => exact parse_of_encSrc fun r => chanOf r.mod.toNat r
  | gname => exact parse_of_packS fun r => if r.mod = 0 then some (.gname r.g r.xd) else some (.gnameRank r.g r.xd r.pd r.pe r.src)
  | gnameRank => exact parse_of_encSrc fun r => if r.mod = 0 then some (.gname r.g r.xd) else some (.gnameRank r.g r.xd r.pd r.pe r.src)
  | varm => exact parse_of_packV (fun r => some (.varm r.g r.vd (w.extractLsb' 0 8))) fun _ himm => by simp [himm.split.2]
  | vput =>
    refine parse_of_packV (fun r => (evOf (w.extractLsb' 8 3)).map fun e =>
      .vput r.g r.va r.xa (w.extractLsb' 0 6).toFin e) fun _ himm => ?_
    have hev : w.extractLsb' 8 3 = _ := himm.split.1.split.1.split.2
    simp only [himm.split.2, hev, evOf_evCode, Option.map_some]
  | send =>
    refine parse_of_packS (fun r => (evOf (w.extractLsb' 0 3)).map fun e =>
      .send r.g (w.extractLsb' 52 2).toFin (w.extractLsb' 54 2).toFin e r.xa r.xb) fun hmod himm => ?_
    have hprio : w.extractLsb' 54 2 = _ := hmod.split.1.split.2
    simp only [hmod.split.2, hprio, himm.split.2, evOf_evCode, Option.map_some]
  | recv | recvTry =>
    exact parse_of_encSrc fun r => if r.u then some (.recvTry r.g r.xd r.pd r.pe r.xa r.src) else some (.recv r.g r.xd r.pd r.pe r.xa r.src)
  | mboxOpen | mboxClose | mboxQuery => exact parse_of_encSrc fun r => mboxOf r.fn.toNat r
  | wid _ _ sel =>
    have hsel : (BitVec.ofNat 48 sel.val).toNat = sel.val := by
      rw [BitVec.toNat_ofNat]
      exact Nat.mod_eq_of_lt (by omega)
    refine parse_of_packS (fun r => if h : r.imm.toNat < 17 then some (.wid r.g r.xd ⟨r.imm.toNat, h⟩) else none) fun _ _ => ?_
    simp [hsel]
  | kwait => exact parse_of_packS fun r => some (.kwait r.g r.pd r.pe)
  | binit =>
    exact parse_of_encSrc (fun r => (scpOf (w.extractLsb' 52 3)).map fun s => .binit r.g s r.xa r.src) fun hmod => by simp [hmod.split.2]
  | barr => exact parse_of_packS fun r => if r.u then some (.bexp r.g r.xd r.xa r.src) else some (.barr r.g r.xd r.xa)
  | bexp => exact parse_of_encSrc fun r => if r.u then some (.bexp r.g r.xd r.xa r.src) else some (.barr r.g r.xd r.xa)
  | bwait | btest => exact parse_of_encSrc fun r => if r.u then some (.btest r.g r.pd r.pe r.xa r.src) else some (.bwait r.g r.xa r.src)
  | bind =>
    exact parse_of_encSrc (fun r => if r.u then some (.unbind r.g r.xd r.pd r.pe r.src)
      else (scpOf (w.extractLsb' 52 3)).map fun s => .bind r.g s r.xd r.pd r.pe r.xa r.src)
      fun hmod => by simp [hmod.split.2]
  | unbind =>
    exact parse_of_encSrc fun r => if r.u then some (.unbind r.g r.xd r.pd r.pe r.src)
      else (scpOf (w.extractLsb' 52 3)).map fun s => .bind r.g s r.xd r.pd r.pe r.xa r.src
  | vadd => exact parse_of_packV_rm fun ty r => some (.vadd r.g ty r.rm r.vd r.va r.vb)
  | vsub => exact parse_of_packV_rm fun ty r => some (.vsub r.g ty r.rm r.vd r.va r.vb)
  | vmul => exact parse_of_packV_rm fun ty r => some (.vmul r.g ty r.rm r.vd r.va r.vb)
  | vfma => exact parse_of_packV_rm fun ty r => some (.vfma r.g ty r.rm r.vd r.va r.vb r.vc)
  | vfms => exact parse_of_packV_rm fun ty r => some (.vfms r.g ty r.rm r.vd r.va r.vb r.vc)
  | vmin => exact parse_of_packV_ty fun ty r => some (.vmin r.g ty r.vd r.va r.vb)
  | vmax => exact parse_of_packV_ty fun ty r => some (.vmax r.g ty r.vd r.va r.vb)
  | vand => exact parse_of_packV_ty fun ty r => some (.vand r.g ty r.vd r.va r.vb)
  | vor => exact parse_of_packV_ty fun ty r => some (.vor r.g ty r.vd r.va r.vb)
  | vxor => exact parse_of_packV_ty fun ty r => some (.vxor r.g ty r.vd r.va r.vb)
  | viadd => exact parse_of_packV_ty fun ty r => some (.viadd r.g ty r.vd r.va r.vb)
  | vimul => exact parse_of_packV_ty fun ty r => some (.vimul r.g ty r.vd r.va r.vb)
  | vabs => exact parse_of_packV_ty fun ty r => some (.vabs r.g ty r.vd r.va)
  | vneg => exact parse_of_packV_ty fun ty r => some (.vneg r.g ty r.vd r.va)
  | vmov => exact parse_of_packV_ty fun ty r => some (.vmov r.g ty r.vd r.va)
  | vrcp => exact parse_of_packV_rm fun ty r => some (.vrcp r.g ty r.rm r.vd r.va)
  | vrsq => exact parse_of_packV_rm fun ty r => some (.vrsq r.g ty r.rm r.vd r.va)
  | vexp2 => exact parse_of_packV_rm fun ty r => some (.vexp2 r.g ty r.rm r.vd r.va)
  | vlog2 => exact parse_of_packV_rm fun ty r => some (.vlog2 r.g ty r.rm r.vd r.va)
  | vcmp => exact parse_of_packV_ty (fun ty r => (vcondOf r.fn).map fun c => .vcmp r.g c ty r.pd r.pe r.va r.vb) fun _ _ => by simp
  | vsel =>
    refine parse_of_packV_ty (fun ty r => some (.vsel r.g ty r.vd (w.extractLsb' 0 3).toFin (w.getLsbD 3) r.va r.vb)) fun _ himm => ?_
    have hneg : w.getLsbD 3 = _ := himm.split.1.split.2.flag
    simp only [himm.split.2, hneg]
  | vbcst => exact parse_of_packV_ty fun ty r => some (.vbcst r.g ty r.vd r.xa)
  | vextr =>
    exact parse_of_packV_ty (fun ty r => some (.vextr r.g ty r.xb r.va (w.extractLsb' 0 6).toFin)) fun _ himm => by simp [himm.split.2]
  | vcvt =>
    refine parse_of_packV_ty (fun ty r => (tyOf (w.extractLsb' 76 4)).map fun st =>
      .vcvt r.g ty st (w.getLsbD 80) r.rm r.vd r.va (w.extractLsb' 0 3).toFin) fun hfn himm => ?_
    have hns : w.getLsbD 80 = _ := hfn.split.1.split.2.flag
    simp only [hfn.split.2, tyOf_tyCode, hns, himm.split.2, rmOf_rmCode, Option.map_some]
  | vred => exact parse_of_packV_ty (fun ty r => (vredOf r.fn).map fun o => .vred r.g o ty r.rm r.vd r.va) fun _ _ => by simp
  | vperm => exact parse_of_packV_ty fun ty r => some (.vperm r.g ty r.vd r.va r.vb r.vc)
  | vshuf =>
    exact parse_of_packV_ty (fun ty r => (fShuf w).map fun m => .vshuf r.g ty r.vd r.va r.vb m) fun _ himm => by simp [fShuf_of_field himm]
  | vshl => exact parse_of_encShift .vshl
  | vshr => exact parse_of_encShift .vshr
  | vsar => exact parse_of_encShift .vsar
  | vidx => exact parse_of_packV_ty fun ty r => some (.vidx r.g ty r.vd r.xa r.imm)
  | vld => exact parse_of_packV_ty fun ty r => some (.vld r.g ty r.vd r.xa r.imm)
  | vst => exact parse_of_packV_ty fun ty r => some (.vst r.g ty r.va r.xa r.imm)
  | vins =>
    exact parse_of_packV_ty (fun ty r => some (.vins r.g ty r.vd r.xa (w.extractLsb' 0 6).toFin)) fun _ himm => by simp [himm.split.2]
  | vldg =>
    exact parse_of_packV_ty (fun ty r => some (.vldg r.g ty r.vd r.vb r.xa (w.extractLsb' 0 2).toFin)) fun _ himm => by simp [himm.split.2]
  | vsts =>
    exact parse_of_packV_ty (fun ty r => some (.vsts r.g ty r.va r.vb r.xa (w.extractLsb' 0 2).toFin)) fun _ himm => by simp [himm.split.2]
  | vclass =>
    exact parse_of_packV_ty (fun ty r => some (.vclass r.g ty r.vd r.pd r.pe r.va (w.extractLsb' 0 10)))
      fun _ himm => by simp [himm.split.2]
  | tclose => exact parse_of_packM fun r => some (.tclose r.g r.tl)
  | topen => exact parse_of_packM fun r => some (.topen r.g r.tl r.sz.toFin)
  | midx => exact parse_of_packM fun r => some (.midx r.g r.tl r.vi r.xa r.xb)
  | tsave => exact parse_of_packM (fun r => some (.tsave r.g r.done r.tl r.xa)) fun _ _ => by simp
  | trest => exact parse_of_packM (fun r => some (.trest r.g r.done r.tl r.xa)) fun _ _ => by simp
  | tqry => exact parse_of_packM fun r => some (.tqry r.g r.xa r.tl)
  | mmrg => exact parse_of_packM (fun r => some (.mmrg r.g r.done)) fun _ _ => by simp
  | mclr => exact parse_of_packM (fun r => some (.mclr r.g r.done r.bk)) fun _ _ => by simp
  | mdep => exact parse_of_packM (fun r => some (.mdep r.g r.xa r.bk)) fun _ _ => by simp
  | portq => exact parse_of_packM fun r => some (.portq r.g r.xa)
  | tzero =>
    refine parse_of_packM (fun r => some (.tzero r.g r.tl (fCb w) (fNbm w))) fun _ hlow => ?_
    have R := encRange_fields hlow
    simp [fNbm, R.hcb, R.hnbm]
  | tload =>
    refine parse_of_packM (fun r => (tfmtOf r.sz).map fun f =>
      .tload r.g f r.done r.tl r.xa r.xb (fCb w) (fNbm w) (w.getLsbD 39)) fun _ hlow => ?_
    have R := encRange_fields hlow
    simp only [tfmtOf_tfmtCode, doneOf_doneEv_doneWt, R.hcb, fNbm, R.hnbm, R.hlay.flag, Option.map_some]
  | tstore =>
    refine parse_of_packM (fun r => (tfmtOf r.sz).map fun f =>
      .tstore r.g f r.done r.tl r.xa r.xb (fCb w) (fNbm w) (w.getLsbD 39)) fun _ hlow => ?_
    have R := encRange_fields hlow
    simp only [tfmtOf_tfmtCode, doneOf_doneEv_doneWt, R.hcb, fNbm, R.hnbm, R.hlay.flag, Option.map_some]
  | tread =>
    refine parse_of_packM (fun r => some (.tread r.g r.tl r.vi r.xb r.xc (w.getLsbD 38))) fun _ hlow => ?_
    simp only [(encRange_fields hlow).hrow.flag]
  | twrite =>
    refine parse_of_packM (fun r => some (.twrite r.g r.tl r.vi r.xb r.xc (w.getLsbD 38))) fun _ hlow => ?_
    simp only [(encRange_fields hlow).hrow.flag]
  | mma =>
    refine parse_of_packM (fun r => (kOf r.sz).map fun k =>
      .mma r.g r.done r.tl r.xb r.xc k (fCb w) (w.extractLsb' 40 2).toFin) fun _ hlow => ?_
    have R := encRange_fields hlow
    simp [R.hcb, R.hnbm.split.2]
  | mcnt =>
    refine parse_of_packM (fun r => (kOf r.sz).map fun k =>
      .mcnt r.g r.done r.bk r.tl r.xb r.xc k (w.extractLsb' 40 3).toFin) fun _ hlow => ?_
    simp [(encRange_fields hlow).hnbm.split.2]
  | mdrn =>
    refine parse_of_packM (fun r => some (.mdrn r.g r.done r.bk r.tl (fCb w) (w.extractLsb' 40 3).toFin)) fun _ hlow => ?_
    have R := encRange_fields hlow
    simp [R.hcb, R.hnbm.split.2]
  | mres =>
    refine parse_of_packM (fun r => some (.mres r.g (w.getLsbD 58) r.tl)) fun hwt _ => ?_
    simp only [hwt.flag]
  | cpy => exact parse_of_encCopy fun o r => some (.cpy r.g o r.xa r.xb r.xc)
  | cpy2 => exact parse_of_encCopy fun o r => some (.cpy2 r.g o r.xa r.xb r.xc)
  | cpyw => exact parse_of_encCopy fun o r => some (.cpyw r.g o r.xa r.xb r.xc)
  | fill => exact parse_of_encCopy fun o r => some (.fill r.g o r.xa r.xb r.xc)
  | cpym => exact parse_of_encCopy (fun o r => some (.cpym r.g o r.xa r.xb r.xc (w.extractLsb' 21 8))) fun hmsk => by simp [hmsk]
  | cpyr => exact parse_of_encCopy (fun o r => (cpyrOf r.sz).map fun p => .cpyr r.g p o r.xa r.xb r.xc) fun _ => by simp
  | tlbi _ _ m =>
    cases m with
    | page | ctx | all => exact parse_tlbi rfl
  | probe => exact parse_of_packS (fun r => (permOf r.mod).map fun a => .probe r.g a r.xd r.pd r.pe r.xa) fun _ _ => by simp
  | _ => exact parse_of_none

/-- Settles O3: `parse` finds the instruction again, and the re-encoding and well-formedness that `decode` asks for are given. -/
theorem encodeDecode : Obligations.EncodeDecode := by
  intro i w hwf he
  simp only [decode, parse_encode he, he, hwf, if_true]

/-- A word that an instruction is encoded in stands for it. -/
theorem decodeTableWord_of_encode {w : Nat} {i : Instr} (hw : w < 2 ^ 96) (hi : wf i = true) (he : encode i = some (BitVec.ofNat 96 w)) :
    decodeTableWord 96 w = some i := by
  unfold decodeTableWord
  rw [Nat.mod_eq_of_lt hw, encodeDecode i _ hi he]

/-- Settles O1: each word is the encoding of its instruction. -/
theorem decodesSpecWords : Obligations.DecodesSpecWords :=
  ⟨decodeTableWord_of_encode (by decide) rfl (by decide), decodeTableWord_of_encode (by decide) rfl (by decide),
    decodeTableWord_of_encode (by decide) rfl (by decide)⟩

end Sys2Proof.Laws
end

section
/-! SUPPORT. Branches and calls (11_thread_flow R284, R287, R288): what `State.branch` does, and the state after its commit. -/

namespace Sys2Proof.Machine

open Sys2Proof.Safety

/-! ### An update of the executing thread alone -/

/-- The state of an executing thread that becomes `f` of itself, with issue marks `q`: no other part of the module changes. -/
theorem modMe_frame (s : State) (f : Thread → Thread) (q : List (Tid × Half)) :
    let t : State := { s.modMe f with issueq := q }
    t.me = f s.me ∧ (t.slot t.cur).st = (s.slot s.cur).st ∧ moduleSame s t ∧ othersSame s t := by
  intro t
  have hslot : t.slot t.cur = { s.slot s.cur with th := f s.me } := s.modMe_slot_cur f
  exact ⟨congrArg Slot.th hslot, (congrArg Slot.st hslot :), rfl, fun _ hid => Tab.getD_set_ne _ _ _ (Ne.symm hid)⟩

/-- A commit changes no register. -/
theorem Thread.regsSame_committed (t : Thread) (taken : Option Word) (ann : Bool) : regsSame t (t.committed taken ann) [] [] :=
  ⟨fun _ _ => rfl, fun _ _ => rfl, rfl, rfl, rfl, rfl, rfl, rfl, rfl, rfl, rfl, rfl, rfl⟩

/-- A write of one x register and a commit change no other register. -/
theorem Thread.regsSame_setX_committed (t : Thread) (r : XReg) (v : Word) (taken : Option Word) (ann : Bool) :
    regsSame t ((t.setX r v).committed taken ann) [r] [] :=
  ⟨fun _ hr => t.xr_setX_ne v fun e => hr (by simp [e]), fun _ _ => rfl, rfl, rfl, rfl, rfl, rfl, rfl, rfl, rfl, rfl, rfl, rfl⟩

/-! ### The branch -/

section
variable (s : State) (anl : Annul) {t : Word} (indirect link : Bool)

/-- A branch to an address beyond 48 bits. -/
theorem State.branch_addr (h : 2 ^ 48 ≤ t.toNat) : s.branch true anl t indirect link = s.trap .addr t := if_pos h

/-- An indirect branch to a place inside a slot. -/
theorem State.branch_align (h : t.toNat < 2 ^ 48) (hp : pcOk t = false) : s.branch true anl t true link = s.trap .align t := by
  unfold State.branch
  rw [hp, if_neg (by simp), if_neg (by omega)]
  rfl

/-- The thread with the address after the delay slots in x15, as CALL and CALLX write it (R287). -/
def Thread.linked (t : Thread) : Thread := t.setX 15 (nextPc (nextPc (nextPc t.pc)))

/-- A taken branch whose target is good. -/
theorem State.branch_good (h : t.toNat < 2 ^ 48) (hp : indirect = true → pcOk t = true) :
    s.branch true anl t indirect link = (if link then s.modMe Thread.linked else s).commitTaken (some t) (decide (anl = .at_)) := by
  have hi : (indirect && !pcOk t) = false := by cases indirect <;> simp_all
  unfold State.branch
  rw [hi, if_neg (by simp), if_neg (by omega)]
  rfl

end

/-- A legal PC is below 2^48. -/
theorem pcOk_lt {a : Word} (h : pcOk a = true) : a.toNat < 2 ^ 48 := by
  simp only [pcOk, Bool.and_eq_true, decide_eq_true_eq] at h
  obtain ⟨⟨hlt, -⟩, -⟩ := h
  exact hlt

/-- A PC that names no slot is not legal. -/
theorem pcOk_inside {a : Word} (h : a.toNat % 64 ∉ [0, 12, 24, 36, 48]) : pcOk a = false := by
  have hslots : ∀ r < 64, r ∉ [0, 12, 24, 36, 48] → (decide (r % 12 = 0) && decide (r < 60)) = false := by decide
  unfold pcOk
  rw [Bool.and_assoc, hslots _ (Nat.mod_lt _ (by decide)) h, Bool.and_false]

/-- The condition of BR as the rule states it (R287). -/
theorem Thread.test_iff (t : Thread) (c : BrTest) :
    t.test c = true ↔ match c with
      | .always => True
      | .z x => t.xr x = 0
      | .nz x => t.xr x ≠ 0
      | .neg x => (t.xr x).toInt < 0
      | .nneg x => 0 ≤ (t.xr x).toInt := by
  cases c <;> simp [Thread.test]

/-- What a taken branch to `tgt` ends with: `goes` of `Obligations.Branches`. -/
def Jumps (i : Instr) (s : State) (tgt : Word) (ann : Bool) (xs : List XReg) : Prop :=
  ∃ t, exec i s = .next t ∧ t.cur = s.cur ∧ jumped s t tgt ann ∧ moduleSame s t ∧ othersSame s t ∧ regsSame s.me t.me xs []
    ∧ (15 ∈ xs → t.me.xr 15 = nextPc (nextPc (nextPc s.me.pc)))

section
variable {i : Instr} {s : State} {tgt : Word} {ann : Bool} (hr : (s.slot s.cur).st = .ready)
include hr

/-- A taken branch without a link. -/
theorem jumps_of_commit (he : exec i s = .next (s.commitTaken (some tgt) ann)) : Jumps i s tgt ann [] := by
  rw [State.commitTaken_ready hr] at he
  obtain ⟨hme, hst, hmodule, hothers⟩ := modMe_frame s (fun t => t.committed (some tgt) ann) (markRest s s.me.pairRest)
  refine ⟨_, he, rfl, ?_, hmodule, hothers, ?_, nofun⟩
  · unfold jumped
    rw [hme]
    exact ⟨rfl, rfl, rfl, rfl, rfl, rfl, rfl, rfl, hst.trans hr⟩
  · rw [hme]
    exact s.me.regsSame_committed _ _

/-- A call. -/
theorem jumps_of_linked (he : exec i s = .next ((s.modMe Thread.linked).commitTaken (some tgt) ann)) : Jumps i s tgt ann [15] := by
  have hr' : ((s.modMe Thread.linked).slot s.cur).st = .ready := by rw [State.modMe_slot_cur]; exact hr
  rw [State.commitTaken_ready hr', State.modMe_modMe] at he
  obtain ⟨hme, hst, hmodule, hothers⟩ := modMe_frame s (fun t => t.linked.committed (some tgt) ann)
    (markRest (s.modMe Thread.linked) (s.modMe Thread.linked).me.pairRest)
  refine ⟨_, he, rfl, ?_, hmodule, hothers, ?_, fun _ => ?_⟩
  · unfold jumped
    rw [hme]
    exact ⟨rfl, rfl, rfl, rfl, rfl, rfl, rfl, rfl, hst.trans hr⟩
  · rw [hme]
    exact s.me.regsSame_setX_committed _ _ _ _
  · rw [hme]
    exact s.me.xr_setX_self _ _

end

/-- What a BR that is not taken ends with (R284): the chain goes on, and the delay slots are annulled when `ann`. -/
theorem goesOn_of_commit {i : Instr} {s : State} {ann : Bool} (hr : (s.slot s.cur).st = .ready)
    (he : exec i s = .next (s.commitTaken none ann)) :
    ∃ t, exec i s = .next t ∧ moduleSame s t ∧ othersSame s t ∧ regsSame s.me t.me [] []
      ∧ t.me.pc = s.me.npc ∧ t.me.npc = s.me.nnpc ∧ t.me.nnpc = nextPc s.me.nnpc ∧ t.me.k2 = false
      ∧ t.me.a0 = (s.me.a1 || ann) ∧ t.me.a1 = ann := by
  rw [State.commitTaken_ready hr] at he
  obtain ⟨hme, -, hmodule, hothers⟩ := modMe_frame s (fun t => t.committed none ann) (markRest s s.me.pairRest)
  refine ⟨_, he, hmodule, hothers, ?_⟩
  rw [hme]
  exact ⟨s.me.regsSame_committed _ _, rfl, rfl, rfl, rfl, rfl, rfl⟩

/-! ### The instructions -/

section
variable {s : State} {g : Guard} {anl : Annul} {loff : BitVec 42} {ts : Fin 5} {xa : XReg} {c : BrTest}

theorem exec_br (h : runs s g (testRegs c) = true) :
    exec (.br g c anl loff ts) s = .next (s.branch (s.me.test c) anl (branchTarget s.me.pc loff ts) false false) := by
  show execBr g c anl loff ts s = _
  rw [execBr, guarded_runs h (List.Subset.refl _)]

/-- A BR whose condition fails. -/
theorem exec_br_fails {x : XReg} (h : runs s g [x] = true)
    (hc : (c = .z x ∧ s.me.xr x ≠ 0) ∨ (c = .nz x ∧ s.me.xr x = 0) ∨ (c = .neg x ∧ 0 ≤ (s.me.xr x).toInt)
      ∨ (c = .nneg x ∧ (s.me.xr x).toInt < 0)) :
    exec (.br g c anl loff ts) s = .next (s.commitTaken none (decide (anl = .an))) := by
  have hfails : testRegs c = [x] ∧ s.me.test c = false := by
    obtain ⟨rfl, hx⟩ | ⟨rfl, hx⟩ | ⟨rfl, hx⟩ | ⟨rfl, hx⟩ := hc
    · exact ⟨rfl, decide_eq_false hx⟩
    · exact ⟨rfl, decide_eq_false (not_not_intro hx)⟩
    · exact ⟨rfl, decide_eq_false (not_lt.2 hx)⟩
    · exact ⟨rfl, decide_eq_false (not_le.2 hx)⟩
  rw [exec_br (hfails.1 ▸ h), hfails.2]
  rfl

variable (h : runs s g [xa, 15] = true)
include h

theorem exec_brx : exec (.brx g anl xa) s = .next (s.branch true anl (s.me.xr xa) true false) := by
  show execBrx g anl xa s = _
  rw [execBrx, guarded_runs h (by simp)]

theorem exec_call : exec (.call g anl loff ts) s = .next (s.branch true anl (branchTarget s.me.pc loff ts) false true) := by
  show execCall g anl loff ts s = _
  rw [execCall, guarded_runs h (by simp)]

theorem exec_callx : exec (.callx g anl xa) s = .next (s.branch true anl (s.me.xr xa) true true) := by
  show execCallx g anl xa s = _
  rw [execCallx, guarded_runs h (List.Subset.refl _)]

end

/-- The direct target as R42 writes it. -/
theorem branchTarget_eq (pc : Word) (loff : BitVec 42) (ts : Fin 5) :
    branchTarget pc loff ts = (pc &&& ~~~63#64) + loff.signExtend 64 * 64 + BitVec.ofNat 64 (12 * ts.val) := by
  unfold branchTarget word
  rw [Nat.mul_comm]
  rfl

/-- Settles O16: a branch that runs is `State.branch`, which commits to its good target, traps on a bad one, or goes on. -/
theorem branches : Obligations.Branches := by
  refine ⟨?_, ?_, ?_⟩
  · intro s g anl loff ts xa c h hc direct link ann goes holds
    have hr := freeRegs_ready hc
    have hbr : runs s g (testRegs c) = true := Bool.and_eq_true_iff.2 ⟨runs_guard h, hc⟩
    refine ⟨fun hd => ?_, fun hx => ?_⟩
    · have hdirect : branchTarget s.me.pc loff ts = direct := branchTarget_eq _ _ _
      have hd' : (branchTarget s.me.pc loff ts).toNat < 2 ^ 48 := by rw [hdirect]; exact hd
      refine ⟨fun ht => ?_, ?_⟩
      · refine jumps_of_commit hr ?_
        rw [exec_br hbr, (Thread.test_iff _ _).2 ht, State.branch_good _ _ false _ hd' nofun, hdirect]
        rfl
      · refine jumps_of_linked hr ?_
        rw [exec_call h, State.branch_good _ _ false _ hd' nofun, hdirect]
        rfl
    · refine ⟨jumps_of_commit hr ?_, jumps_of_linked hr ?_⟩
      · rw [exec_brx h, State.branch_good _ _ _ _ (pcOk_lt hx) fun _ => hx]
        rfl
      · rw [exec_callx h, State.branch_good _ _ _ _ (pcOk_lt hx) fun _ => hx]
        rfl
  · intro s g anl loff ts c x h hc
    exact goesOn_of_commit (freeRegs_ready (runs_freeRegs h)) (exec_br_fails h hc)
  · intro s g anl loff ts xa h x
    refine ⟨fun hx => ⟨?_, ?_⟩, fun hx hin => ⟨?_, ?_⟩, fun hd => ⟨?_, ?_⟩⟩
    · rw [exec_brx h, State.branch_addr _ _ _ _ hx]
    · rw [exec_callx h, State.branch_addr _ _ _ _ hx]
    · rw [exec_brx h, State.branch_align _ _ _ hx (pcOk_inside hin)]
    · rw [exec_callx h, State.branch_align _ _ _ hx (pcOk_inside hin)]
    · rw [exec_br (runs_mono h (by simp [testRegs]))]
      exact congrArg _ (State.branch_addr _ _ _ _ hd)
    · rw [exec_call h, State.branch_addr _ _ _ _ hd]

end Sys2Proof.Machine
end

section
/-! SUPPORT. Privileged instructions and unknown special registers (R48, R296, R299, R303, R415). -/

namespace Sys2Proof.Machine

open Sys2Proof.Safety

/-- A privileged instruction outside privileged mode. -/
theorem privileged_traps {s : State} (h : s.me.priv = false) (k : Host.Outcome State Fault Refusal) :
    privileged true s k = .next (s.trap .priv s.me.pc) := by
  unfold privileged
  rw [h]
  rfl

/-- SRD of a register that only privileged code reads. -/
theorem exec_srd_traps {s : State} {g : Guard} {xd : XReg} {n : BitVec 12} (h : s.me.priv = false) (hn : srKnown n = true)
    (hp : n.toNat = 0x047 ∨ n.toNat = 0x048) : exec (.srd g xd n) s = .next (s.trap .priv s.me.pc) := by
  show execSrd g xd n s = _
  have hp : (decide (n.toNat = 0x047) || decide (n.toNat = 0x048)) = true := by simpa using hp
  unfold execSrd
  rw [hn, hp]
  exact privileged_traps h _

/-- SWR of a register that only privileged code writes. -/
theorem exec_swr_traps {s : State} {g : Guard} {xa : XReg} {n : BitVec 12} (h : s.me.priv = false)
    (hn : srKnown n = true ∧ srReadOnly n = false) (hp : srPrivWrite n.toNat = true) :
    exec (.swr g n xa) s = .next (s.trap .priv s.me.pc) := by
  show execSwr g n xa s = _
  unfold execSwr
  rw [hn.1, hn.2, hp]
  exact privileged_traps h _

/-- SWR of a register that cannot be written, or of none. -/
theorem exec_swr_ill {s : State} {g : Guard} {xa : XReg} {n : BitVec 12} (hn : srKnown n = false ∨ srReadOnly n = true) :
    exec (.swr g n xa) s = .next (s.trap .ill s.me.pc) := by
  have hn : (!srKnown n || srReadOnly n) = true := by simpa using hn
  exact if_pos hn

/-- SRD of no register. -/
theorem exec_srd_ill {s : State} {g : Guard} {xd : XReg} {n : BitVec 12} (hn : srKnown n = false) :
    exec (.srd g xd n) s = .next (s.trap .ill s.me.pc) := by
  show execSrd g xd n s = _
  unfold execSrd
  rw [hn]
  rfl

/-- The registers whose write is privileged are there and can be written (R303). -/
theorem srPrivWrite_of_mem : ∀ n ∈ [0x010, 0x011, 0x013, 0x031, 0x040, 0x041, 0x042, 0x043, 0x044, 0x045, 0x046, 0x047, 0x048, 0x050, 0x051],
    srKnown (BitVec.ofNat 12 n) = true ∧ srReadOnly (BitVec.ofNat 12 n) = false ∧ srPrivWrite n = true := by decide

/-- A number outside the map of R303 names no register. -/
theorem srKnown_of_not_mem {n : BitVec 12} (h : n.toNat ∉ [0x000, 0x001, 0x002, 0x003, 0x004, 0x010, 0x011, 0x012, 0x013, 0x020, 0x021,
    0x022, 0x023, 0x024, 0x025, 0x030, 0x031, 0x040, 0x041, 0x042, 0x043, 0x044, 0x045, 0x046, 0x047, 0x048, 0x050, 0x051]) :
    srKnown n = false :=
  Bool.eq_false_iff.2 fun hk => h (List.contains_iff_mem.1 hk)

/-- Settles O21: the checks of SRD and SWR come before the guard, and so does the one of ERET, TLBI and PROBE. -/
theorem privilegedAndUnknown : Obligations.PrivilegedAndUnknown := by
  refine ⟨fun s g n xd xa pd pe r m a h => ⟨?_, ?_, ?_, ?_, ?_, fun hn => ?_⟩, fun s g n xd xa => ⟨fun hn => ?_, fun hn => ⟨?_, ?_⟩⟩⟩
  · exact privileged_traps h _
  · exact exec_srd_traps h rfl (.inl rfl)
  · exact exec_srd_traps h rfl (.inr rfl)
  · exact privileged_traps h _
  · exact privileged_traps h _
  · obtain ⟨hk, hw, hp⟩ := srPrivWrite_of_mem _ hn
    rw [BitVec.ofNat_toNat, BitVec.setWidth_eq] at hk hw
    exact exec_swr_traps h ⟨hk, hw⟩ hp
  · exact exec_swr_ill (.inr (List.contains_iff_mem.2 hn))
  · exact exec_swr_ill (.inl (srKnown_of_not_mem hn))
  · exact exec_srd_ill (srKnown_of_not_mem hn)

end Sys2Proof.Machine
end

section
/-! SUPPORT. A step that runs the instruction of a fetched line (01_lines R25 to R30, R34, R36). -/

namespace Sys2Proof.Machine

/-! ### The fetch -/

/-- An access that no moving page holds is performed at the address it names. -/
theorem State.livePa_of_still {s : State} {pa : Nat} (h : s.movingAt pa = none) : s.livePa pa = pa := by
  unfold State.livePa
  cases s.moving.length with
  | zero => rfl
  | succ n => unfold State.forwarded; rw [h]

/-- The access is in no queue of a class and sends nothing again: it has been performed. -/
def State.gone (s : State) (key : AccKey) : State := (s.bandGone key).fullGone key

/-- Only the queues change. -/
theorem State.gone_form (s : State) (key : AccKey) : ∃ q r, s.gone key = { s with bwq := q, fullq := r } := by
  unfold State.gone State.bandGone
  split
  · exact ⟨_, _, rfl⟩
  · exact ⟨_, _, rfl⟩

/-- An access of an unlimited class is admitted at once. -/
theorem State.admitBand_unlimited {s : State} {key : AccKey} {ctx c pa n : Nat} (h : (s.bwClass c).unl = true) :
    s.admitBand key ctx (some c) pa n = (true, s.bandGone key) := if_pos h

/-- The fetch of a line of HBM4E that no moving page holds, in an unlimited class, is performed at once. -/
theorem State.fetchGate_go {s : State} {t : Tid} {chip pa c : Nat} {loc : Bool} (hp : place pa = .hbm) (hm : s.movingAt pa = none)
    (hu : (s.bwClass c).unl = true) :
    s.fetchGate t { chip := chip, pa := pa, bwc := some c, loc := loc } = .go pa (s.gone (.fetch t)) := by
  unfold State.fetchGate
  rw [hp]
  show State.gateFor _ _ _ _ _ _ _ _ = _
  unfold State.gateFor
  rw [hp]
  show (match s.movingAt (s.livePa pa) with | some m => _ | none => _) = _
  rw [State.livePa_of_still hm, hm]
  show (match s.admitBand _ _ (some c) pa 64 with | (true, s) => _ | (false, s) => _) = _
  rw [State.admitBand_unlimited hu]
  rfl

/-- A line of HBM4E that no ECC error marks, read at its home. -/
theorem State.fetchHome_line {s : State} {line : Target} {home : Nat} {pc : Word} (he : s.eccHit home 64 = false)
    (hp : place line.pa = .hbm) :
    s.fetchHome line home pc = .line (s.bytes home 64) (s.fillLine (clusterOf s.cur.core) line.chip line.pa (s.bytes home 64)) := by
  simp only [State.fetchHome, he, hp, if_true, Bool.false_eq_true, if_false]

section
variable {u : State} {e : TlbE} {d : List Byte} (hpc : u.me.pc.toNat < 2 ^ 48) (hx : u.xlate u.me.pc.toNat = .ok e u)
  (hperm : permCheck u u.me.ctx e.pte.toNat (e.pa (pcLine u.me.pc)) .fetch = none) (hp : place (e.pa (pcLine u.me.pc)) = .hbm)
include hpc hx hperm hp

/-- A line that the cluster cache holds. -/
theorem State.fetch_cached (hc : u.cached (clusterOf u.cur.core) u.chip (e.pa (pcLine u.me.pc)) = some d) : u.fetch = .line d u := by
  simp only [State.fetch, if_neg (Nat.not_le.2 hpc), hx, hperm, hp, if_true, hc, Bool.false_eq_true, if_false]

/-- A line read at its home, which fills the cluster cache. -/
theorem State.fetch_home (hc : u.cached (clusterOf u.cur.core) u.chip (e.pa (pcLine u.me.pc)) = none)
    (hm : u.movingAt (e.pa (pcLine u.me.pc)) = none) (hu : (u.bwClass (pteBwc e.pte.toNat)).unl = true)
    (he : u.eccHit (e.pa (pcLine u.me.pc)) 64 = false) (hd : d = u.bytes (e.pa (pcLine u.me.pc)) 64) :
    u.fetch = .line d ((u.gone (.fetch u.cur)).fillLine (clusterOf u.cur.core) (pteChip e.pte.toNat) (e.pa (pcLine u.me.pc)) d) := by
  obtain ⟨q, r, hform⟩ := u.gone_form (.fetch u.cur)
  simp only [State.fetch, if_neg (Nat.not_le.2 hpc), hx, hperm, hp, if_true, hc, Bool.false_eq_true, if_false,
    State.fetchGate_go hp hm hu]
  rw [hform, hd]
  exact State.fetchHome_line he hp

end

/-! ### The checks -/

/-- A thread whose slot passes the checks of its line and begins no pair runs its instruction. -/
theorem State.prepareWhole_run {u m : State} {t : Thread} {d : List Byte} {i : Instr} (hf : u.fetch = .line d m) (ht : m.me = t)
    (hl : lineOk (lineWord d) = true) (hk : t.k0 = true → t.reissue = false → bitN (lineWord d) (pcSlot t.pc) = true)
    (hb : t.breaks = false) (hpar : slotParity d (pcSlot t.pc) = true) (hi : decode (slotOf d (pcSlot t.pc)) = .ok i)
    (hpair : t.pairs d (pcSlot t.pc) = false) :
    u.prepareWhole = .run i (m.modMe fun t => { t with pairRest := false }) := by
  subst ht
  have hbtm : (m.me.k0 && !m.me.reissue && !bitN (lineWord d) (pcSlot m.me.pc)) = false := by
    cases h0 : m.me.k0
    · rfl
    · cases hr : m.me.reissue
      · simp [hk h0 hr]
      · rfl
  have hinstr : slotInstr d (pcSlot m.me.pc) = some i := by unfold slotInstr; rw [hi]
  simp only [State.prepareWhole, State.lineChecks, hf, hl, State.slotChecks, hbtm, State.breakThen, hb, hpar, hinstr, hpair, Bool.not_true,
    Bool.false_eq_true, if_false]

/-- An issue mark whose thread is prepared to run an instruction. -/
theorem stepIssue_run {s m : State} {t : Tid} {i : Instr} (hlive : (s.slot t).st.live = true) (h : (s.at_ t).prepareWhole = .run i m) :
    stepIssue s t .whole = settled (exec i m) := by
  have hprepare : (s.at_ t).prepare .whole = .run i m := h
  unfold stepIssue
  rw [if_pos hlive, hprepare]

/-- Settles O2: the fetch gives the line in both cases, the checks pass, and `exec` runs the instruction; the other two parts are the
branches of `step`. -/
theorem stepRunsDecoded : Obligations.StepRunsDecoded := by
  intro s m T rest e d i u pa
  refine ⟨fun hq hlive hpc hx hperm hp hline hl hk hb hpar hi hpair => ?_, fun time l hq ha hi => ?_, fun hq ha => ?_⟩
  · have hfetch : u.fetch = .line d m ∧ m.me = u.me := by
      obtain ⟨hc, rfl⟩ | ⟨hc, hm, hu, he, hd, rfl⟩ := hline
      · exact ⟨State.fetch_cached hpc hx hperm hp hc, rfl⟩
      · obtain ⟨q, r, hform⟩ := u.gone_form (.fetch T)
        refine ⟨State.fetch_home hpc hx hperm hp hc hm hu he hd, ?_⟩
        show ((u.gone (.fetch T)).fillLine _ _ _ d).me = u.me
        rw [hform]
        rfl
    obtain ⟨hf, hme⟩ := hfetch
    unfold step
    rw [hq]
    exact stepIssue_run hlive (State.prepareWhole_run hf hme hl hk hb hpar hi hpair)
  · unfold step
    rw [hq, ha]
    show stepEvent _ i = _
    unfold stepEvent
    rw [hi]
    rfl
  · unfold step
    rw [hq, ha]

end Sys2Proof.Machine
end
